-- ==== Sys2Proof/Word.lean ====
section
/-! DEFINITION. The words of the block: register words, bytes, and two's complement views of a field (R6). -/
namespace Sys2Proof

/-- A register, descriptor or stream word: 32 bits (R6). -/
abbrev Word := BitVec 32

/-- A byte of host or device memory. -/
abbrev Byte := BitVec 8

/-- A field of `w` bits read as a two's complement number. -/
def signedOf (w v : Nat) : Int :=
  let v := v % 2 ^ w
  if v < 2 ^ (w - 1) then (v : Int) else (v : Int) - (2 ^ w : Nat)

/-- An integer put into a field of `w` bits, two's complement. -/
def fieldOf (w : Nat) (x : Int) : Nat := (x % (2 ^ w : Nat)).toNat

/-- Bits `[lo + w - 1 : lo]` of a number. -/
def bitsOf (v lo w : Nat) : Nat := v / 2 ^ lo % 2 ^ w

/-- Bit `i` of a number. -/
def bitOf (v i : Nat) : Bool := v / 2 ^ i % 2 = 1

/-- A Bool as a one-bit field. -/
def b2n (b : Bool) : Nat := if b then 1 else 0

end Sys2Proof
end

