-- ==== Sys2Proof/Messages.lean ====
section
/-! DEFINITION. The operands of commands that are more than a number: descriptors, fetched data and messages. -/
namespace Sys2Proof

/-- A 64-byte descriptor as fetched: its 16 little-endian words (R79). -/
structure Desc where
  words : List Word
  deriving DecidableEq, Repr

/-- What a fetch from host memory brings: the bytes, or the status code of its failure (0x22, 0x23, 0x24 of R89) and the byte offset
of the burst that failed. -/
inductive Fetch where
  | data (bytes : List Byte)
  | failed (code off : Nat)
  /-- The data came, and an on-chip transport parity error has poisoned the granule at an offset (R379). -/
  | struck (bytes : List Byte) (offset : Nat)
  deriving DecidableEq, Repr

/-- A datum in a protected memory that a fault may poison: what the consumer of that datum sees (R375, R378). -/
inductive Datum where
  | content (tag stream offset : Nat)
  | plane (tag stream offset : Nat)
  | layout (tag num offset : Nat)
  | glyph (tag offset : Nat)
  | record (tag frame offset : Nat)
  | curve (bank c i : Nat)
  | matrix (bank c i : Nat)
  | ramp (bank q j : Nat)
  /-- Byte `i` of the diffusion kernel table (R194). -/
  | kernel (bank i : Nat)
  | level (bank c k : Nat)
  | nozzle (bank i : Nat)
  | stitch (bank s : Nat)
  | align (bank n : Nat)
  | saveSlot (slot : Nat)
  /-- A granule of a context's history, by the stream that it belongs to and the output offset of its first byte (R141). -/
  | calHist (ident offset : Nat)
  /-- A granule of the capture buffer, by its offset in the decoded capture stream, and of a camera's image (R150). -/
  | capture (offset : Nat)
  | image (cam offset : Nat)
  | composed (c g : Nat)
  /-- The entry of column `x` in an error row of a stripe's channel (R200). -/
  | errorRow (stripe c x : Nat)
  | lineStore (link row tag line : Nat)
  | device (addr : Nat)
  | linen
  /-- A datum that the position engine, the calendar, the time base, the ring and duplex unit, the lease or the service processor
  reads all the time. -/
  | engine
  /-- A datum that nothing reads. -/
  | other
  deriving DecidableEq, Repr

/-- What a scrub read finds (R383): `hard` says that the cell reads wrong again after the write-back. -/
inductive Scrub where
  | clean
  | ce (cell : Nat) (hard : Bool)
  | ue
  | stored
  deriving DecidableEq, Repr

/-- The place of an SRAM code word: cluster, engine, tile and macro of its location code, macro index across the die, byte offset in
the macro, and whether its code is (13,8) (R373, R385). -/
structure SramWord where
  cluster : Nat
  engine : Nat
  tile : Nat
  macro_ : Nat
  index : Nat
  offset : Nat
  narrow : Bool
  deriving DecidableEq, Repr

/-- One scrub read of DRAM: device address, what it finds, the datum at the address, and whether a functional write has reached it
before the write-back (R383, R384). -/
structure DramRead where
  addr : Nat
  result : Scrub
  datum : Datum
  overwritten : Bool
  deriving DecidableEq, Repr

/-- A request of a requester port for one 32-byte burst: port, write, device address (R391, R395). -/
structure DramReq where
  port : Nat
  write : Bool
  addr : Nat
  deriving DecidableEq, Repr

/-- A command of a pseudo-channel: an all-bank refresh; a row activated in a bank; a burst read or written; the rows next to one of a bank
activated and precharged (R397, R400, R401). -/
inductive DramCmd where
  | refresh
  | activate (bank row : Nat)
  | burst (r : DramReq)
  | neighbours (bank row : Nat)
  deriving DecidableEq, Repr

/-- What happens at a pseudo-channel, `ns` after what happened there before: a port asks, or the next command can issue, when `hit` lets a
read that hits an open row go ahead of older reads to its bank (R397). -/
inductive DramStep where
  | ask (ns : Nat) (r : DramReq)
  | issue (ns : Nat) (hit : Bool)
  deriving DecidableEq, Repr

/-- A PTP message but Announce, decoded (R329): domainNumber, sourcePortIdentity, sequenceId, twoStepFlag, correctionField in 2^-16 ns,
the time-stamp of its body in ns, and requestingPortIdentity. -/
structure Ptp where
  domain : Nat
  source : Nat
  seq : Nat
  twoStep : Bool
  corr : Int
  time : Nat
  requester : Nat
  deriving DecidableEq, Repr

/-- An Announce, decoded (R329): domainNumber, sourcePortIdentity, logMessageInterval as a signed number, and the data set of its
grandmaster. -/
structure PtpAnnounce where
  domain : Nat
  source : Nat
  interval : Int
  prio1 : Nat
  class_ : Nat
  accuracy : Nat
  variance : Nat
  prio2 : Nat
  identity : Nat
  steps : Nat
  deriving DecidableEq, Repr

/-- The Linen state after a period: X, v, a, XT, FINAL, the held speed, the profile (V, ACCEL, DECEL, JERK), a stop in progress (DECEL,
QUICK, whether DECEL was held), and of each axis OFS and the running cam (R323, R361). -/
structure LinenImage where
  period : Nat
  x : Int
  v : Nat
  a : Int
  target : Option Int
  final : Bool
  hold : Option Nat
  prof : List Nat
  stop : Option (Nat × Bool × Bool)
  axes : List (Int × Option (Nat × Int × Int))
  deriving DecidableEq, Repr

/-- One partner state record of MIRROR, DECISION or SNAPSHOT (R361, R369), decoded: their form in the message is the device's own. -/
inductive PartnerRec where
  /-- Stepping and firmware image of the sender. -/
  | identity (stepping image : Nat)
  /-- A table whole, as a load brings it: KIND, INSTANCE, bytes. -/
  | table (kind inst : Nat) (bytes : List Byte)
  /-- A nozzle entry as decided; FO and XO of a head row as measured. -/
  | nozzle (index entry : Nat)
  | align (row : Nat) (fo xo : Int)
  /-- The banks of table kinds switch: bit 0 nozzle table, 1 stitch set, 2 alignment set. -/
  | switch (mask : Nat)
  /-- A job open on the active: what JOB_OPEN takes from it. -/
  | job (tag j0 frames scaleN scaleD : Nat) (live : Bool)
  /-- A job goes live at J0. -/
  | live (tag j0 : Nat)
  /-- The status of a JOB_STAGE, SPLICE_AT or JOB_CLOSE. -/
  | status (op tag code detail : Nat)
  /-- A change of device state: GLB_STATE.STATE. -/
  | mode (m : Nat)
  /-- The Linen state; an accepted GEAR_SET, CAM_START and LINEN_PARAM. -/
  | linen (l : LinenImage)
  | gear (axis gn gd : Nat)
  | camSlot (pos axis table : Nat)
  | linenReg (off value : Nat)
  /-- PW, rem and E_hw at a web-encoder edge. -/
  | edge (pw rem : Nat) (eHw : Int)
  /-- The lowest frame whose record the unit holds, or in answer F_join. -/
  | join (tag frame : Nat)
  /-- A part of a record that has more than 64 words and that a later message completes. -/
  | part
  deriving DecidableEq, Repr

/-- A block of a native lane (R243, R244): 64 data bits, a control block with its type and payload bytes 1 to 7, or a block whose sync header
is invalid. On a compatibility port: the start of a frame as SOF, eight data groups, /N/ as ACKNAK, or an invalid code group (R256). -/
inductive LaneBlock where
  | data (w : Nat)
  | control (type : Nat) (payload : List Nat)
  | invalid
  deriving DecidableEq, Repr

/-- What a transmitter sends in the block slots that no frame and no other block takes. -/
inductive TxStream where
  /-- Electrical idle. -/
  | off
  /-- At a rate code, an ALIGN every `align` blocks, and, where there is one, a control block (type, payload) every `every` blocks; IDLE in
  the other slots (R247, R250, R253). -/
  | blocks (rate align : Nat) (extra : Option (Nat × Nat × List Nat))
  /-- Training with ALIGN every 8 blocks for 2 us, and from then on as an UP transmitter (R260). -/
  | wake (rate : Nat)
  /-- A raw pattern on a set of lanes (R262). -/
  | prbs (pattern lanes : Nat)
  /-- The received stream returned (R263). -/
  | loopback
  /-- /I/, and /F/ so that no more than 2,048 code groups pass without one (R256). -/
  | compat
  deriving DecidableEq, Repr

/-- One row of a line as a memory read delivers it: payload words and stored check (R414, R415). -/
structure RowRead where
  payload : List Nat
  check : Nat
  deriving DecidableEq, Repr

/-- A response of the Yardor monitor (R480): what it reports. The last line of every response is `ok` or `err`, and the prompt follows it
(R479). -/
inductive MonResp where
  /-- The banner (R470 step 12). -/
  | banner
  | help
  /-- Part, stepping, grade; VERSION, slot and ROLLBACK where firmware runs. -/
  | ver (part stepping grade : Nat) (fw : Option (Nat × Nat × Nat))
  /-- GLB_STATE and the packed fatal location. -/
  | state (word loc : Nat)
  /-- Stage, failing stage, packed location, durations in us. -/
  | selftest (stage failed loc : Nat) (us : List Nat)
  /-- The words of SENSE_TEMP_0 to 16, the throttle level, SENSE_SHUT. -/
  | temp (words : List Nat) (level shut : Nat)
  /-- Words read from BAR0 at an offset. -/
  | words (off : Nat) (ws : List Nat)
  /-- Recorder records, newest first. -/
  | records (rs : List (List Nat))
  /-- Lane ports: number, LANE_PORT_STAT and counters. -/
  | lane (ports : List (Nat × List Nat))
  /-- MEM_REPAIR, MEM_CE_CNT, MEM_UE_CNT, MEM_DRAM_STAT. -/
  | mem (words : List Nat)
  /-- The challenge of `unlock`. -/
  | challenge (c : Nat)
  | ok
  | err (code : Nat)
  deriving DecidableEq, Repr

end Sys2Proof
end

