-- ==== Sys2Proof/Syntax.lean ====
section
/-! DEFINITION. The commands of the block: one constructor per row of spec/opcode_table.json, in the table's order. Every
command carries first `dt`, the nanoseconds of the time base (R16) since the command before it; then its row's operands. -/
namespace Sys2Proof

/-- The commands. -/
inductive Instr where
  /-- GO_READY (R477). A write of GLB_STATE_CTL.GO_READY in SETUP locks the LK fields and starts the set-up check; in any other state, or together with GO_SETUP, it is refused. -/
  | goReady (dt : Nat) (value : Nat)
  /-- SETUP_CHECK_DONE (R477). The set-up check ends and the device either enters READY or stays in SETUP and unlocks the fields. -/
  | setupCheckDone (dt : Nat)
  /-- GO_SETUP (R32). A write of GLB_STATE_CTL.GO_SETUP returns READY to SETUP when no job is open; otherwise it is refused. -/
  | goSetup (dt : Nat) (value : Nat)
  /-- FORCE_SAFE (R36). A write of GLB_STATE_CTL.FORCE_SAFE puts the device into SAFE from any state and acts alone. -/
  | forceSafe (dt : Nat) (value : Nat)
  /-- REGISTER_WRITE (R38). A BAR0 write to a register that has no row of its own takes effect or is ignored according to its access code and the device state. -/
  | registerWrite (dt : Nat) (off value : Nat) (parity : Bool)
  /-- BAD_ACCESS (R42). A BAR0 access of an unsupported size or alignment is discarded or answered as Unsupported Request, and is posted. -/
  | badAccess (dt : Nat) (space off len : Nat) (write parity : Bool)
  /-- POWER_ON_RESET (R467). The supply detectors see VCORE, VSRAM or VIO18 out of tolerance and hold the device in power-on reset, which also clears SENSE_SHUT.PEND. -/
  | powerOnReset (dt : Nat)
  /-- COLD_RESET (R436). Assertion of RESET_N or PERST# resets every domain together and sets every generation count to 0. -/
  | coldReset (dt : Nat) (ns : Nat)
  /-- COLD_RESET_RELEASE (R470). Release of the last reset input starts the power-up sequence in SELFTEST. -/
  | coldResetRelease (dt : Nat) (bad : Nat)
  /-- PLL_LOCK (R471). The PLLs lock, which starts temperature sampling, start-up calibration, PCI Express training and the later self-test stages. -/
  | pllLock (dt : Nat) (temps : List Int) (tref lref : Bool) (width speed : Nat)
  /-- CLOCK_STAGE_RETRY (R471). A clocks stage that has not locked within 1 ms is retried every 10 ms. -/
  | clockStageRetry (dt : Nat)
  /-- BIST_DONE (R386). BIST of the SRAM macros and logic ends; repairs are applied, or self-test fails. -/
  | bistDone (dt : Nat) (entries : List Nat) (logicOk : Bool) (loc : Nat) (silent : Bool)
  /-- MEMORY_FILL_DONE (R381). The SRAM and DRAM fills complete, or a fill failure ends self-test in SAFE. -/
  | memoryFillDone (dt : Nat) (sramOk dramOk : Bool) (ms loc : Nat) (h0 h1 : List Byte)
  /-- IMAGE_LOAD_DONE (R474). The candidate firmware image has been loaded and hashed; its signature and header checks decide boot or fallback to the other slot. -/
  | imageLoadDone (dt : Nat) (header payload : List Byte)
  /-- FIRMWARE_SELFTEST_DONE (R470). The firmware self-test ends and the device enters SETUP or SAFE. -/
  | firmwareSelftestDone (dt : Nat) (ok : Bool) (loc : Nat)
  /-- SAFE_STATUS (R476). Every 1 s in SAFE, a SAFE_STATUS event is posted with the cause, the fatal location and the self-test status. -/
  | safeStatus (dt : Nat)
  /-- FUNCTION_LEVEL_RESET (R75). An FLR acts as FORCE_SAFE and returns configuration space and the HOST registers to their reset values. -/
  | functionLevelReset (dt : Nat)
  /-- D3HOT_ENTRY (R75). A transition to D3hot in RUN or HOLD is treated as FORCE_SAFE. -/
  | d3hotEntry (dt : Nat) (enter : Bool)
  /-- BUS_MASTER_DISABLE (R76). Clearing Bus Master Enable while any ring is enabled is treated as FORCE_SAFE. -/
  | busMasterDisable (dt : Nat) (enable : Bool)
  /-- PCIE_SIDE_RESET (R436). A hot reset, a link down or a link disable resets the PCIE domain. -/
  | pcieSideReset (dt : Nat)
  /-- MSIX_UNMASK (R96). Unmasking an MSI-X vector that has its pending bit set sends the message. -/
  | msixUnmask (dt : Nat) (v word value : Nat)
  /-- INTERRUPT_COALESCE_TIMEOUT (R96). The oldest unsignalled completion of a ring reaches COAL_US, and the ring's vector signals. -/
  | interruptCoalesceTimeout (dt : Nat) (n : Nat)
  /-- DOORBELL_POLL (R83). Each DB_POLL interval, a 64-byte read of the doorbell line is issued, or counted as skipped while the previous read is outstanding. -/
  | doorbellPoll (dt : Nat)
  /-- DOORBELL_READ_DONE (R86). A doorbell read completes and the device takes new work from the rings in their fixed order. -/
  | doorbellReadDone (dt : Nat) (line : Fetch) (missing : List Nat) (evs : List (Nat × Desc))
  /-- NOP (R90). A NOP descriptor completes when it is taken. -/
  | nop (dt : Nat) (ring : Nat) (x : Desc)
  /-- JOB_OPEN (R91). JOB_OPEN creates a job with its tag, geometry, depth and scaling, after any pending switch of the live job's banks. -/
  | jobOpen (dt : Nat) (ring : Nat) (x : Desc)
  /-- LAYOUT_LOAD (R157). LAYOUT_LOAD fetches and checks a layout for an OPEN job and stores it, or completes with TABLE_BAD. -/
  | layoutLoad (dt : Nat) (ring : Nat) (x : Desc) (data : Fetch)
  /-- NOZZLE_TABLE_LOAD (R209). A TABLE_LOAD of KIND 0x01 writes nozzle-table entries into the inactive bank after the whole-table checks. -/
  | nozzleTableLoad (dt : Nat) (ring : Nat) (x : Desc) (data : Fetch)
  /-- TONE_CURVE_LOAD (R190). A TABLE_LOAD of KIND 0x02 writes a tone curve in direct form, or fills it from knots. -/
  | toneCurveLoad (dt : Nat) (ring : Nat) (x : Desc) (data : Fetch) (residue : Bool)
  /-- THRESHOLD_MATRIX_LOAD (R196). A TABLE_LOAD of KIND 0x03 replaces a channel's threshold matrix. -/
  | thresholdMatrixLoad (dt : Nat) (ring : Nat) (x : Desc) (data : Fetch)
  /-- THRESHOLD_RAMPS_LOAD (R197). A TABLE_LOAD of KIND 0x04 writes whole threshold ramps. -/
  | thresholdRampsLoad (dt : Nat) (ring : Nat) (x : Desc) (data : Fetch)
  /-- DIFFUSION_KERNEL_LOAD (R194). A TABLE_LOAD of KIND 0x05 sets each channel's screening mode and the programmable kernel. -/
  | diffusionKernelLoad (dt : Nat) (ring : Nat) (x : Desc) (data : Fetch)
  /-- LEVEL_TO_DROP_LOAD (R193). A TABLE_LOAD of KIND 0x06 writes a channel's level values and drop codes. -/
  | levelToDropLoad (dt : Nat) (ring : Nat) (x : Desc) (data : Fetch)
  /-- STITCH_SET_LOAD (R213). A TABLE_LOAD of KIND 0x07 writes one stitch into the inactive bank. -/
  | stitchSetLoad (dt : Nat) (ring : Nat) (x : Desc) (data : Fetch)
  /-- CAM_TABLE_LOAD (R315). A TABLE_LOAD of KIND 0x08 writes a single-banked cam table that is not in use. -/
  | camTableLoad (dt : Nat) (ring : Nat) (x : Desc) (data : Fetch)
  /-- POLICY_TABLE_LOAD (R230). A TABLE_LOAD of KIND 0x09 writes the Gauze, link, Linen or mains policy table that its INSTANCE names. -/
  | policyTableLoad (dt : Nat) (ring : Nat) (x : Desc) (data : Fetch)
  /-- GLYPH_SET_LOAD (R166). A TABLE_LOAD of KIND 0x0A writes a job's glyph set after the header, font-map and directory checks. -/
  | glyphSetLoad (dt : Nat) (ring : Nat) (x : Desc) (data : Fetch)
  /-- ALIGNMENT_SET_LOAD (R232). A TABLE_LOAD of KIND 0x0B writes the feed and cross-web offsets into the inactive alignment bank. -/
  | alignmentSetLoad (dt : Nat) (ring : Nat) (x : Desc) (data : Fetch)
  /-- JOB_STAGE (R139). JOB_STAGE is taken for an open job and waits until its WAIT entries are met. -/
  | jobStage (dt : Nat) (ring : Nat) (x : Desc)
  /-- STAGING_BEGIN (R139). Once the WAIT entries are met, the job's streams are checked for LAST and their decode starts. -/
  | stagingBegin (dt : Nat) (tag : Nat) (ends : List Nat)
  /-- JOB_STAGE_COMPLETE (R140). Staging ends with every stream expanded and the job STAGED, or at the first failure with the job left OPEN. -/
  | jobStageComplete (dt : Nat) (tag pick : Nat)
  /-- CONTEXT_RESTORE (R147). A saved decode is restored, oldest first, to a context that becomes free. -/
  | contextRestore (dt : Nat) (c : Nat)
  /-- COMPRESSOR_FLUSH (R149). FLUSH_US after a block's first byte, the compressor closes the block. -/
  | compressorFlush (dt : Nat) (dest : Nat)
  /-- SPLICE_AT (R92). SPLICE_AT checks a staged job and a frame-boundary position and schedules a splice slot. -/
  | spliceAt (dt : Nat) (ring : Nat) (x : Desc)
  /-- JOB_CLOSE (R105). JOB_CLOSE discards a job that is not live or sets the last frame of a live job. -/
  | jobClose (dt : Nat) (ring : Nat) (x : Desc) (ahead : List (Nat × Desc))
  /-- MOVE (R102). MOVE starts a web move, making a staged job live when none is live. -/
  | move (dt : Nat) (ring : Nat) (x : Desc)
  /-- STOP (R309). STOP decelerates the web to rest and completes once the web is at rest. -/
  | stop (dt : Nat) (ring : Nat) (x : Desc)
  /-- SET_SPEED (R307). SET_SPEED changes speed, acceleration or deceleration while the web moves. -/
  | setSpeed (dt : Nat) (ring : Nat) (x : Desc)
  /-- LADDER_NOW (R218). LADDER_NOW starts a ladder round on the masked links in the next gutter that Damask has not begun. -/
  | ladderNow (dt : Nat) (ring : Nat) (x : Desc)
  /-- CAPTURE_ON (R494). CAPTURE_ON starts a capture stream at the next frame start, or at once with no job live. -/
  | captureOn (dt : Nat) (ring : Nat) (x : Desc)
  /-- CAPTURE_OFF (R501). CAPTURE_OFF stops taking records and writes the END record. -/
  | captureOff (dt : Nat) (ring : Nat) (x : Desc)
  /-- RING_RESET (R99). RING_RESET restarts a stopped ring other than the Command ring at NEW_CONS. -/
  | ringReset (dt : Nat) (ring : Nat) (x : Desc)
  /-- COMMAND_RING_RESTART (R100). Writing 1 to HOST_RING_STAT_n.STOPPED of the Command ring with the web at rest restarts the ring. -/
  | commandRingRestart (dt : Nat) (n value : Nat)
  /-- CONTENT_PUT (R138). CONTENT_PUT fetches a content buffer, walks and checks its block headers, and stores it compressed. -/
  | contentPut (dt : Nat) (ring : Nat) (x : Desc) (data : Fetch)
  /-- RECORD_PUT (R164). RECORD_PUT fetches a frame record, checks it against its layout and stores it in the record buffer. -/
  | recordPut (dt : Nat) (ring : Nat) (x : Desc) (data : Fetch)
  /-- CAPTURE_BUF (R498). A published capture buffer descriptor is taken and filled with stream bytes, or read as input in replay mode. -/
  | captureBuf (dt : Nat) (ring : Nat) (x : Desc) (data : Fetch)
  /-- IMAGE_BUF (R224). A published image buffer descriptor is taken and filled with camera image stream bytes. -/
  | imageBuf (dt : Nat) (ring : Nat) (x : Desc)
  /-- DMA_READ_COMPLETION (R116). A read completion for a DMA request arrives and is checked for errors or poison. -/
  | dmaReadCompletion (dt : Nat) (ch k ring : Nat) (f : Fetch)
  /-- DMA_WRITE_RESPONSE (R116). A write response arrives, which can complete a transfer or stop the channel on error. -/
  | dmaWriteResponse (dt : Nat) (ch : Nat) (ok : Bool) (landed : Nat)
  /-- COMPLETION_TIMEOUT (R126). A DMA read request has no completion within the configured timeout, and its channel stops. -/
  | completionTimeout (dt : Nat) (ch ring : Nat)
  /-- UNEXPECTED_COMPLETION (R124). A completion that arrives after its timeout is discarded, counted and reported through AER. -/
  | unexpectedCompletion (dt : Nat) (ch : Nat)
  /-- XFER_LIST (R117). PARAM XFER_LIST runs a chain of transfer descriptors on channel 13 or 14. -/
  | xferList (dt : Nat) (ring : Nat) (x : Desc)
  /-- WEB_ENCODER_EDGE (R50). An accepted edge of the web encoder updates E, E_hw and PW, feeds the estimator and acts on the row timers and calendar. -/
  | webEncoderEdge (dt : Nat) (lineA aLeads : Bool)
  /-- ENCODER_EDGE (R45). An accepted edge of an enabled encoder other than the web encoder is counted and checked. -/
  | encoderEdge (dt : Nat) (n : Nat) (lineA aLeads : Bool)
  /-- ENCODER_GLITCH (R47). A pulse shorter than the filter time is suppressed and counted in POS_GLITCH_n. -/
  | encoderGlitch (dt : Nat) (n : Nat)
  /-- INDEX_EDGE (R57). An accepted Z edge is checked against its expected index window. -/
  | indexEdge (dt : Nat) (n : Nat) (level : Bool)
  /-- ESTIMATOR_REST (R60). No sample for REST_MS sets AT_REST and invalidates the estimator. -/
  | estimatorRest (dt : Nat)
  /-- ESTIMATE_INVALID (R60). The estimate lapses when 1.5 expected gaps pass without a new sample. -/
  | estimateInvalid (dt : Nat)
  /-- PSI_CHANGE (R58). A PSI input holds its new level for the debounce time and its function acts. -/
  | psiChange (dt : Nat) (n : Nat) (pin : Bool)
  /-- PSI_WATCHDOG (R59). An input active for longer than WDOG ms sets STUCK. -/
  | psiWatchdog (dt : Nat) (n : Nat)
  /-- POS_REREG (R56). PARAM POS_REREG in HOLD at rest clears REG_LOST after a reversal or an overspeed. -/
  | posRereg (dt : Nat) (ring : Nat) (x : Desc)
  /-- PSO_AT (R71). PARAM PSO_AT schedules one host PSO change at a position. -/
  | psoAt (dt : Nat) (ring : Nat) (x : Desc)
  /-- CALENDAR_SLOT_ACT (R66). A Predict-mode calendar slot reaches its predicted instant and acts: PSO change, camera window, or reject mark. -/
  | calendarSlotAct (dt : Nat) (slot : Nat)
  /-- PW (R72). A PW broadcast message arrives and feeds the follower's estimator. -/
  | pwMessage (dt : Nat) (port : Nat) (words : List (BitVec 64))
  /-- POS_LOST (R73). A follower that has had no broadcast for 5 µs sets POS_LOST and sends no new line frames. -/
  | posLost (dt : Nat)
  /-- COMPOSE_LINE (R168). Damask composes the next line once its record, symbols and room are present. -/
  | composeLine (dt : Nat) (kib : Nat) (residues : List (Nat × Nat))
  /-- CODE_PAINT (R178). The code painter encodes a frame's code fields on both paths once the record is present and the previous frame is painted. -/
  | codePaint (dt : Nat) (differ : List (Nat × Nat))
  /-- SCREEN_LINE (R183). Twill begins and screens the next composed line with the tables in force. -/
  | screenLine (dt : Nat) (residues : List (Nat × Nat × Nat))
  /-- GAUZE_LINE (R211). Gauze maps a screened line to slots, with shift, stitch blending, compensation and gutter dashes. -/
  | gauzeLine (dt : Nat)
  /-- LINE_QUEUE (R272). A mapped line is written into the FIFOs of all enabled links once they have room, with its source checks. -/
  | lineQueue (dt : Nat)
  /-- THROTTLE_PAUSE_END (R450). A throttle pause of L × PAUSE_STEP µs ends and the render pipeline restarts. -/
  | throttlePauseEnd (dt : Nat)
  /-- CAMERA_TRIGGER (R223). Within an open window, a TRIG_PSO pulse starts at each trigger position. -/
  | cameraTrigger (dt : Nat) (cam : Nat)
  /-- TRIGGER_PULSE_END (R223). A trigger pulse ends after PULSE × 10 ns. -/
  | triggerPulseEnd (dt : Nat) (cam : Nat)
  /-- CAMERA_LINE (R222). A camera line frame arrives and is paired with the oldest open trigger, or discarded. -/
  | cameraLine (dt : Nat) (cam : Nat) (slots : List (List LaneBlock))
  /-- CAMERA_LINE_TIMEOUT (R222). A trigger with no line within CAM_TMO is marked missing. -/
  | cameraLineTimeout (dt : Nat) (cam : Nat)
  /-- BAND_ANALYSIS (R225). After a window closes, the ladder or alignment bands it covered are analysed and the detections decide nozzle states. -/
  | bandAnalysis (dt : Nat) (window : Nat)
  /-- NOZZLE_SET (R236). PARAM NOZZLE_SET changes one nozzle entry at the next switch point. -/
  | nozzleSet (dt : Nat) (ring : Nat) (x : Desc)
  /-- ALIGN_NOW (R234). PARAM ALIGN_NOW prints and measures one alignment band per row on the masked links. -/
  | alignNow (dt : Nat) (ring : Nat) (x : Desc)
  /-- GAUZE_REGISTER_PARAM (R237). PARAM 0xB000 + offset changes a PIPE_GZ register at the next switch point. -/
  | gauzeRegisterParam (dt : Nat) (ring : Nat) (x : Desc)
  /-- CAM_ANALYSIS_PARAM (R237). PARAM 0xA000 + offset changes CAM_ANALYSIS at the next switch point. -/
  | camAnalysisParam (dt : Nat) (ring : Nat) (x : Desc)
  /-- PORT_ENABLE (R250). Writing a port's EN to 1 in SETUP starts bring-up at 1.25 Gb/s. -/
  | portEnable (dt : Nat) (p value : Nat)
  /-- RX_CLOCK_DETECT (R250). The receive clock is seen within tolerance and the CLOCK stage ends. -/
  | rxClockDetect (dt : Nat) (p : Nat)
  /-- RX_CLOCK_LOSS (R265). No receive clock edge for 100 ns outside sleep takes the port DOWN with CLK_LOSS. -/
  | rxClockLoss (dt : Nat) (p : Nat)
  /-- BLOCK_LOCK (R248). A receive lane declares block lock after 64 consecutive valid headers. -/
  | blockLock (dt : Nat) (p m eye : Nat) (runs : List Nat)
  /-- BLOCK_LOCK_LOSS (R248). 16 invalid headers within 64 blocks lose lock and send the port to RELOCK. -/
  | blockLockLoss (dt : Nat) (p m : Nat) (gaps : List Nat)
  /-- ALIGN_BLOCK (R249). An ALIGN block arrives and deskews the lanes, or is checked for a DESKEW fault. -/
  | alignBlock (dt : Nat) (p : Nat) (slots : List (Option Nat))
  /-- CAP_BLOCK (R252). A CAP block arrives; three identical ones end the CAP stage and set the target rate. -/
  | capBlock (dt : Nat) (p : Nat) (payload : List Byte)
  /-- STEP_BLOCK (R253). A STEP block arrives; it drives the rate-step handshake, and DONE brings the port UP. -/
  | stepBlock (dt : Nat) (p rate : Nat) (go done : Bool)
  /-- STEP_IDLE_END (R253). The 16 µs of electrical idle after GO ends and training resumes at the new rate. -/
  | stepIdleEnd (dt : Nat) (p : Nat)
  /-- DONE_TIMEOUT (R254). No DONE within 1 ms at the new rate falls back to the previous rate. -/
  | doneTimeout (dt : Nat) (p : Nat)
  /-- BRINGUP_TIMEOUT (R250). A bring-up stage passes its timeout and the port goes DOWN with the stage's fault. -/
  | bringupTimeout (dt : Nat) (p : Nat)
  /-- RELOCK_TIMEOUT (R265). A RELOCK not recovered within 100 µs takes the port DOWN. -/
  | relockTimeout (dt : Nat) (p : Nat)
  /-- PORT_RETRY (R265). RETRY_MS after going DOWN, the port runs bring-up again. -/
  | portRetry (dt : Nat) (p : Nat)
  /-- TX_SLEEP_TIMEOUT (R259). A transmitter with nothing to send for SLEEP_IDLE sends SLEEP and enters electrical idle. -/
  | txSleepTimeout (dt : Nat) (p : Nat)
  /-- SLEEP_BLOCK (R261). A received SLEEP is obeyed; in RUN on a head or ring port, it is counted and answered with WAKE. -/
  | sleepBlock (dt : Nat) (p : Nat)
  /-- WAKE_BLOCK (R261). A received WAKE makes the transmitter begin its wake within 1 µs. -/
  | wakeBlock (dt : Nat) (p : Nat)
  /-- WAKE_TIMEOUT (R260). A receiver without lock 20 µs after wake raises WAKE_TMO. -/
  | wakeTimeout (dt : Nat) (p : Nat)
  /-- RESYNC_BLOCK (R265). A received RESYNC 0 makes the transmitter send training until RESYNC 1 arrives. -/
  | resyncBlock (dt : Nat) (p : Nat) (regained : Bool)
  /-- LOOP_BLOCK (R263). A received LOOP begins or ends far-end loopback. -/
  | loopBlock (dt : Nat) (p : Nat) (begin_ : Bool)
  /-- TEST_BLOCK (R262). A received TEST announces a PRBS pattern on the named lanes. -/
  | testBlock (dt : Nat) (p pattern lanes : Nat)
  /-- COMPAT_LOCK (R258). Four K28.5 at one alignment lock a compatibility receiver, and the port is UP. -/
  | compatLock (dt : Nat) (p : Nat) (runs : List Nat)
  /-- COMPAT_LOCK_LOSS (R258). 16 code violations within 640 groups lose compatibility lock. -/
  | compatLockLoss (dt : Nat) (p : Nat) (gaps : List Nat)
  /-- PRBS_TEST_START (R262). Writing TEST_EN = 1 in SETUP on an UP port starts a PRBS test. -/
  | prbsTestStart (dt : Nat) (p value : Nat)
  /-- PRBS_TEST_STOP (R262). Writing TEST_EN = 0 stops the pattern and re-runs LOCK and DESKEW. -/
  | prbsTestStop (dt : Nat) (p value : Nat)
  /-- INJ_SINGLE (R264). Writing INJ_SINGLE inverts one bit on the selected transmit lanes. -/
  | injSingle (dt : Nat) (p value : Nat)
  /-- INJ_BURST (R264). Writing INJ_BURST inverts BURST_LEN consecutive bits. -/
  | injBurst (dt : Nat) (p value : Nat)
  /-- LANE_INJECT (R264). PARAM LANE_INJECT injects an error in coded mode outside SETUP. -/
  | laneInject (dt : Nat) (ring : Nat) (x : Desc)
  /-- LINE_FRAME_DUE (R282). A line frame becomes due at t_f minus the target lead, passes its line check and is sent, or becomes LATE. -/
  | lineFrameDue (dt : Nat) (n r : Nat) (read : Option RowRead)
  /-- LINE_REFETCH_DONE (R415). A line-store refetch after a failed check arrives and the line is classed REPAIRED, CHECK_CORRUPT or CHECK_FAIL. -/
  | lineRefetchDone (dt : Nat) (n r tag line : Nat) (read : Option RowRead)
  /-- PAUSE_DEADLINE (R284). A row with no next line for a position reason is sent PAUSE by the time the line would have become due. -/
  | pauseDeadline (dt : Nat) (n r : Nat)
  /-- TIME_COMMAND (R279). Every TIME_INT, or at a change of offset or rate, a TIME command is sent on each link. -/
  | timeCommand (dt : Nat) (n phase period : Nat)
  /-- ACKNAK (R287). A head answer arrives and settles, resends or counts its line or command. -/
  | acknak (dt : Nat) (n : Nat) (bytes : List Byte) (read : Option RowRead)
  /-- ACK_TIMEOUT (R289). No answer within ACK_TMO of a frame's last block resends the line if the deadline allows. -/
  | ackTimeout (dt : Nat) (n r tag line : Nat) (read : Option RowRead)
  /-- HEAD_COMMAND_TIMEOUT (R278). An unacknowledged head command is sent again; after the third failure the link is UNFIT. -/
  | headCommandTimeout (dt : Nat) (n : Nat)
  /-- LINE_SETTLE_TIMEOUT (R298). A sent line with no verified answer by t_f + ACK_TMO settles as UNVERIFIED or NAK_FINAL. -/
  | lineSettleTimeout (dt : Nat) (n r tag line : Nat)
  /-- HEAD_STATUS (R291). A head status frame arrives and drives outcomes, faults, temperature caps and halts. -/
  | headStatus (dt : Nat) (n : Nat) (slots : List (List LaneBlock))
  /-- STATUS_TIMEOUT (R292). No valid status for STATUS_TMO sets SILENT and treats the link as at LIMIT. -/
  | statusTimeout (dt : Nat) (n : Nat)
  /-- SILENCE_HARD_TIMEOUT (R292). After 1 ms of silence, the link is treated as at HARD. -/
  | silenceHardTimeout (dt : Nat) (n : Nat)
  /-- HEAD_CAP_STEP (R293). Every 1 ms while a row stays at or above LIMIT, the cap falls by a further 1/16. -/
  | headCapStep (dt : Nat) (n : Nat)
  /-- HEAD_COOL_TIMEOUT (R293). 100 ms with every row below LIMIT − 2 °C removes the heat cap. -/
  | headCoolTimeout (dt : Nat) (n : Nat)
  /-- HARD_COOL_TIMEOUT (R294). 100 ms with every row below HARD − 2 °C sends RESUME to the link. -/
  | hardCoolTimeout (dt : Nat) (n : Nat)
  /-- LEAD_SET (R300). PARAM LEAD_SET sets TARGET_LEAD for lines not yet sent. -/
  | leadSet (dt : Nat) (ring : Nat) (x : Desc)
  /-- SERVO_COMPUTE (R305). At each compute instant, Linen reads the horizon and caps, steps the profile and computes every axis's set-points. -/
  | servoCompute (dt : Nat) (residue : Bool)
  /-- SETPOINT_FRAME_SEND (R319). At APPLY − SP_LEAD, the set-point frame leaves the DRV MAC. -/
  | setpointFrameSend (dt : Nat)
  /-- DRIVE_ANSWER (R321). A drive answer frame arrives with its status and following error. -/
  | driveAnswer (dt : Nat) (payload : List Byte)
  /-- ANSWER_TIMEOUT (R321). No valid answer for ANS_TMO periods sets SILENT on the axis. -/
  | answerTimeout (dt : Nat) (n : Nat)
  /-- DRV_LINK_DOWN (R322). The DRV PHY reports loss or return of link, and the Linen policy acts. -/
  | drvLinkDown (dt : Nat) (down : Bool)
  /-- GEAR_SET (R314). PARAM GEAR_SET changes an axis's gear ratio with position continuity. -/
  | gearSet (dt : Nat) (ring : Nat) (x : Desc)
  /-- CAM_START (R317). PARAM CAM_START schedules a drive cam start slot. -/
  | camStart (dt : Nat) (ring : Nat) (x : Desc)
  /-- LINEN_PARAM (R325). PARAM 0x5000 + offset writes a Linen speed or governor register. -/
  | linenParam (dt : Nat) (ring : Nat) (x : Desc)
  /-- PTP_SYNC (R332). A Sync message arrives at a tracker, which updates its estimates and may steer or step device time. -/
  | ptpSync (dt : Nat) (port : Nat) (m : Ptp)
  /-- PTP_FOLLOW_UP (R329). A Follow_Up message arrives for a two-step Sync. -/
  | ptpFollowUp (dt : Nat) (port : Nat) (m : Ptp)
  /-- PTP_ANNOUNCE (R329). An Announce message arrives for the best master clock algorithm. -/
  | ptpAnnounce (dt : Nat) (port : Nat) (a : PtpAnnounce)
  /-- PTP_DELAY_REQ (R329). A Delay_Req arrives at the DRV master instance and is answered. -/
  | ptpDelayReq (dt : Nat) (port : Nat) (m : Ptp)
  /-- PTP_DELAY_RESP (R329). A Delay_Resp arrives at a tracker. -/
  | ptpDelayResp (dt : Nat) (port : Nat) (m : Ptp)
  /-- PTP_SYNC_TRANSMIT (R329). As DRV master, the device sends Sync every logSyncInterval. -/
  | ptpSyncTransmit (dt : Nat)
  /-- SYNC_TIMEOUT (R335). A tracker with no Sync for SYNC_TMO becomes LOST, and a source switch may follow. -/
  | syncTimeout (dt : Nat) (t : Nat)
  /-- SLEW_END (R336). The switch slew ends and the rate returns to the new source's estimate. -/
  | slewEnd (dt : Nat)
  /-- TIME_MARK (R341). Device time crosses a whole second, and the full time is posted. -/
  | timeMark (dt : Nat)
  /-- TIME_SRC (R342). PARAM TIME_SRC switches the source of device time by slew. -/
  | timeSrc (dt : Nat) (ring : Nat) (x : Desc)
  /-- ETHERNET_LINK_LOSS (R328). An Ethernet port loses link; its trackers become lost and its crossings flush. -/
  | ethernetLinkLoss (dt : Nat) (port : Nat)
  /-- ETH_FRAME_DISCARD (R328). A received frame of an unsupported size or type is discarded and counted. -/
  | ethFrameDiscard (dt : Nat) (port size tags etype : Nat)
  /-- ROLL (R355). A ROLL message arrives with the sender's configuration and state, and is checked for conflicts. -/
  | roll (dt : Nat) (port : Nat) (words : List (BitVec 64))
  /-- ROLL_TIMER (R351). Every 1 ms, a node sends ROLL. -/
  | rollTimer (dt : Nat)
  /-- PW_BROADCAST (R356). At every whole µs, a member-0 unit broadcasts PW. -/
  | pwBroadcast (dt : Nat)
  /-- BEAT (R351). A BEAT message arrives with the sender's horizon, health and lease. -/
  | beat (dt : Nat) (port : Nat) (slots : List (List LaneBlock))
  /-- BEAT_TIMER (R351). Every 2 µs, a node sends BEAT and renews its lease. -/
  | beatTimer (dt : Nat)
  /-- STOP_REQ (R356). A follower's stop request arrives and the master stops the web. -/
  | stopReq (dt : Nat) (port : Nat) (words : List (BitVec 64))
  /-- VERDICT (R416). A follower's frame verdict message arrives at the master. -/
  | verdictMessage (dt : Nat) (port : Nat) (words : List (BitVec 64))
  /-- LCS (R367). A line-check summary arrives at the standby and is compared with its own. -/
  | lcs (dt : Nat) (port : Nat) (words : List (BitVec 64))
  /-- MISMATCH (R368). A MISMATCH message arrives at the active, which starts its self-check. -/
  | mismatch (dt : Nat) (port : Nat) (words : List (BitVec 64))
  /-- ARBITER (R368). A partner's self-check result arrives and the arbitration outcome is taken. -/
  | arbiter (dt : Nat) (port : Nat) (words : List (BitVec 64))
  /-- SELF_CHECK_DONE (R368). The 5 µs self-check ends and its result is sent in ARBITER. -/
  | selfCheckDone (dt : Nat) (residue kat : Bool)
  /-- ARBITER_TIMEOUT (R368). A partner result that has not arrived within 10 µs counts as FAIL. -/
  | arbiterTimeout (dt : Nat)
  /-- MIRROR (R361). A MIRROR message carries the active's state to the standby. -/
  | mirror (dt : Nat) (port : Nat) (words : List (BitVec 64)) (tag line : Nat) (r : PartnerRec)
  /-- DECISION (R361). A DECISION message carries the active's decisions to the standby. -/
  | decision (dt : Nat) (port : Nat) (words : List (BitVec 64)) (tag line : Nat) (r : PartnerRec)
  /-- SNAPSHOT (R369). A SNAPSHOT message carries the tables and position state to a resynchronising unit. -/
  | snapshot (dt : Nat) (port : Nat) (words : List (BitVec 64)) (tag line : Nat) (r : PartnerRec)
  /-- DELAY (R353). A DELAY request or response arrives from the neighbour. -/
  | delay (dt : Nat) (port : Nat) (words : List (BitVec 64))
  /-- HOP_DELAY_MEASURE (R353). After LANE_UP and every 1 ms, a ring port measures its hop delay. -/
  | hopDelayMeasure (dt : Nat) (port : Nat)
  /-- NODE_ABSENT (R354). A node whose BEAT has not arrived for 6 µs leaves the roster. -/
  | nodeAbsent (dt : Nat) (n : Nat)
  /-- ACTIVE_PW_TIMEOUT (R357). A follower with no active broadcast for 2 µs takes the standby's broadcasts. -/
  | activePwTimeout (dt : Nat)
  /-- LEASE_FRAME (R364). A lease frame arrives from the partner over the lease link. -/
  | leaseFrame (dt : Nat) (bytes : List Byte)
  /-- LEASE_FRAME_SEND (R364). Every 2 µs, a unit sends a lease frame and renews its lease. -/
  | leaseFrameSend (dt : Nat)
  /-- LEASE_EXPIRY (R360). An active that could not send on either path for 10 µs stops sending and goes to SYNCING. -/
  | leaseExpiry (dt : Nat)
  /-- PARTNER_SILENCE (R363). A standby that has heard its partner on neither path for 6 µs, or whose partner's lease has run out, takes over. -/
  | partnerSilence (dt : Nat)
  /-- PARTNER_WAIT_TIMEOUT (R359). No partner heard for 100 ms after entry to READY makes the unit ACTIVE. -/
  | partnerWaitTimeout (dt : Nat)
  /-- STANDBY_TEST (R371). Every 100 ms a standby or syncing unit runs its test. -/
  | standbyTest (dt : Nat) (residue kat : Bool)
  /-- HANDOVER (R370). PARAM HANDOVER makes the active yield to its standby at the next frame. -/
  | handover (dt : Nat) (ring : Nat) (x : Desc)
  /-- SRAM_SCRUB (R383). Patrol scrub reads its next SRAM code word and corrects, tests or poisons it. -/
  | sramScrub (dt : Nat) (word : SramWord) (result : Scrub) (datum : Datum) (overwritten : Bool)
  /-- DRAM_SCRUB (R393). Patrol scrub reads its next DRAM word and corrects or poisons it. -/
  | dramScrub (dt : Nat) (x : DramRead)
  /-- MEM_REPAIR_CLEAR (R388). PARAM MEM_REPAIR_CLEAR empties the MRAM field repair table in SETUP. -/
  | memRepairClear (dt : Nat) (ring : Nat) (x : Desc)
  /-- DRAM_CA_PARITY (R394). The stack reports a command/address parity error and the command is retried once. -/
  | dramCaParity (dt : Nat) (port : Nat) (write : Bool) (addr : Nat) (failed : Bool) (datum : Datum)
  /-- REFRESH_SLOT (R401). A pseudo-channel's refresh slot comes and its owed count rises. -/
  | refreshSlot (dt : Nat) (p : Nat) (steps : List DramStep)
  /-- ROW_WINDOW_END (R400). A 32 ms activation window ends, and the counts and throttles reset. -/
  | rowWindowEnd (dt : Nat)
  /-- SELF_REFRESH_ENTRY (R404). Outside RUN, no request for IDLE_US puts the stack into self-refresh. -/
  | selfRefreshEntry (dt : Nat)
  /-- SELF_REFRESH_SCRUB (R404). Every 10 ms in self-refresh, the controller exits to issue held scrub reads. -/
  | selfRefreshScrub (dt : Nat) (reads : List DramRead)
  /-- DRAM_TRAIN (R407). PARAM DRAM_TRAIN runs a sweep at the present speed point. -/
  | dramTrain (dt : Nat) (ring : Nat) (x : Desc)
  /-- DRAM_SPEED (R407). PARAM DRAM_SPEED sets a speed point and runs a sweep at it. -/
  | dramSpeed (dt : Nat) (ring : Nat) (x : Desc)
  /-- TRAINING_SWEEP_DONE (R405). A training sweep ends and sets each lane's delays. -/
  | trainingSweepDone (dt : Nat) (rd wr : List (BitVec 64))
  /-- FRAME_VERDICT (R410). A frame whose verdict is final, and whose earlier frames are posted, has its verdict posted or counted. -/
  | frameVerdict (dt : Nat)
  /-- MARK_PULSE_END (R418). A pulse-mode reject mark ends after PULSE_US. -/
  | markPulseEnd (dt : Nat)
  /-- CRC_RUN (R422). PARAM CRC_RUN reads a CRC block and runs a host CRC unit over device memory. -/
  | crcRun (dt : Nat) (ring : Nat) (x : Desc) (block : Fetch)
  /-- CRC_RUN_DONE (R423). A CRC run ends and writes its result and status to the block. -/
  | crcRunDone (dt : Nat) (u : Nat)
  /-- PLL_LOCK_LOSS (R427). A PLL loses lock or CREF is lost, and the device enters SAFE or the port or function concerned goes down. -/
  | pllLockLoss (dt : Nat) (pll ports : Nat)
  /-- PLL_RELOCK_ATTEMPT (R427). Every 10 ms, the clock monitor tries to relock an unlocked PLL. -/
  | pllRelockAttempt (dt : Nat) (good : Nat)
  /-- TREF_LOST (R425). No TREF edge for 1 µs clears TREF_OK and is posted. -/
  | trefLost (dt : Nat)
  /-- TREF_RESTORED (R425). TREF returns, and this is posted. -/
  | trefRestored (dt : Nat)
  /-- CAL_ROUND_DONE (R440). A calibration round of 65,536 TREF edges ends, and the trims move or the run ends. -/
  | calRoundDone (dt : Nat) (counts : List (Nat × List Nat))
  /-- CAL_NOW (R443). PARAM CAL_NOW starts a calibration run, or joins the one in progress. -/
  | calNow (dt : Nat) (ring : Nat) (x : Desc)
  /-- CAL_RETRY (R442). A failed run is retried every 1 s while its trigger holds. -/
  | calRetry (dt : Nat)
  /-- TWIN_SWAP (R441). A delay line swaps twins at the first instant it is not in use. -/
  | twinSwap (dt : Nat) (line : Nat)
  /-- SVC_WATCHDOG (R436). The firmware watchdog expires and resets the SVC domain. -/
  | svcWatchdog (dt : Nat)
  /-- UART_BREAK (R478). A break held on UART_0_RX resets the UART domain to 115,200 baud and ends the unlock. -/
  | uartBreak (dt : Nat)
  /-- THERMAL_SAMPLE (R446). A temperature sample completes and drives throttle, shutdown, broken-sensor, calibration and refresh decisions. -/
  | thermalSample (dt : Nat) (readings : List Int) (mramOk : Bool)
  /-- SHUTDOWN_ACK (R455). A write of SENSE_SHUT_ACK with GO and the right KEY acknowledges the shutdown record. -/
  | shutdownAck (dt : Nat) (value : Nat) (mramOk : Bool)
  /-- SENSE_PARAM (R456). PARAM 0x6000 + offset writes a thermal or mains register. -/
  | senseParam (dt : Nat) (ring : Nat) (x : Desc)
  /-- MOD_SAMPLE (R457). Every M modulator bits a filtered sample is formed, and half-cycle ends, RMS and sags are decided. -/
  | modSample (dt : Nat) (n : Nat) (bits : List Bool)
  /-- HALF_CYCLE_TIMEOUT (R459). 1.25 T_h without a zero crossing ends the half-cycle. -/
  | halfCycleTimeout (dt : Nat) (n : Nat)
  /-- DC_BUS_MEAN (R461). Each millisecond, the DC bus mean is taken and checked against the low point. -/
  | dcBusMean (dt : Nat)
  /-- MOD_FAULT (R458). 4,096 identical bits, AUX loss or missing zero crossings mark a modulator input faulty. -/
  | modFault (dt : Nat) (n : Nat)
  /-- RIDE_THROUGH_ESCALATE (R463). A condition lasting RT_MAX adds ESCALATE to the action. -/
  | rideThroughEscalate (dt : Nat)
  /-- IMAGE_WRITE (R475). PARAM IMAGE_WRITE fetches and checks a firmware image and writes it to a flash slot. -/
  | imageWrite (dt : Nat) (ring : Nat) (x : Desc) (data : Fetch)
  /-- MON_KEY (R481). PARAM MON_KEY sets the monitor key K in SETUP. -/
  | monKey (dt : Nat) (ring : Nat) (x : Desc)
  /-- MONITOR_BAD_LINE (R479). A monitor line that is too long, unreadable or names no command gets an ERR line. -/
  | monitorBadLine (dt : Nat) (m : Nat) (line : List Nat)
  /-- HELP (R480). Monitor command help lists the commands. -/
  | monHelp (dt : Nat) (m : Nat) (args : List (Option Nat))
  /-- VER (R480). Monitor command ver reports part, stepping, grade and firmware. -/
  | monVer (dt : Nat) (m : Nat) (args : List (Option Nat))
  /-- STATE (R480). Monitor command state reports GLB_STATE, the SAFE cause and the fatal location. -/
  | monState (dt : Nat) (m : Nat) (args : List (Option Nat))
  /-- ST (R480). Monitor command st reports the self-test stages and durations. -/
  | monSt (dt : Nat) (m : Nat) (args : List (Option Nat))
  /-- TEMP (R480). Monitor command temp reports the sensors, throttle level and SENSE_SHUT. -/
  | monTemp (dt : Nat) (m : Nat) (args : List (Option Nat))
  /-- RD (R480). Monitor command rd reads BAR0 words under the BAR0 rules. -/
  | monRd (dt : Nat) (m : Nat) (args : List (Option Nat))
  /-- REC (R480). Monitor command rec prints the newest recorder records. -/
  | monRec (dt : Nat) (m : Nat) (args : List (Option Nat))
  /-- LANE (R480). Monitor command lane reports port status and counters. -/
  | monLane (dt : Nat) (m : Nat) (args : List (Option Nat))
  /-- MEM (R480). Monitor command mem reports repair, error and DRAM status. -/
  | monMem (dt : Nat) (m : Nat) (args : List (Option Nat))
  /-- BAUD (R478). Monitor command baud changes the UART rate after the response line. -/
  | monBaud (dt : Nat) (m : Nat) (args : List (Option Nat))
  /-- BAUD_REVERT (R478). No valid line within 10 s of a baud change returns the UART to 115,200 baud. -/
  | baudRevert (dt : Nat)
  /-- UNLOCK_CHALLENGE (R481). Monitor command unlock without an argument prints a new challenge. -/
  | unlockChallenge (dt : Nat) (m : Nat)
  /-- UNLOCK_ANSWER (R481). Monitor command unlock with an answer unlocks the session or counts a wrong answer. -/
  | unlockAnswer (dt : Nat) (m : Nat) (args : List (Option Nat))
  /-- LOCK (R480). Monitor command lock ends the unlock. -/
  | monLock (dt : Nat) (m : Nat) (args : List (Option Nat))
  /-- SESSION_IDLE_TIMEOUT (R481). 10 minutes without a command line lock an unlocked session. -/
  | sessionIdleTimeout (dt : Nat) (m : Nat)
  /-- LOCKOUT_END (R481). 60 s after three wrong answers, unlocking is allowed again. -/
  | lockoutEnd (dt : Nat)
  /-- WR (R480). Monitor command wr writes one BAR0 word under the BAR0 rules. -/
  | monWr (dt : Nat) (m : Nat) (args : List (Option Nat)) (mramOk : Bool)
  /-- SAFE (R480). Monitor command safe writes GLB_STATE_CTL.FORCE_SAFE. -/
  | monSafe (dt : Nat) (m : Nat) (args : List (Option Nat))
  /-- ACK (R480). Monitor command ack writes SENSE_SHUT_ACK with the key and GO. -/
  | monAck (dt : Nat) (m : Nat) (args : List (Option Nat)) (mramOk : Bool)
  /-- REBOOT (R480). Monitor command reboot, in SETUP or SAFE, schedules a cold reset. -/
  | monReboot (dt : Nat) (m : Nat) (args : List (Option Nat))
  /-- REBOOT_DELAY (R480). 100 ms after the OK line of reboot, the device is cold reset. -/
  | rebootDelay (dt : Nat)
  /-- MAILBOX_CHAR (R482). A write of SVC_MBOX_TX with GO queues a character into the mailbox session. -/
  | mailboxChar (dt : Nat) (value : Nat)
  /-- MAILBOX_READ (R485). A read of SVC_MBOX_RX takes the next output character. -/
  | mailboxRead (dt : Nat)
  /-- TAP_RESET (R484). TMS held high for five TCK cycles resets the TAP. -/
  | tapReset (dt : Nat)
  /-- BYPASS (R483). The BYPASS instruction selects the bypass register. -/
  | tapBypass (dt : Nat)
  /-- IDCODE (R483). The IDCODE instruction reads 0x1026_225F. -/
  | tapIdcode (dt : Nat)
  /-- SAMPLE_PRELOAD (R483). The SAMPLE/PRELOAD instruction samples the boundary cells without affecting operation. -/
  | tapSamplePreload (dt : Nat)
  /-- EXTEST (R484). The EXTEST instruction first puts a running device into SAFE, then drives the boundary cells. -/
  | tapExtest (dt : Nat)
  /-- CLAMP (R484). The CLAMP instruction first puts a running device into SAFE, then takes effect. -/
  | tapClamp (dt : Nat)
  /-- HIGHZ (R484). The HIGHZ instruction first puts a running device into SAFE, then floats the outputs. -/
  | tapHighz (dt : Nat)
  /-- PRIVATE_INSTRUCTION (R483). A undocumented instruction code acts as BYPASS. -/
  | tapPrivateInstruction (dt : Nat) (code : Nat)
  /-- REC_MARK (R489). PARAM REC_MARK writes a MARK record to the recorder. -/
  | recMark (dt : Nat) (ring : Nat) (x : Desc)
  /-- FIRST_AREA_CLEAR (R490). Writing 1 to REC_STAT.FIRST_HELD empties the first area. -/
  | firstAreaClear (dt : Nat)
  /-- HISTOGRAM_CLEAR (R493). Writing 1 to REC_STAT.HIST_HELD empties every histogram. -/
  | histogramClear (dt : Nat)
  /-- HISTOGRAM_SAMPLE (R492). A periodic histogram sample of crossings, lanes or CE counts is binned. -/
  | histogramSample (dt : Nat) (h sample : Nat)
  /-- CAPTURE_PW_SAMPLE (R495). Every 10 µs of TB, a PW record enters the capture stream. -/
  | capturePwSample (dt : Nat)
  /-- CAPTURE_HEAD_STATUS_SAMPLE (R495). Every 200 µs per link, a HEAD_STATUS record enters the capture stream. -/
  | captureHeadStatusSample (dt : Nat) (n : Nat)
  /-- CAPTURE_DESC_TIMEOUT (R498). DESC_MS after its first byte, a capture descriptor completes. -/
  | captureDescTimeout (dt : Nat)
  /-- CAPTURE_GAP_END (R500). Once the buffer falls to 4 MiB, a GAP record is written and the next block resets history. -/
  | captureGapEnd (dt : Nat)
  /-- REPLAY_GO (R503). PARAM REPLAY_GO in replay mode starts a replay and enters RUN. -/
  | replayGo (dt : Nat) (ring : Nat) (x : Desc)
  /-- RING_HOLD_DELAY_END (R347). 20 µs after the device drives RING_HOLD high on entering SETUP with RING_CFG.EN = 1, bring-up of ports 18 and 19 starts. -/
  | ringHoldDelayEnd (dt : Nat)
  /-- LREF_OK_CHANGE (R240). LREF goes out of or back into its ±200 ppm tolerance; LANE_GLB.LREF_OK follows it, and waiting ports may start bring-up. -/
  | lrefOkChange (dt : Nat) (ok : Bool)
  /-- PRBS_LOCK (R262). A PRBS checker seeds from 31 received bits and locks after 64 error-free bits. -/
  | prbsLock (dt : Nat) (p m : Nat)
  /-- PRBS_RESYNC (R262). A locked PRBS checker that sees 64 errors within 1,024 bits reseeds and counts PRBS_RESYNC. -/
  | prbsResync (dt : Nat) (p m : Nat) (gaps : List Nat)
  /-- ELASTIC_OVERFLOW (R257). The compatibility elastic buffer overflows or underflows, loses code groups, discards the frame in progress and counts ELASTIC. -/
  | elasticOverflow (dt : Nat) (p : Nat) (drifts : List Int)
  /-- ETHERNET_LINK_UP (R328). An Ethernet port regains link at 1000 Mb/s full duplex after SGMII auto-negotiation, and TIME_PORT_CNT_p.LINK becomes 1. -/
  | ethernetLinkUp (dt : Nat) (port : Nat)
  /-- DEVICE_CONTROL_2_WRITE (R126). A configuration write to the Completion Timeout Value of Device Control 2 sets the timeout for later read requests. -/
  | deviceControl2Write (dt : Nat) (control : Bool) (value : Nat)
  /-- EFUSE_READ_DONE (R471). The eFuse map and the MRAM field repair table have been read; an eFuse check-bit failure ends self-test in SAFE, cause 1, and otherwise BIST starts. -/
  | efuseReadDone (dt : Nat) (ok : Bool) (badField badShut tail : Nat)
  /-- IMAGE_WRITE_DONE (R475). The erase, write and read-back of a flash slot for IMAGE_WRITE end and the PARAM completes. -/
  | imageWriteDone (dt : Nat)
  /-- PTP_PDELAY_REQ (R329). A Pdelay_Req arrives on a port that uses peer-to-peer delay and is answered. -/
  | ptpPdelayReq (dt : Nat) (port : Nat) (m : Ptp)
  /-- PTP_PDELAY_RESP (R329). A Pdelay_Resp or Pdelay_Resp_Follow_Up arrives and gives the peer delay to the port or tracker. -/
  | ptpPdelayResp (dt : Nat) (port : Nat) (m : Ptp) (followUp : Bool)
  /-- PTP_DELAY_REQ_TRANSMIT (R329). A slave tracker sends its two-step Delay_Req or Pdelay_Req to measure path delay. -/
  | ptpDelayReqTransmit (dt : Nat) (t : Nat)
  /-- PTP_ANNOUNCE_TRANSMIT (R329). As DRV master, the device sends Announce with PRIO1, PRIO2 and CLASS for the best master clock algorithm. -/
  | ptpAnnounceTransmit (dt : Nat)
  deriving DecidableEq, Repr

end Sys2Proof
end

