-- ==== Sys2Proof/WellFormed.lean ====
section
/-! DEFINITION. What makes a command's term well formed: the time step fits the time base (R16), a descriptor has its 16 words (R79). -/
namespace Sys2Proof

/-- The time since the command before it fits TB (R16). -/
def dtOk (dt : Nat) : Bool := decide (dt < 2 ^ 64)

/-- A descriptor is 64 bytes: 16 words (R79). -/
def Desc.wf (x : Desc) : Bool := decide (x.words.length = 16)

/-- The time since the command before it. -/
def Instr.elapsed : Instr → Nat
  | .goReady dt _ => dt
  | .setupCheckDone dt => dt
  | .goSetup dt _ => dt
  | .forceSafe dt _ => dt
  | .registerWrite dt _ _ _ => dt
  | .badAccess dt _ _ _ _ _ => dt
  | .powerOnReset dt => dt
  | .coldReset dt _ => dt
  | .coldResetRelease dt _ => dt
  | .pllLock dt _ _ _ _ _ => dt
  | .clockStageRetry dt => dt
  | .bistDone dt _ _ _ _ => dt
  | .memoryFillDone dt _ _ _ _ _ _ => dt
  | .imageLoadDone dt _ _ => dt
  | .firmwareSelftestDone dt _ _ => dt
  | .safeStatus dt => dt
  | .functionLevelReset dt => dt
  | .d3hotEntry dt _ => dt
  | .busMasterDisable dt _ => dt
  | .pcieSideReset dt => dt
  | .msixUnmask dt _ _ _ => dt
  | .interruptCoalesceTimeout dt _ => dt
  | .doorbellPoll dt => dt
  | .doorbellReadDone dt _ _ _ => dt
  | .nop dt _ _ => dt
  | .jobOpen dt _ _ => dt
  | .layoutLoad dt _ _ _ => dt
  | .nozzleTableLoad dt _ _ _ => dt
  | .toneCurveLoad dt _ _ _ _ => dt
  | .thresholdMatrixLoad dt _ _ _ => dt
  | .thresholdRampsLoad dt _ _ _ => dt
  | .diffusionKernelLoad dt _ _ _ => dt
  | .levelToDropLoad dt _ _ _ => dt
  | .stitchSetLoad dt _ _ _ => dt
  | .camTableLoad dt _ _ _ => dt
  | .policyTableLoad dt _ _ _ => dt
  | .glyphSetLoad dt _ _ _ => dt
  | .alignmentSetLoad dt _ _ _ => dt
  | .jobStage dt _ _ => dt
  | .stagingBegin dt _ _ => dt
  | .jobStageComplete dt _ _ => dt
  | .contextRestore dt _ => dt
  | .compressorFlush dt _ => dt
  | .spliceAt dt _ _ => dt
  | .jobClose dt _ _ _ => dt
  | .move dt _ _ => dt
  | .stop dt _ _ => dt
  | .setSpeed dt _ _ => dt
  | .ladderNow dt _ _ => dt
  | .captureOn dt _ _ => dt
  | .captureOff dt _ _ => dt
  | .ringReset dt _ _ => dt
  | .commandRingRestart dt _ _ => dt
  | .contentPut dt _ _ _ => dt
  | .recordPut dt _ _ _ => dt
  | .captureBuf dt _ _ _ => dt
  | .imageBuf dt _ _ => dt
  | .dmaReadCompletion dt _ _ _ _ => dt
  | .dmaWriteResponse dt _ _ _ => dt
  | .completionTimeout dt _ _ => dt
  | .unexpectedCompletion dt _ => dt
  | .xferList dt _ _ => dt
  | .webEncoderEdge dt _ _ => dt
  | .encoderEdge dt _ _ _ => dt
  | .encoderGlitch dt _ => dt
  | .indexEdge dt _ _ => dt
  | .estimatorRest dt => dt
  | .estimateInvalid dt => dt
  | .psiChange dt _ _ => dt
  | .psiWatchdog dt _ => dt
  | .posRereg dt _ _ => dt
  | .psoAt dt _ _ => dt
  | .calendarSlotAct dt _ => dt
  | .pwMessage dt _ _ => dt
  | .posLost dt => dt
  | .composeLine dt _ _ => dt
  | .codePaint dt _ => dt
  | .screenLine dt _ => dt
  | .gauzeLine dt => dt
  | .lineQueue dt => dt
  | .throttlePauseEnd dt => dt
  | .cameraTrigger dt _ => dt
  | .triggerPulseEnd dt _ => dt
  | .cameraLine dt _ _ => dt
  | .cameraLineTimeout dt _ => dt
  | .bandAnalysis dt _ => dt
  | .nozzleSet dt _ _ => dt
  | .alignNow dt _ _ => dt
  | .gauzeRegisterParam dt _ _ => dt
  | .camAnalysisParam dt _ _ => dt
  | .portEnable dt _ _ => dt
  | .rxClockDetect dt _ => dt
  | .rxClockLoss dt _ => dt
  | .blockLock dt _ _ _ _ => dt
  | .blockLockLoss dt _ _ _ => dt
  | .alignBlock dt _ _ => dt
  | .capBlock dt _ _ => dt
  | .stepBlock dt _ _ _ _ => dt
  | .stepIdleEnd dt _ => dt
  | .doneTimeout dt _ => dt
  | .bringupTimeout dt _ => dt
  | .relockTimeout dt _ => dt
  | .portRetry dt _ => dt
  | .txSleepTimeout dt _ => dt
  | .sleepBlock dt _ => dt
  | .wakeBlock dt _ => dt
  | .wakeTimeout dt _ => dt
  | .resyncBlock dt _ _ => dt
  | .loopBlock dt _ _ => dt
  | .testBlock dt _ _ _ => dt
  | .compatLock dt _ _ => dt
  | .compatLockLoss dt _ _ => dt
  | .prbsTestStart dt _ _ => dt
  | .prbsTestStop dt _ _ => dt
  | .injSingle dt _ _ => dt
  | .injBurst dt _ _ => dt
  | .laneInject dt _ _ => dt
  | .lineFrameDue dt _ _ _ => dt
  | .lineRefetchDone dt _ _ _ _ _ => dt
  | .pauseDeadline dt _ _ => dt
  | .timeCommand dt _ _ _ => dt
  | .acknak dt _ _ _ => dt
  | .ackTimeout dt _ _ _ _ _ => dt
  | .headCommandTimeout dt _ => dt
  | .lineSettleTimeout dt _ _ _ _ => dt
  | .headStatus dt _ _ => dt
  | .statusTimeout dt _ => dt
  | .silenceHardTimeout dt _ => dt
  | .headCapStep dt _ => dt
  | .headCoolTimeout dt _ => dt
  | .hardCoolTimeout dt _ => dt
  | .leadSet dt _ _ => dt
  | .servoCompute dt _ => dt
  | .setpointFrameSend dt => dt
  | .driveAnswer dt _ => dt
  | .answerTimeout dt _ => dt
  | .drvLinkDown dt _ => dt
  | .gearSet dt _ _ => dt
  | .camStart dt _ _ => dt
  | .linenParam dt _ _ => dt
  | .ptpSync dt _ _ => dt
  | .ptpFollowUp dt _ _ => dt
  | .ptpAnnounce dt _ _ => dt
  | .ptpDelayReq dt _ _ => dt
  | .ptpDelayResp dt _ _ => dt
  | .ptpSyncTransmit dt => dt
  | .syncTimeout dt _ => dt
  | .slewEnd dt => dt
  | .timeMark dt => dt
  | .timeSrc dt _ _ => dt
  | .ethernetLinkLoss dt _ => dt
  | .ethFrameDiscard dt _ _ _ _ => dt
  | .roll dt _ _ => dt
  | .rollTimer dt => dt
  | .pwBroadcast dt => dt
  | .beat dt _ _ => dt
  | .beatTimer dt => dt
  | .stopReq dt _ _ => dt
  | .verdictMessage dt _ _ => dt
  | .lcs dt _ _ => dt
  | .mismatch dt _ _ => dt
  | .arbiter dt _ _ => dt
  | .selfCheckDone dt _ _ => dt
  | .arbiterTimeout dt => dt
  | .mirror dt _ _ _ _ _ => dt
  | .decision dt _ _ _ _ _ => dt
  | .snapshot dt _ _ _ _ _ => dt
  | .delay dt _ _ => dt
  | .hopDelayMeasure dt _ => dt
  | .nodeAbsent dt _ => dt
  | .activePwTimeout dt => dt
  | .leaseFrame dt _ => dt
  | .leaseFrameSend dt => dt
  | .leaseExpiry dt => dt
  | .partnerSilence dt => dt
  | .partnerWaitTimeout dt => dt
  | .standbyTest dt _ _ => dt
  | .handover dt _ _ => dt
  | .sramScrub dt _ _ _ _ => dt
  | .dramScrub dt _ => dt
  | .memRepairClear dt _ _ => dt
  | .dramCaParity dt _ _ _ _ _ => dt
  | .refreshSlot dt _ _ => dt
  | .rowWindowEnd dt => dt
  | .selfRefreshEntry dt => dt
  | .selfRefreshScrub dt _ => dt
  | .dramTrain dt _ _ => dt
  | .dramSpeed dt _ _ => dt
  | .trainingSweepDone dt _ _ => dt
  | .frameVerdict dt => dt
  | .markPulseEnd dt => dt
  | .crcRun dt _ _ _ => dt
  | .crcRunDone dt _ => dt
  | .pllLockLoss dt _ _ => dt
  | .pllRelockAttempt dt _ => dt
  | .trefLost dt => dt
  | .trefRestored dt => dt
  | .calRoundDone dt _ => dt
  | .calNow dt _ _ => dt
  | .calRetry dt => dt
  | .twinSwap dt _ => dt
  | .svcWatchdog dt => dt
  | .uartBreak dt => dt
  | .thermalSample dt _ _ => dt
  | .shutdownAck dt _ _ => dt
  | .senseParam dt _ _ => dt
  | .modSample dt _ _ => dt
  | .halfCycleTimeout dt _ => dt
  | .dcBusMean dt => dt
  | .modFault dt _ => dt
  | .rideThroughEscalate dt => dt
  | .imageWrite dt _ _ _ => dt
  | .monKey dt _ _ => dt
  | .monitorBadLine dt _ _ => dt
  | .monHelp dt _ _ => dt
  | .monVer dt _ _ => dt
  | .monState dt _ _ => dt
  | .monSt dt _ _ => dt
  | .monTemp dt _ _ => dt
  | .monRd dt _ _ => dt
  | .monRec dt _ _ => dt
  | .monLane dt _ _ => dt
  | .monMem dt _ _ => dt
  | .monBaud dt _ _ => dt
  | .baudRevert dt => dt
  | .unlockChallenge dt _ => dt
  | .unlockAnswer dt _ _ => dt
  | .monLock dt _ _ => dt
  | .sessionIdleTimeout dt _ => dt
  | .lockoutEnd dt => dt
  | .monWr dt _ _ _ => dt
  | .monSafe dt _ _ => dt
  | .monAck dt _ _ _ => dt
  | .monReboot dt _ _ => dt
  | .rebootDelay dt => dt
  | .mailboxChar dt _ => dt
  | .mailboxRead dt => dt
  | .tapReset dt => dt
  | .tapBypass dt => dt
  | .tapIdcode dt => dt
  | .tapSamplePreload dt => dt
  | .tapExtest dt => dt
  | .tapClamp dt => dt
  | .tapHighz dt => dt
  | .tapPrivateInstruction dt _ => dt
  | .recMark dt _ _ => dt
  | .firstAreaClear dt => dt
  | .histogramClear dt => dt
  | .histogramSample dt _ _ => dt
  | .capturePwSample dt => dt
  | .captureHeadStatusSample dt _ => dt
  | .captureDescTimeout dt => dt
  | .captureGapEnd dt => dt
  | .replayGo dt _ _ => dt
  | .ringHoldDelayEnd dt => dt
  | .lrefOkChange dt _ => dt
  | .prbsLock dt _ _ => dt
  | .prbsResync dt _ _ _ => dt
  | .elasticOverflow dt _ _ => dt
  | .ethernetLinkUp dt _ => dt
  | .deviceControl2Write dt _ _ => dt
  | .efuseReadDone dt _ _ _ _ => dt
  | .imageWriteDone dt => dt
  | .ptpPdelayReq dt _ _ => dt
  | .ptpPdelayResp dt _ _ _ => dt
  | .ptpDelayReqTransmit dt _ => dt
  | .ptpAnnounceTransmit dt => dt

/-- A command is well formed. -/
def Instr.wellFormed : Instr → Bool
  | .goReady dt _ => dtOk dt
  | .setupCheckDone dt => dtOk dt
  | .goSetup dt _ => dtOk dt
  | .forceSafe dt _ => dtOk dt
  | .registerWrite dt _ _ _ => dtOk dt
  | .badAccess dt _ _ _ _ _ => dtOk dt
  | .powerOnReset dt => dtOk dt
  | .coldReset dt _ => dtOk dt
  | .coldResetRelease dt _ => dtOk dt
  | .pllLock dt _ _ _ _ _ => dtOk dt
  | .clockStageRetry dt => dtOk dt
  | .bistDone dt _ _ _ _ => dtOk dt
  | .memoryFillDone dt _ _ _ _ _ _ => dtOk dt
  | .imageLoadDone dt _ _ => dtOk dt
  | .firmwareSelftestDone dt _ _ => dtOk dt
  | .safeStatus dt => dtOk dt
  | .functionLevelReset dt => dtOk dt
  | .d3hotEntry dt _ => dtOk dt
  | .busMasterDisable dt _ => dtOk dt
  | .pcieSideReset dt => dtOk dt
  | .msixUnmask dt _ _ _ => dtOk dt
  | .interruptCoalesceTimeout dt _ => dtOk dt
  | .doorbellPoll dt => dtOk dt
  | .doorbellReadDone dt _ _ _ => dtOk dt
  | .nop dt _ x => dtOk dt && x.wf
  | .jobOpen dt _ x => dtOk dt && x.wf
  | .layoutLoad dt _ x _ => dtOk dt && x.wf
  | .nozzleTableLoad dt _ x _ => dtOk dt && x.wf
  | .toneCurveLoad dt _ x _ _ => dtOk dt && x.wf
  | .thresholdMatrixLoad dt _ x _ => dtOk dt && x.wf
  | .thresholdRampsLoad dt _ x _ => dtOk dt && x.wf
  | .diffusionKernelLoad dt _ x _ => dtOk dt && x.wf
  | .levelToDropLoad dt _ x _ => dtOk dt && x.wf
  | .stitchSetLoad dt _ x _ => dtOk dt && x.wf
  | .camTableLoad dt _ x _ => dtOk dt && x.wf
  | .policyTableLoad dt _ x _ => dtOk dt && x.wf
  | .glyphSetLoad dt _ x _ => dtOk dt && x.wf
  | .alignmentSetLoad dt _ x _ => dtOk dt && x.wf
  | .jobStage dt _ x => dtOk dt && x.wf
  | .stagingBegin dt _ _ => dtOk dt
  | .jobStageComplete dt _ _ => dtOk dt
  | .contextRestore dt _ => dtOk dt
  | .compressorFlush dt _ => dtOk dt
  | .spliceAt dt _ x => dtOk dt && x.wf
  | .jobClose dt _ x _ => dtOk dt && x.wf
  | .move dt _ x => dtOk dt && x.wf
  | .stop dt _ x => dtOk dt && x.wf
  | .setSpeed dt _ x => dtOk dt && x.wf
  | .ladderNow dt _ x => dtOk dt && x.wf
  | .captureOn dt _ x => dtOk dt && x.wf
  | .captureOff dt _ x => dtOk dt && x.wf
  | .ringReset dt _ x => dtOk dt && x.wf
  | .commandRingRestart dt _ _ => dtOk dt
  | .contentPut dt _ x _ => dtOk dt && x.wf
  | .recordPut dt _ x _ => dtOk dt && x.wf
  | .captureBuf dt _ x _ => dtOk dt && x.wf
  | .imageBuf dt _ x => dtOk dt && x.wf
  | .dmaReadCompletion dt _ _ _ _ => dtOk dt
  | .dmaWriteResponse dt _ _ _ => dtOk dt
  | .completionTimeout dt _ _ => dtOk dt
  | .unexpectedCompletion dt _ => dtOk dt
  | .xferList dt _ x => dtOk dt && x.wf
  | .webEncoderEdge dt _ _ => dtOk dt
  | .encoderEdge dt _ _ _ => dtOk dt
  | .encoderGlitch dt _ => dtOk dt
  | .indexEdge dt _ _ => dtOk dt
  | .estimatorRest dt => dtOk dt
  | .estimateInvalid dt => dtOk dt
  | .psiChange dt _ _ => dtOk dt
  | .psiWatchdog dt _ => dtOk dt
  | .posRereg dt _ x => dtOk dt && x.wf
  | .psoAt dt _ x => dtOk dt && x.wf
  | .calendarSlotAct dt _ => dtOk dt
  | .pwMessage dt _ _ => dtOk dt
  | .posLost dt => dtOk dt
  | .composeLine dt _ _ => dtOk dt
  | .codePaint dt _ => dtOk dt
  | .screenLine dt _ => dtOk dt
  | .gauzeLine dt => dtOk dt
  | .lineQueue dt => dtOk dt
  | .throttlePauseEnd dt => dtOk dt
  | .cameraTrigger dt _ => dtOk dt
  | .triggerPulseEnd dt _ => dtOk dt
  | .cameraLine dt _ _ => dtOk dt
  | .cameraLineTimeout dt _ => dtOk dt
  | .bandAnalysis dt _ => dtOk dt
  | .nozzleSet dt _ x => dtOk dt && x.wf
  | .alignNow dt _ x => dtOk dt && x.wf
  | .gauzeRegisterParam dt _ x => dtOk dt && x.wf
  | .camAnalysisParam dt _ x => dtOk dt && x.wf
  | .portEnable dt _ _ => dtOk dt
  | .rxClockDetect dt _ => dtOk dt
  | .rxClockLoss dt _ => dtOk dt
  | .blockLock dt _ _ _ _ => dtOk dt
  | .blockLockLoss dt _ _ _ => dtOk dt
  | .alignBlock dt _ _ => dtOk dt
  | .capBlock dt _ _ => dtOk dt
  | .stepBlock dt _ _ _ _ => dtOk dt
  | .stepIdleEnd dt _ => dtOk dt
  | .doneTimeout dt _ => dtOk dt
  | .bringupTimeout dt _ => dtOk dt
  | .relockTimeout dt _ => dtOk dt
  | .portRetry dt _ => dtOk dt
  | .txSleepTimeout dt _ => dtOk dt
  | .sleepBlock dt _ => dtOk dt
  | .wakeBlock dt _ => dtOk dt
  | .wakeTimeout dt _ => dtOk dt
  | .resyncBlock dt _ _ => dtOk dt
  | .loopBlock dt _ _ => dtOk dt
  | .testBlock dt _ _ _ => dtOk dt
  | .compatLock dt _ _ => dtOk dt
  | .compatLockLoss dt _ _ => dtOk dt
  | .prbsTestStart dt _ _ => dtOk dt
  | .prbsTestStop dt _ _ => dtOk dt
  | .injSingle dt _ _ => dtOk dt
  | .injBurst dt _ _ => dtOk dt
  | .laneInject dt _ x => dtOk dt && x.wf
  | .lineFrameDue dt _ _ _ => dtOk dt
  | .lineRefetchDone dt _ _ _ _ _ => dtOk dt
  | .pauseDeadline dt _ _ => dtOk dt
  | .timeCommand dt _ _ _ => dtOk dt
  | .acknak dt _ _ _ => dtOk dt
  | .ackTimeout dt _ _ _ _ _ => dtOk dt
  | .headCommandTimeout dt _ => dtOk dt
  | .lineSettleTimeout dt _ _ _ _ => dtOk dt
  | .headStatus dt _ _ => dtOk dt
  | .statusTimeout dt _ => dtOk dt
  | .silenceHardTimeout dt _ => dtOk dt
  | .headCapStep dt _ => dtOk dt
  | .headCoolTimeout dt _ => dtOk dt
  | .hardCoolTimeout dt _ => dtOk dt
  | .leadSet dt _ x => dtOk dt && x.wf
  | .servoCompute dt _ => dtOk dt
  | .setpointFrameSend dt => dtOk dt
  | .driveAnswer dt _ => dtOk dt
  | .answerTimeout dt _ => dtOk dt
  | .drvLinkDown dt _ => dtOk dt
  | .gearSet dt _ x => dtOk dt && x.wf
  | .camStart dt _ x => dtOk dt && x.wf
  | .linenParam dt _ x => dtOk dt && x.wf
  | .ptpSync dt _ _ => dtOk dt
  | .ptpFollowUp dt _ _ => dtOk dt
  | .ptpAnnounce dt _ _ => dtOk dt
  | .ptpDelayReq dt _ _ => dtOk dt
  | .ptpDelayResp dt _ _ => dtOk dt
  | .ptpSyncTransmit dt => dtOk dt
  | .syncTimeout dt _ => dtOk dt
  | .slewEnd dt => dtOk dt
  | .timeMark dt => dtOk dt
  | .timeSrc dt _ x => dtOk dt && x.wf
  | .ethernetLinkLoss dt _ => dtOk dt
  | .ethFrameDiscard dt _ _ _ _ => dtOk dt
  | .roll dt _ _ => dtOk dt
  | .rollTimer dt => dtOk dt
  | .pwBroadcast dt => dtOk dt
  | .beat dt _ _ => dtOk dt
  | .beatTimer dt => dtOk dt
  | .stopReq dt _ _ => dtOk dt
  | .verdictMessage dt _ _ => dtOk dt
  | .lcs dt _ _ => dtOk dt
  | .mismatch dt _ _ => dtOk dt
  | .arbiter dt _ _ => dtOk dt
  | .selfCheckDone dt _ _ => dtOk dt
  | .arbiterTimeout dt => dtOk dt
  | .mirror dt _ _ _ _ _ => dtOk dt
  | .decision dt _ _ _ _ _ => dtOk dt
  | .snapshot dt _ _ _ _ _ => dtOk dt
  | .delay dt _ _ => dtOk dt
  | .hopDelayMeasure dt _ => dtOk dt
  | .nodeAbsent dt _ => dtOk dt
  | .activePwTimeout dt => dtOk dt
  | .leaseFrame dt _ => dtOk dt
  | .leaseFrameSend dt => dtOk dt
  | .leaseExpiry dt => dtOk dt
  | .partnerSilence dt => dtOk dt
  | .partnerWaitTimeout dt => dtOk dt
  | .standbyTest dt _ _ => dtOk dt
  | .handover dt _ x => dtOk dt && x.wf
  | .sramScrub dt _ _ _ _ => dtOk dt
  | .dramScrub dt _ => dtOk dt
  | .memRepairClear dt _ x => dtOk dt && x.wf
  | .dramCaParity dt _ _ _ _ _ => dtOk dt
  | .refreshSlot dt _ _ => dtOk dt
  | .rowWindowEnd dt => dtOk dt
  | .selfRefreshEntry dt => dtOk dt
  | .selfRefreshScrub dt _ => dtOk dt
  | .dramTrain dt _ x => dtOk dt && x.wf
  | .dramSpeed dt _ x => dtOk dt && x.wf
  | .trainingSweepDone dt _ _ => dtOk dt
  | .frameVerdict dt => dtOk dt
  | .markPulseEnd dt => dtOk dt
  | .crcRun dt _ x _ => dtOk dt && x.wf
  | .crcRunDone dt _ => dtOk dt
  | .pllLockLoss dt _ _ => dtOk dt
  | .pllRelockAttempt dt _ => dtOk dt
  | .trefLost dt => dtOk dt
  | .trefRestored dt => dtOk dt
  | .calRoundDone dt _ => dtOk dt
  | .calNow dt _ x => dtOk dt && x.wf
  | .calRetry dt => dtOk dt
  | .twinSwap dt _ => dtOk dt
  | .svcWatchdog dt => dtOk dt
  | .uartBreak dt => dtOk dt
  | .thermalSample dt _ _ => dtOk dt
  | .shutdownAck dt _ _ => dtOk dt
  | .senseParam dt _ x => dtOk dt && x.wf
  | .modSample dt _ _ => dtOk dt
  | .halfCycleTimeout dt _ => dtOk dt
  | .dcBusMean dt => dtOk dt
  | .modFault dt _ => dtOk dt
  | .rideThroughEscalate dt => dtOk dt
  | .imageWrite dt _ x _ => dtOk dt && x.wf
  | .monKey dt _ x => dtOk dt && x.wf
  | .monitorBadLine dt _ _ => dtOk dt
  | .monHelp dt _ _ => dtOk dt
  | .monVer dt _ _ => dtOk dt
  | .monState dt _ _ => dtOk dt
  | .monSt dt _ _ => dtOk dt
  | .monTemp dt _ _ => dtOk dt
  | .monRd dt _ _ => dtOk dt
  | .monRec dt _ _ => dtOk dt
  | .monLane dt _ _ => dtOk dt
  | .monMem dt _ _ => dtOk dt
  | .monBaud dt _ _ => dtOk dt
  | .baudRevert dt => dtOk dt
  | .unlockChallenge dt _ => dtOk dt
  | .unlockAnswer dt _ _ => dtOk dt
  | .monLock dt _ _ => dtOk dt
  | .sessionIdleTimeout dt _ => dtOk dt
  | .lockoutEnd dt => dtOk dt
  | .monWr dt _ _ _ => dtOk dt
  | .monSafe dt _ _ => dtOk dt
  | .monAck dt _ _ _ => dtOk dt
  | .monReboot dt _ _ => dtOk dt
  | .rebootDelay dt => dtOk dt
  | .mailboxChar dt _ => dtOk dt
  | .mailboxRead dt => dtOk dt
  | .tapReset dt => dtOk dt
  | .tapBypass dt => dtOk dt
  | .tapIdcode dt => dtOk dt
  | .tapSamplePreload dt => dtOk dt
  | .tapExtest dt => dtOk dt
  | .tapClamp dt => dtOk dt
  | .tapHighz dt => dtOk dt
  | .tapPrivateInstruction dt _ => dtOk dt
  | .recMark dt _ x => dtOk dt && x.wf
  | .firstAreaClear dt => dtOk dt
  | .histogramClear dt => dtOk dt
  | .histogramSample dt _ _ => dtOk dt
  | .capturePwSample dt => dtOk dt
  | .captureHeadStatusSample dt _ => dtOk dt
  | .captureDescTimeout dt => dtOk dt
  | .captureGapEnd dt => dtOk dt
  | .replayGo dt _ x => dtOk dt && x.wf
  | .ringHoldDelayEnd dt => dtOk dt
  | .lrefOkChange dt _ => dtOk dt
  | .prbsLock dt _ _ => dtOk dt
  | .prbsResync dt _ _ _ => dtOk dt
  | .elasticOverflow dt _ _ => dtOk dt
  | .ethernetLinkUp dt _ => dtOk dt
  | .deviceControl2Write dt _ _ => dtOk dt
  | .efuseReadDone dt _ _ _ _ => dtOk dt
  | .imageWriteDone dt => dtOk dt
  | .ptpPdelayReq dt _ _ => dtOk dt
  | .ptpPdelayResp dt _ _ _ => dtOk dt
  | .ptpDelayReqTransmit dt _ => dtOk dt
  | .ptpAnnounceTransmit dt => dtOk dt

end Sys2Proof
end

