-- ==== Sys2Proof/Decode.lean ====
section
/-! DEFINITION. The command that a word spells. The table of commands gives no row any bits: no word spells a command. -/
namespace Sys2Proof

/-- spec/opcode_table.json gives no row bits, so no word is a command. -/
def decodeTableWord (_nbits _w : Nat) : Option Instr := none

end Sys2Proof
end

