-- ==== Sys2Proof/Machine/Maps.lean ====
section
/-! DEFINITION. Sparse maps as sorted lists of key and value, bytes little-endian (R6), and integer square roots. -/
namespace Sys2Proof.Machine

/-- The value at a key, or none. -/
def kvGet {α : Type} : List (Nat × α) → Nat → Option α
  | [], _ => none
  | (a, v) :: t, k => if a = k then some v else kvGet t k

/-- Set the value at a key; keys stay strictly rising. -/
def kvPut {α : Type} : List (Nat × α) → Nat → α → List (Nat × α)
  | [], k, v => [(k, v)]
  | (a, x) :: t, k, v => if k < a then (k, v) :: (a, x) :: t else if k = a then (k, v) :: t else (a, x) :: kvPut t k v

/-- Remove a key. -/
def kvDel {α : Type} : List (Nat × α) → Nat → List (Nat × α)
  | [], _ => []
  | (a, x) :: t, k => if a = k then kvDel t k else (a, x) :: kvDel t k

/-- Keys strictly rising. -/
def kvSorted {α : Type} : List (Nat × α) → Bool
  | [] => true
  | [_] => true
  | (a, _) :: (b, y) :: t => decide (a < b) && kvSorted ((b, y) :: t)

/-- `n` bytes of a number, lowest first (R6). -/
def leBytes : Nat → Nat → List Nat
  | 0, _ => []
  | n + 1, v => v % 256 :: leBytes n (v / 256)

/-- The number of little-endian bytes (R6). -/
def ofLe : List Nat → Nat
  | [] => 0
  | b :: t => b + 256 * ofLe t

/-- The little-endian field of `n` bytes at offset `o`; bytes past the end read 0. -/
def leAt (bs : List Nat) (o n : Nat) : Nat := ofLe ((bs.drop o).take n)

/-- Bytes as numbers. -/
def natBytes (bs : List Byte) : List Nat := bs.map BitVec.toNat

/-- Pad with zeros to `n` bytes. -/
def padTo (n : Nat) (l : List Nat) : List Nat := l ++ List.replicate (n - l.length) 0

/-- Groups of 8 bytes as 64-bit words. `fuel` bounds the number of words. -/
def words64 : Nat → List Nat → List Nat
  | 0, _ => []
  | _ + 1, [] => []
  | f + 1, l => ofLe (l.take 8) :: words64 f (l.drop 8)

/-- Integer square root by bits, from bit `k` down. -/
def isqrtFrom : Nat → Nat → Nat → Nat
  | 0, n, r => if (r + 1) * (r + 1) ≤ n then r + 1 else r
  | k + 1, n, r =>
    let c := r + 2 ^ (k + 1)
    isqrtFrom k n (if c * c ≤ n then c else r)

/-- The largest `r` with `r * r ≤ n`. -/
def isqrt (n : Nat) : Nat := isqrtFrom (Nat.log2 n / 2 + 1) n 0

/-- Round-up division. -/
def cdiv (a b : Nat) : Nat := (a + b - 1) / b

/-- Set one element of a list; out of range leaves it. -/
def setAt {α : Type} (l : List α) (i : Nat) (x : α) : List α := l.set i x

/-- Change one element of a list. -/
def modAt {α : Type} (l : List α) (i : Nat) (f : α → α) : List α := l.modify i f

/-- Set bit `i` of a mask to `b`. -/
def setBit (m i : Nat) (b : Bool) : Nat :=
  if bitOf m i = b then m else if b then m + 2 ^ i else m - 2 ^ i

/-- The indices below `n` whose bit is set in `m`. -/
def maskList (m n : Nat) : List Nat := (List.range n).filter (bitOf m)

/-- The number of bits set among the lowest `n`. -/
def popCount (m n : Nat) : Nat := (maskList m n).length

end Sys2Proof.Machine
end

