-- ==== Sys2Proof/Machine/Crc.lean ====
section
/-! DEFINITION. The CRC codes of R136 and R420, bit by bit. -/
namespace Sys2Proof.Machine

/-- Bits of a number of `w` bits in reverse order. -/
def bitRev : Nat → Nat → Nat
  | 0, _ => 0
  | w + 1, v => (v % 2) * 2 ^ w + bitRev w (v / 2)

/-- The parameters of one code of R420. -/
structure CrcCode where
  w : Nat
  poly : Nat
  init : Nat
  refl : Bool
  xorOut : Nat
  deriving DecidableEq, Repr

/-- One step of a reflected register: `p` is the reflected polynomial. -/
def crcBitR (p r : Nat) : Nat := if r % 2 = 1 then Nat.xor (r / 2) p else r / 2

/-- One step of a register that shifts left. -/
def crcBitL (w p r : Nat) : Nat :=
  if r / 2 ^ (w - 1) % 2 = 1 then Nat.xor (r * 2 % 2 ^ w) p else r * 2 % 2 ^ w

/-- One byte into the running register (R420). -/
def crcByte (c : CrcCode) (r b : Nat) : Nat :=
  if c.refl then
    let p := bitRev c.w c.poly
    (crcBitR p <| crcBitR p <| crcBitR p <| crcBitR p <| crcBitR p <| crcBitR p <| crcBitR p <| crcBitR p <| Nat.xor r b)
  else
    let s := crcBitL c.w c.poly
    s <| s <| s <| s <| s <| s <| s <| s <| Nat.xor r (b * 2 ^ (c.w - 8))

/-- Bytes into the running register. -/
def crcRun (c : CrcCode) (r : Nat) (bs : List Nat) : Nat := bs.foldl (crcByte c) r

/-- The codes by POLY (R420). -/
def crcCode : Nat → CrcCode
  | 0 => ⟨32, 0x1EDC6F41, 0xFFFFFFFF, true, 0xFFFFFFFF⟩
  | 1 => ⟨32, 0x04C11DB7, 0xFFFFFFFF, true, 0xFFFFFFFF⟩
  | 2 => ⟨16, 0x1021, 0xFFFF, false, 0⟩
  | _ => ⟨64, 0x42F0E1EBA9EA3693, 0, false, 0⟩

/-- The final value: the running value with the final XOR. -/
def crcFinal (c : CrcCode) (r : Nat) : Nat := Nat.xor r c.xorOut

/-- CRC-32C of a whole byte string (R136). -/
def crc32c (bs : List Nat) : Nat := crcFinal (crcCode 0) (crcRun (crcCode 0) (crcCode 0).init bs)

end Sys2Proof.Machine
end

