-- ==== Sys2Proof/Config.lean ====
section
/-! DEFINITION. What one part's making fixes (eFuse contents) and the free values: constants with no body, so that no
proof can see what they are. Each is named in the assumption log. -/
namespace Sys2Proof.Config

/-- GLB_ID.GRADE comes from the eFuse map (0 T262-C1, 1 T262-I1). -/
opaque efuseGrade : Nat
/-- The repair entries of the eFuse map, set at manufacture (R386). -/
opaque efuseMap : List Nat
/-- SVC_BOOT.FLOOR: the rollback floor in eFuse. -/
opaque efuseFloor : Nat
/-- SVC_BOOT.REVOKED: the revoked key slots in eFuse. -/
opaque efuseRevoked : Nat

/-- The Device Serial Number, 64 bits (R74 gives none). -/
opaque serialNumber : Nat

/-- The SHA-256 of the public key of each eFuse key slot (R474). -/
opaque efuseKeyHash : Nat → Nat

/-- A fresh value the spec leaves open, by a counter of State and by the number of bits wanted. -/
opaque freeValue : Nat → Nat

/-- B and S of a threshold ramp that no load has written: by ramp and boundary (R184, R197). -/
opaque unloadedRamp : Nat → Nat → Nat

/-- The drop code of a slot to which several nozzle-table entries map, which only a table that no load has checked can do: by link, row,
slot and their codes (R209, R211). -/
opaque clashCode : Nat → Nat → Nat → List Nat → Nat

/-- The content-store page that holds a page of a stream (R152 does not say how pages are given out): by tag, stream and page of the
stream. -/
opaque contentPage : Nat → Nat → Nat → Nat

/-- The payload words of a partner state record, in the form that only a T262 of the same stepping and firmware image reads (R361): by tag,
line and record. -/
opaque recordWords : Nat → Nat → PartnerRec → List Nat

/-- The code words that the compressor chooses for a block: by identifier, sequence number and output (R149). -/
opaque compress : Nat → Nat → List Nat → List Nat

/-- The device as a PTP clock: its clockIdentity (64 bits), clockAccuracy and offsetScaledLogVariance (R329 gives none). -/
opaque clockIdentity : Nat
opaque clockAccuracy : Nat
opaque clockVariance : Nat

/-- The location of the engine that owns the CORE side of crossing 5, tile 0 (R438): cluster x 256 + engine. -/
opaque crossingOwner : Nat

/-- The characters of a monitor response in the mailbox session, with the line end and prompt: R479 and R480 fix what it says and no more. -/
opaque monitorText : MonResp → List Nat

end Sys2Proof.Config
end

