-- ==== Sys2Proof/Machine/State.lean ====
section
/-! DEFINITION. The state of the block as plain data, its faults and refusals, and the state after reset. -/
namespace Sys2Proof.Machine

/-- A model fault. No meaning of this block raises one: what the spec calls a fault is an effect on State. -/
inductive Fault where
  /-- Raised by no meaning. Safe. -/
  | none
  deriving DecidableEq, Repr

/-- Why a command has no meaning. -/
inductive Refusal where
  /-- An arm of Dispatch that has no meaning yet. Safe: the machine stops. -/
  | notModelled (mnemonic : String)
  deriving DecidableEq, Repr

/-! ## Registers -/

/-- One register field: byte offset in BAR0, lowest bit, width, reset value. -/
structure Fld where
  off : Nat
  lo : Nat
  w : Nat
  rst : Nat
  deriving DecidableEq, Repr

/-- The access codes of R9. -/
inductive Access where
  | ro | rw | lk | w1c | w1s
  deriving DecidableEq, Repr

/-- One field of a register table: bits, access, reset. -/
structure FldDesc where
  lo : Nat
  w : Nat
  acc : Access
  rst : Nat
  deriving DecidableEq, Repr

/-- One index of a register array: instances below `count`, `stride` bytes apart, the first one `first`. -/
structure RegDim where
  count : Nat
  stride : Nat
  first : Nat
  deriving DecidableEq, Repr

/-- One register, or one array of registers, of a register table. -/
structure RegDesc where
  base : Nat
  dims : List RegDim
  fields : List FldDesc
  deriving DecidableEq, Repr

/-! ## The device as a whole -/

/-- The device states of R31 (OFF and the six codes of GLB_STATE.STATE). -/
inductive Mode where
  | off | selftest | safe | setup | ready | run | hold
  deriving DecidableEq, Repr

/-- The duplex sub-states of R34. -/
inductive Duplex where
  | active | standby | syncing
  deriving DecidableEq, Repr

/-- One event (R94). -/
structure Evt where
  code : Nat
  sev : Nat
  seq : Nat
  pw : Nat
  loc : Nat
  args : List Nat
  stamp : Nat
  lost : Bool
  urgent : Bool
  deriving DecidableEq, Repr

/-- A descriptor taken: where its completion goes (R79, R86). -/
structure Ticket where
  ring : Nat
  idx : Nat
  op : Nat
  seq : Nat
  /-- FLAGS of word 0: [0] IRQ, [1] FENCE (R79, R88). -/
  flags : Nat
  /-- What a capture DESC record says of it: TAG, LEN, CRC field, identity (R495). -/
  tag : Nat
  len : Nat
  crc : Nat
  ident : Nat
  deriving DecidableEq, Repr

/-- What the block sends. The list of these is the model's own record, oldest first. -/
inductive Output where
  /-- An event for Event ring descriptor `idx` (R94). The write itself leaves as `hostWrite`s. -/
  | event (idx : Nat) (e : Evt)
  /-- A descriptor completes: what its write-back carries (R87). The words returned are words 4, 5, ... on device-to-host rings. The
  write-back itself leaves as `hostWrite`s. -/
  | completion (ring idx op seq code detail sflags stamp : Nat) (words : List Nat)
  /-- One MSI-X message: the channel that sends it, its vector, and the message address and data of its table entry (R96, R109). -/
  | msix (ch vec addr data : Nat)
  /-- The answer to a host read of BAR0 (space 0), BAR2 (1) or configuration space (2): offset, completion status (0 success,
  1 Unsupported Request, 2 Configuration Request Retry Status, 4 Completer Abort), sent with EP set, the words read (R41, R42, R379, R427,
  R471). -/
  | readAnswer (space off status : Nat) (ep : Bool) (words : List Nat)
  /-- A PSO output takes a level (R70). -/
  | pso (n : Nat) (level : Bool)
  /-- A command on a pseudo-channel of the stack (R397). -/
  | dram (p : Nat) (c : DramCmd)
  /-- A read request to host memory: channel, address, bytes (R111). -/
  | hostRead (ch addr bytes : Nat)
  /-- A write to host memory: channel, address, bytes, sent with EP set (R111, R121). -/
  | hostWrite (ch addr : Nat) (bytes : List Nat) (ep : Bool)
  /-- An Unexpected Completion goes into Advanced Error Reporting (R124). -/
  | aer (ch : Nat)
  /-- A control block on every transmit lane of a port: type and payload bytes (R244). -/
  | block (port type : Nat) (payload : List Nat)
  /-- A frame on the transmit lanes of a native port: in each block slot, one block per lane (R245). -/
  | lanes (port : Nat) (slots : List (List LaneBlock))
  /-- A frame on a compatibility port: code groups, true for K (R256). -/
  | groups (port : Nat) (gs : List (Bool × Nat))
  /-- What a port's transmitter sends from here on where nothing else is due (R247, R250, R253, R259 to R263, R265). -/
  | stream (port : Nat) (x : TxStream)
  /-- An error injected on a transmit lane: port, macro, burst, header, length (R264). -/
  | inject (port macro_ : Nat) (burst header : Bool) (len : Nat)
  /-- RING_HOLD_EAST and RING_HOLD_WEST take a level (R347). -/
  | ringHold (level : Option Bool)
  /-- An Ethernet frame on DRV (0) or PLANT (1): destination, Ethertype, payload (R318, R329). -/
  | ethernet (port dst etype : Nat) (payload : List Nat)
  /-- A PTP message on an Ethernet port: messageType, domain, sequenceId, twoStepFlag, correctionField, and the fields of its body
  (R329, R331). -/
  | ptp (port type domain seq : Nat) (twoStep : Bool) (corr : Int) (body : List Nat)
  /-- A lease frame as code groups, true for K: K28.5 and 10 data bytes (R364). -/
  | lease (groups : List (Bool × Nat))
  /-- A slot of the flash is erased and written (R475). -/
  | flash (slot : Nat) (bytes : List Nat)
  /-- What the Yardor monitor sends on UART_0 (R479). -/
  | monitor (r : MonResp)
  /-- What the JTAG port shifts out (R483). -/
  | tap (v : Nat)
  deriving DecidableEq, Repr

/-! ## Host rings and interrupts (03) -/

/-- One ring beside its registers. -/
structure RingSt where
  /-- Expected SEQ, none until the next descriptor taken sets it (R80). -/
  expSeq : Option Nat
  /-- How many polls found OWN = 0 for the next descriptor (R85). -/
  ownRetry : Nat
  /-- Descriptors completed on a device-to-host ring, modulo 65,536 (R80). -/
  done : Nat
  /-- Completions not yet signalled (R96). -/
  unsig : Nat
  /-- TB of the oldest completion not yet signalled. -/
  oldest : Nat
  /-- The producer index before the latest doorbell read (R86). -/
  old : Nat
  /-- A descriptor of this ring has waited for FENCE since that read, so that those behind it start out of the order of R86. -/
  loose : Bool
  /-- The earliest TB at which the fetch of the ring's next descriptor can have been issued (R121). -/
  fetchAt : Nat
  deriving DecidableEq, Repr

/-- An error on a DMA channel: status code, far address and loop indices of the first word of the failing burst, the ring of the failing
descriptor or a transfer list, whether the burst was a write (R122). -/
structure ChError where
  code : Nat
  far : Nat
  idx : Nat × Nat × Nat
  ring : Nat
  list : Bool
  write : Bool
  deriving DecidableEq, Repr

/-- What a write to host memory is for, which says when it may be issued and what follows it (R87, R116, R122). -/
inductive WrKind where
  /-- Data of a ring descriptor: its loop index. -/
  | data (k : Nat)
  /-- Words that a completion returns: after every earlier write of the channel has its response. -/
  | fields
  /-- Word 0 of a ring descriptor with OWN = 0: its completion then counts for the ring's vector, at once if urgent. -/
  | last (urgent : Bool)
  /-- Word 0 of a CRC block. -/
  | block
  /-- Word 0 of a transfer descriptor: the list then goes on. -/
  | next
  /-- Word 0 of a descriptor that completes with an error of R121: the channel then stops. -/
  | fail (e : ChError) (urgent : Bool)
  deriving DecidableEq, Repr

/-- One write to host memory that has no response yet: channel, ring and index of its descriptor, address, bytes, EP, whether it has been
issued. -/
structure Wr where
  ch : Nat
  ring : Nat
  idx : Nat
  addr : Nat
  bytes : List Nat
  ep : Bool
  kind : WrKind
  sent : Bool
  deriving DecidableEq, Repr

/-- The host side of the device (03). -/
structure HostSt where
  rings : List RingSt
  /-- Writes to host memory that wait to be issued or for their response, in the order of each channel (R109, R116). -/
  writes : List Wr
  /-- A doorbell read is outstanding (R83). -/
  dbBusy : Bool
  /-- TB of the start of the last doorbell read or skip. -/
  dbLast : Nat
  /-- TB of issue of the doorbell read that is outstanding, and the completion timeout that was in force then (R121, R126). -/
  dbAt : Nat
  dbLim : Nat
  /-- How far the order of R86 has come since the latest doorbell read: the place of the last ring that new work was taken from. -/
  turn : Nat
  /-- Event descriptors that are published and are not plain empty ones: index and descriptor (R90, R91). -/
  evDescs : List (Nat × Desc)
  /-- The event sequence of R94. -/
  evSeq : Nat
  /-- The 1,024-entry queue of VERDICT, FAULT and FATAL events (R98). -/
  evQueue : List Evt
  /-- Events dropped in the present run, and the sequence of the first. -/
  dropRun : Nat
  dropFirst : Nat
  /-- HOST_BEHIND is due (R98). -/
  behindDue : Bool
  /-- Events the start-up rules owe to the first service of the Event ring (R235, R389, R406, R455, R485). -/
  firstDue : Bool
  /-- Commands taken and not completed, oldest first (R86). -/
  taken : List Ticket
  /-- PARAMs with AT_FRAME that wait for a frame start: the descriptor and the position (R91). -/
  deferred : List (Ticket × Desc × Nat)
  /-- MSI-X vector masks and pending bits, bit per vector (R96). -/
  msixMask : Nat
  msixPend : Nat
  /-- The MSI-X table: message address low and high, message data of each vector (R41). -/
  msixTable : List (Nat × Nat × Nat)
  /-- Bus Master Enable (R76), power state D3hot (R75), Completion Timeout Value (R126). -/
  busMaster : Bool
  d3hot : Bool
  cplTimeout : Nat
  /-- PCI Express link: negotiated lanes 1, 4 or 8 and speed 1 to 4 (2.5, 5.0, 8.0, 16 GT/s), 0 while it is not trained (R74). -/
  linkWidth : Nat
  linkSpeed : Nat
  deriving DecidableEq, Repr

/-! ## Jobs (03) -/

/-- The states of R101 (CLOSED is the job's absence). -/
inductive JobPhase where
  | opened | staged | live | ending
  deriving DecidableEq, Repr

/-- One open job (R91, R101). -/
structure Job where
  tag : Nat
  phase : JobPhase
  channels : Nat
  depth : Nat
  recordRing : Nat
  frameLines : Nat
  gutterLines : Nat
  lpiNum : Nat
  lpiDen : Nat
  scaleN : Nat
  scaleD : Nat
  /-- ORIGIN_REL and ORIGIN resolved at acceptance: the J0 a MOVE gives it (R103). -/
  origin : Nat
  frames : Nat
  /-- J0 once live. -/
  j0 : Nat
  /-- The last frame, set by JOB_CLOSE (R105) or a splice. -/
  endFrame : Option Nat
  /-- The splice position that is scheduled for this job to go live at. -/
  spliceAt : Option Nat
  /-- The order in which JOB_STAGE completed (R102). -/
  stageOrder : Nat
  /-- The next expected frame of RECORD_PUT. -/
  nextRecord : Nat
  /-- Frames whose reject-mark slot has been taken (R417). -/
  markNext : Nat
  /-- The JOB_CLOSE commands waiting for CLOSED. -/
  closers : List Ticket
  /-- Bank of the per-job tables that this job holds, 0 or 1 (R185). -/
  bank : Nat
  deriving DecidableEq, Repr

/-! ## Position and the calendar (02) -/

/-- One encoder (R46 to R57). -/
structure Encoder where
  e : Int
  /-- TB of the last accepted A edge and B edge. -/
  lastA : Option Nat
  lastB : Option Nat
  /-- The present 1 us window of TB: its number, its counts, and whether it has raised an overspeed (R48). -/
  win : Nat
  winCount : Nat
  winRaised : Bool
  /-- The expected index count E_z (R57), none before the first Z. -/
  ez : Option Int
  /-- The last Z check failed: windows pass until a Z falls inside one. -/
  zLost : Bool
  /-- The Z is active, with the counts seen since, and E_z and DEV to go back to if it stays. -/
  zActive : Bool
  zCounts : Nat
  zBack : Option Int
  zBackDev : Nat
  /-- The last accepted Z before it. -/
  zBackAt : Nat
  /-- TB of the last accepted Z. -/
  zAt : Nat
  deriving DecidableEq, Repr

/-- One estimator sample (p, t): p = pw + rem / den, t in TB ns (R60). -/
structure Sample where
  pw : Nat
  rem : Nat
  den : Nat
  t : Nat
  deriving DecidableEq, Repr

/-- The latest valid estimate: v in 2^-160 fine count per ns, a in 2^-200 fine count per ns^2 (R60). -/
structure Estimate where
  base : Sample
  prev : Sample
  v : Int
  a : Int
  deriving DecidableEq, Repr

/-- The modes of a calendar slot (R66). -/
inductive SlotMode where
  | line | predict | edge | servo
  deriving DecidableEq, Repr

/-- What a calendar slot does (R65). -/
inductive SlotAct where
  | splice (tag : Nat)
  | window (cam : Nat) (open_ : Bool) (band : Nat)
  | ladder (band : Nat)
  | pso (out : Nat) (level : Bool)
  | mark (tag frame : Nat) (final : Bool)
  | camStart (axis table : Nat)
  deriving DecidableEq, Repr

/-- One calendar slot in use (R65). -/
structure Slot where
  pos : Nat
  act : SlotAct
  mode : SlotMode
  deriving DecidableEq, Repr

/-- One PSI input (R58, R59). -/
structure Psi where
  level : Bool
  /-- TB at which the input became active. -/
  since : Nat
  stuck : Bool
  deriving DecidableEq, Repr

/-- The position engine (02). -/
structure PosSt where
  pw : Nat
  rem : Nat
  /-- The ratio in force (R52). -/
  n : Nat
  d : Nat
  encs : List Encoder
  eHw : Int
  revRun : Bool
  /-- The backlash episode in progress: its deepest excursion, and whether it became a reversal (R54). -/
  epDeep : Nat
  epRev : Bool
  /-- Samples since rest, newest first, and their count (R60). -/
  hist : List Sample
  count : Nat
  est : Option Estimate
  /-- TB and PW of the latest changes of PW, newest first, kept for 1,023 us (R58 LATCH). -/
  pwLog : List (Nat × Nat)
  cal : List (Nat × Slot)
  psi : List Psi
  pso : Nat
  /-- TB of the last broadcast taken as a follower (R73). -/
  bcastAt : Nat
  /-- TB at which the present run of valid estimates began (R283 cause 2). -/
  validAt : Nat
  deriving DecidableEq, Repr

/-! ## Verdicts (16) -/

/-- The findings of one frame (R409 to R412). -/
structure FrameRec where
  tag : Nat
  frame : Nat
  verdict : Nat
  causes : Nat
  firstLine : Option Nat
  links : Nat
  /-- Lines of the frame settled, counted once per row (R410). -/
  settled : Nat
  /-- Every code field painted and compared; light area checked to the last image line. -/
  painted : Bool
  composed : Bool
  /-- Bit m: follower m was present when line 0 fired; bit 8 + m: its VERDICT has come, or it has left (R410, R416). -/
  awaits : Nat
  /-- Fire times of the lines sent: first and last (R54). -/
  tfFirst : Option Nat
  tfLast : Nat
  posted : Bool
  /-- The marking decision and PW of the reject-mark slot, once it has acted (R417). -/
  marked : Option (Bool × Nat)
  deriving DecidableEq, Repr

/-- One host CRC unit's run (R422). -/
structure CrcRun where
  ticket : Ticket
  blk : Nat
  /-- Word 0 of the block. -/
  w0 : Nat
  unit : Nat
  poly : Nat
  result : Nat
  running : Nat
  compare : Bool
  expect : Nat
  poison : Bool
  deriving DecidableEq, Repr

/-- Verdicts and CRC units (16). -/
structure ChkSt where
  frames : List FrameRec
  /-- The mark as the latest slot to act gives it, driven or not (R419). -/
  mark : Bool
  /-- TB at which the pulse-mode mark ends (R418). -/
  pulseEnd : Option Nat
  runs : List CrcRun
  /-- The frame of the last verdict posted, whole (R351): CHK_LAST.FRAME shows its low 16 bits. -/
  lastFrame : Nat
  deriving DecidableEq, Repr

/-! ## Recorder, capture and replay (20) -/

/-- One histogram (R493). -/
structure Hist where
  bins : List Nat
  min : Nat
  max : Nat
  count : Nat
  deriving DecidableEq, Repr

/-- Where a capture is. -/
inductive CapPhase where
  | idle | armed | running | ending
  deriving DecidableEq, Repr

/-- A stream decode as it stands: what its context holds (R143, R148). -/
structure Dec where
  ident : Nat
  /-- BLOCK_SEQ and OUT_TOTAL. -/
  seq : Nat
  total : Nat
  /-- Offset of the next input byte in the stream. -/
  pos : Nat
  blockOut : Nat
  blockIn : Nat
  /-- H (R134). -/
  hist : Nat
  /-- Running CRCs of the block, its prefix included, and of the stream output, before the final XOR. -/
  blockCrc : Nat
  streamCrc : Nat
  /-- The code in progress: 0 none, 1 literal run, 2 match, 3 fill run; its bytes still to produce; the distance of a match, the byte of
  a fill run. -/
  pend : Nat
  left : Nat
  arg : Nat
  /-- Header of the block in progress; none between blocks. -/
  header : List Nat
  /-- History, newest byte first: at most 65,536 bytes. -/
  past : List Nat
  /-- The output so far, newest byte first: on its way to the tile store, or to the recorder's memory (R505). -/
  rev : List Nat
  /-- Blocks and FALLBACK blocks decoded and not yet counted in PIPE_CAL_BLOCKS and PIPE_CAL_FALLBACK. -/
  blocks : Nat
  fallbacks : Nat
  deriving DecidableEq, Repr

/-- A replay in progress (R503 to R505). -/
structure Replay where
  /-- REPLAY_GO until it completes. -/
  ticket : Ticket
  ident : Nat
  stopTag : Nat
  stopLine : Nat
  /-- Bytes of the stream not yet decoded, the bytes decoded so far, and the descriptors (ring, index, opcode, end) that wait for it. -/
  input : List Nat
  decoded : Nat
  open_ : List (Nat × Nat × Bool × Nat)
  dec : Dec
  ended : Bool
  /-- Output not yet cut into records, records not yet reached, and the count of records. -/
  tail : List Nat
  queue : List (List Nat)
  records : Nat
  /-- SWITCH and DETECT records read and not yet due, in order. -/
  waiting : List (List Nat)
  /-- START: tag, line, J0 and TBL_CRCs; whether its job has gone live and its TBL_CRCs have been compared. -/
  start : Option (Nat × Nat × Nat × List Nat)
  begun : Bool
  /-- The next line to compare: tag and line; and the last one compared. -/
  next : Option (Nat × Nat)
  last : Option (Nat × Nat)
  deriving DecidableEq, Repr

/-- The recorder, the capture stream and replay (20). -/
structure RecSt where
  /-- Recorder memory: 64-bit words by word offset; a word not listed is 0. -/
  mem : List (Nat × Nat)
  hists : List (Nat × Hist)
  /-- TB of the last sample of corrected bits, by histogram (R492). -/
  histAt : List (Nat × Nat)
  /-- The newest 64 records, newest first (R480: rec). -/
  newest : List (List Nat)
  cap : CapPhase
  /-- The CAPTURE_ON and CAPTURE_OFF commands waiting. -/
  capOn : Option Ticket
  capOff : Option Ticket
  noLineCrc : Bool
  /-- The capture ring that CAPTURE_ON names. -/
  capRing : Nat
  /-- Captures started since reset. -/
  capCount : Nat
  /-- Records that wait in the on-chip buffer, oldest first, and their bytes (R500). -/
  capBuf : List (List Nat)
  capBytes : Nat
  capRecords : Nat
  capDecoded : Nat
  /-- The gap in progress: records dropped, stamps of the first and the last. -/
  gap : Option (Nat × Nat × Nat)
  /-- TB of the last DOORBELL record, and the doorbell words it left. -/
  dbAt : Nat
  dbWords : List Nat
  /-- The TB ms of the last PW record, per-link TB of the last HEAD_STATUS record. -/
  pwAt : Nat
  headAt : List Nat
  /-- The reason of the END record written (R495). -/
  endReason : Nat
  replay : Option Replay
  /-- In replay mode: opcode, TAG, identity and CRC field of the descriptors completed and not yet matched (R504). -/
  rplDescs : List (Nat × Nat × Nat × Nat)
  deriving DecidableEq, Repr

/-! ## Linen (11) -/

/-- A MOVE in progress and the profile parameters last stored (R304). -/
structure Profile where
  v : Nat
  accel : Nat
  decel : Nat
  jerk : Nat
  deriving DecidableEq, Repr

/-- A stop in progress (R309). -/
structure WebStop where
  decel : Nat
  quick : Bool
  held : Bool
  tickets : List Ticket
  deriving DecidableEq, Repr

/-- A cam table (R315). -/
structure CamTable where
  cubic : Bool
  cyclic : Bool
  iv : Nat
  ys : List Int
  deriving DecidableEq, Repr

/-- A SET_SPEED that has not completed: its fields (0 leaves a value), DECEL_HELD, whether a compute instant has applied it (R307). -/
structure Setter where
  ticket : Ticket
  v : Nat
  accel : Nat
  decel : Nat
  held : Bool
  applied : Bool
  deriving DecidableEq, Repr

/-- One drive axis (R314 to R321). -/
structure Axis where
  /-- OFS in 2^-16 drive counts. -/
  ofs : Int
  /-- The running cam: table, X at the start in 2^-32 fine counts, position at the start. -/
  cam : Option (Nat × Int × Int)
  /-- The last set-point of position in 2^-16 counts. -/
  last : Int
  /-- Periods without a valid answer, and the fault episode posted (R321). -/
  missed : Nat
  faultEp : Bool
  deriving DecidableEq, Repr

/-- The Linen motion core (11). -/
structure LinenSt where
  /-- Commanded position in 2^-32 fine counts, counted on beyond 2^48 fine counts so that a gear quotient never jumps (R314). -/
  x : Int
  /-- Commanded speed in 2^-32 line/s; acceleration in 2^-32 line/s^2. -/
  v : Nat
  a : Int
  /-- XT of the MOVE in progress, as X. -/
  target : Option Int
  prof : Profile
  final : Bool
  stop : Option WebStop
  /-- The speed held after a new DECEL has left FINAL (R308). -/
  hold : Option Nat
  setters : List Setter
  /-- Register values that take effect at the next compute instant: offset and value (R325). -/
  next : List (Nat × Nat)
  axes : List Axis
  cams : List (Nat × CamTable)
  policy : List Nat
  /-- TB since which the governor cap has stayed below V, and at or above V (R313). -/
  below : Option Nat
  above : Option Nat
  rmPosted : Nat
  /-- TB at which the slowest link finished its newest lines, newest first, and how many since the latest MOVE at rest (R313). -/
  finished : List Nat
  finN : Nat
  faults : Nat
  takeover : Bool
  /-- The ride-through cap and its starting value, 2^-32 line/s (R463). -/
  rideCap : Option (Nat × Nat)
  /-- Set-point frames computed and not yet sent. -/
  frame : Option (List Nat)
  cycle : Nat
  /-- The active's state after a period that this unit has not computed yet (R361). -/
  mirrored : Option LinenImage
  deriving DecidableEq, Repr

/-! ## The whole state -/

/-! ## DMA (04) -/

/-- A read or write request of a transfer list that has no answer yet: far address, its first word, bytes, TB of its issue, and the
completion timeout in force then (R111, R126). -/
structure Burst where
  far : Nat
  k : Nat
  bytes : Nat
  at_ : Nat
  lim : Nat
  deriving DecidableEq, Repr

/-- A transfer list at work on channel 13 or 14 (R117 to R120). -/
structure XferRun where
  /-- The PARAM, until it completes. -/
  ticket : Option Ticket
  /-- Transfer descriptors completed with OK. -/
  count : Nat
  /-- Host address of the present transfer descriptor. -/
  addr : Nat
  /-- Its 16 words, none while it is being fetched. -/
  words : Option (List Nat)
  /-- Words issued so far. -/
  next : Nat
  /-- Requests without an answer, oldest first. -/
  open_ : List Burst
  /-- Bytes that reads have brought: first word and bytes. -/
  got : List (Nat × List Nat)
  /-- Every read is in; the memory has not yet acknowledged the writes. -/
  storing : Bool
  poison : Bool
  /-- The status with which the transfer descriptor is being written back; the list goes on when its word 0 is written (R118). -/
  backing : Option Nat
  deriving DecidableEq, Repr

/-- One channel beside its registers. -/
structure Chan where
  run : Option XferRun
  /-- TB of issue and timeout of reads that were outstanding when the channel stopped (R124). -/
  stale : List (Nat × Nat)
  /-- Reads that have timed out and whose completion may still arrive. -/
  expired : Nat
  deriving DecidableEq, Repr

/-- The DMA engine (04). -/
structure DmaSt where
  chans : List Chan
  /-- Max Read Request Size and Max Payload Size in bytes (R111). -/
  maxRead : Nat
  maxPayload : Nat
  deriving DecidableEq, Repr

/-! ## Calico (05) -/

/-- One CONTENT_PUT buffer as stored: its bytes and how many content-store pages it takes (R152, R153). -/
structure Buffer where
  bytes : List Nat
  pages : Nat
  deriving DecidableEq, Repr

/-- One content stream of a job (R137). -/
structure Stream where
  tag : Nat
  id : Nat
  bufs : List Buffer
  last : Bool
  deriving DecidableEq, Repr

/-- What a stream context does (R143). -/
inductive Ctx where
  | free
  | decode (x : Dec)
  | compress (ident : Nat)
  deriving DecidableEq, Repr

/-- A saved decode and its save slot (R146). -/
structure Saved where
  slot : Nat
  dec : Dec
  deriving DecidableEq, Repr

/-- A compressor at work: capture (dest 0xFF) or a camera's image (R149). -/
structure Comp where
  ident : Nat
  dest : Nat
  seq : Nat
  /-- Bytes of the open block, and TB of its first byte. -/
  block : List Nat
  firstAt : Nat
  /-- The whole output so far as CRC-32C running value, and its length. -/
  crc : Nat
  total : Nat
  /-- History, newest byte first, and H (R134, R143). -/
  past : List Nat
  hist : Nat
  poison : Bool
  /-- The next block carries HIST_RESET beyond the rule (R150, R500). -/
  resetNext : Bool
  /-- Blocks made and not yet in a descriptor: bytes, poison, END. -/
  ready : List (List Nat × Bool × Bool)
  ended : Bool
  deriving DecidableEq, Repr

/-- A device-to-host buffer descriptor being filled (R498, R224). -/
structure OpenBuf where
  ring : Nat
  idx : Nat
  op : Nat
  addr : Nat
  len : Nat
  filled : Nat
  poison : Bool
  firstAt : Nat
  /-- IRQ of its word 0 (R79). -/
  irq : Bool
  /-- Filled, or its stream has ended: identifier and flags of words 4 and 6, once every write of it has its response (R116). -/
  closed : Option (Nat × Nat)
  deriving DecidableEq, Repr

/-- A JOB_STAGE in progress (R139). -/
structure Staging where
  ticket : Ticket
  tag : Nat
  waits : List Nat
  begun : Bool
  /-- Decodes whose END block has been checked. -/
  done : List Dec
  deriving DecidableEq, Repr

/-- Calico (05). -/
structure CalSt where
  streams : List Stream
  ctxs : List Ctx
  saved : List Saved
  comps : List Comp
  open_ : List OpenBuf
  staging : List Staging
  stageCount : Nat
  imgCount : List Nat
  /-- Writes of save slots to DRAM that the memory holds from the next access on: address and bytes (R146). -/
  stores : List (Nat × List Nat)
  deriving DecidableEq, Repr

/-! ## Damask (06) -/

/-- A plane in the tile store (R154, R155). -/
structure Plane where
  tag : Nat
  stream : Nat
  pkind : Nat
  scale : Nat
  chMask : Nat
  w : Nat
  h : Nat
  tiles : List Nat
  pages : Nat
  deriving DecidableEq, Repr

/-- A layout as loaded (R157). -/
structure Layout where
  tag : Nat
  num : Nat
  bytes : List Nat
  deriving DecidableEq, Repr

/-- A record in the record buffer (R106, R163). -/
structure Rec where
  tag : Nat
  frame : Nat
  layout : Nat
  bytes : List Nat
  deriving DecidableEq, Repr

/-- A job's glyph set (R166). -/
structure GlyphSet where
  tag : Nat
  bytes : List Nat
  deriving DecidableEq, Repr

/-- One code symbol painted for a frame: layer, modules row by row, poisoned (R174 to R176). -/
structure Symbol where
  layer : Nat
  rows : Nat
  cols : Nat
  dark : List Bool
  poison : Bool
  deriving DecidableEq, Repr

/-- The symbols of a frame, and TB at which its line 0 began to wait for them (R178). -/
structure Painted where
  tag : Nat
  frame : Nat
  symbols : List Symbol
  deriving DecidableEq, Repr

/-- A composed line: samples per channel, poisoned granules as (channel, x div 4) (R168, R180). -/
structure CLine where
  tag : Nat
  line : Nat
  samples : List (List Nat)
  poison : List (Nat × Nat)
  deriving DecidableEq, Repr

/-- A screened line: drop codes and levels per channel and column, poison as (channel, x) (R183). -/
structure SLine where
  tag : Nat
  line : Nat
  dmkCrc : Nat
  codes : List (List Nat)
  levels : List (List Nat)
  poison : List (Nat × Nat)
  deriving DecidableEq, Repr

/-- A mapped line: per link, per row, the drop code of each slot, and the poisoned rows (R211). -/
structure MLine where
  tag : Nat
  line : Nat
  dmkCrc : Nat
  twlCrc : Nat
  rows : List (List (List Nat))
  poison : List (Nat × Nat)
  deriving DecidableEq, Repr

/-- Damask (06). -/
structure DmkSt where
  planes : List Plane
  layouts : List Layout
  records : List Rec
  glyphs : List GlyphSet
  painted : List Painted
  /-- The next line to compose: tag and line; none with no job live or due. -/
  front : Option (Nat × Nat)
  /-- WIDTH of the layout in force: of the frame that is composed (R202). -/
  width : Nat
  /-- Code layers whose light-area violation has been posted in the frame being composed (R177). -/
  qzPosted : List Nat
  /-- Fields whose poison has been posted in this frame. -/
  poisonPosted : List Nat
  /-- RECORD_STARVED has been posted for this frame (R98). -/
  starved : Option (Nat × Nat)
  /-- The frame whose line 0 waits for its symbols: tag, frame, and TB since which (R178). -/
  paintWait : Option (Nat × Nat × Nat)
  composed : Option CLine
  screened : Option SLine
  mapped : Option MLine
  deriving DecidableEq, Repr

/-! ## Twill (07) -/

/-- A threshold matrix (R196). -/
structure Matrix where
  mw : Nat
  mh : Nat
  px : Nat
  py : Nat
  entries : List Nat
  deriving DecidableEq, Repr

/-- One bank of the per-job tables: what is not listed is at the default of R184. -/
structure TwlBank where
  curves : List (Nat × List Nat)
  matrices : List (Nat × Matrix)
  /-- (B, S) of ramp q, boundary j, at key 16 q + j; none until ramps are loaded. -/
  ramps : Option (List (Nat × (Nat × Nat)))
  /-- The 40 bytes of the diffusion kernel table (R194). -/
  kernel : List Nat
  /-- V and CODE of each channel that was loaded (R193). -/
  levels : List (Nat × (List Nat × List Nat))
  deriving DecidableEq, Repr

/-- The error rows of one segment of one stripe: stripe, channel, first window column, E_cur, and E_next (R200, R201). -/
structure ErrRow where
  stripe : Nat
  channel : Nat
  lo : Nat
  cur : List Int
  deriving DecidableEq, Repr

/-- Twill (07). -/
structure TwlSt where
  bank0 : TwlBank
  bank1 : TwlBank
  /-- Kinds loaded to the live job's inactive bank and not yet switched, bit (KIND - 2) (R186). -/
  pending : Nat
  /-- JOB_OPEN commands that wait for a pending switch (R185). -/
  waiting : List (Ticket × Desc)
  err : List ErrRow
  /-- Stripes that have posted ED_SATURATED in this frame (R206). -/
  satPosted : List Nat
  /-- The last line that Twill has begun. -/
  begun : Option (Nat × Nat)
  deriving DecidableEq, Repr

/-! ## Gauze and the cameras (08) -/

/-- One stitch (R213). -/
structure Stitch where
  type : Nat
  ch : Nat
  ov : Nat
  x0 : Nat
  gx0 : Nat
  share : List Nat
  deriving DecidableEq, Repr

/-- One bank of the device-wide tables: nozzle entries by index (an entry not listed is 0), stitches by number, FO and XO by row. -/
structure GzBank where
  nozzles : List (Nat × Nat)
  stitches : List (Nat × Stitch)
  align : List (Nat × (Int × Int))
  deriving DecidableEq, Repr

/-- One unit of a ladder round: a channel of a link, and the gutter of a job from which on it may print (R218). -/
structure LadderUnit where
  link : Nat
  ch : Nat
  tag : Nat
  gutter : Nat
  deriving DecidableEq, Repr

/-- A ladder round: the units still to print, whether LADDER_SKIPPED was posted (R218, R220), and the LADDER_NOW commands that wait for
the ladder slot. -/
structure Round where
  units : List LadderUnit
  skipped : Bool
  tickets : List Ticket
  deriving DecidableEq, Repr

/-- A band of a gutter: ladder of (link, channel) or alignment of (link, row) (R219, R234). -/
structure Band where
  id : Nat
  tag : Nat
  align : Bool
  link : Nat
  /-- Channel of a ladder band, row of an alignment band. -/
  sub : Nat
  /-- First line of its gutter, of the band, and the band's lines. -/
  gutter : Nat
  first : Nat
  lines : Nat
  /-- P, LD and G_OFS as it was printed, and PW of the job's line 0. -/
  p : Nat
  ld : Nat
  gOfs : Nat
  base : Nat
  /-- The camera whose window covers it. -/
  cam : Option Nat
  deriving DecidableEq, Repr

/-- One camera trigger: its PW, its TB, and its line: none open, some [] missing, else the pixels (R222). -/
structure Trigger where
  pw : Nat
  at_ : Nat
  line : Option (List Nat)
  deriving DecidableEq, Repr

/-- A camera window (R223). -/
structure Window where
  id : Nat
  cam : Nat
  tag : Nat
  gutter : Nat
  openPos : Nat
  closePos : Nat
  opened : Bool
  closed : Bool
  pwOpen : Nat
  /-- Triggers in order. -/
  triggers : List Trigger
  crcErr : Nat
  missing : Nat
  orphans : Nat
  badLen : Nat
  /-- The reason byte of the image header. -/
  reason : Nat
  closedAt : Nat
  /-- The number of the next trigger; CAM_LINE_ERR and the image have been settled; the bands have been analysed. -/
  next : Nat
  reported : Bool
  analysed : Bool
  deriving DecidableEq, Repr

/-- One camera receiver beside its registers. -/
structure Camera where
  lastSeq : Option Nat
  /-- TB at which the trigger pulse ends. -/
  pulseEnd : Option Nat
  deriving DecidableEq, Repr

/-- An ALIGN_NOW in progress (R234): rows still to print, and what each row measured gave (u, delta in 1/256). -/
structure AlignRun where
  ticket : Ticket
  apply : Bool
  /-- The first gutter that may carry its bands: job and frame. -/
  tag : Nat
  gutter : Nat
  rows : List (Nat × Nat)
  results : List (Nat × Option (Int × Int))
  deriving DecidableEq, Repr

/-- A degraded row, its action, and the first frame it touches (R230, R231). -/
structure Degraded where
  link : Nat
  row : Nat
  action : Nat
  tag : Nat
  frame : Nat
  deriving DecidableEq, Repr

/-- A change of state that a band has decided: entry, old and new state, the counters that decided it, its partners (R229, R238). -/
structure Decision where
  entry : Nat
  old : Nat
  new : Nat
  bad : Nat
  good : Nat
  weak : Nat
  partL : Nat
  partR : Nat
  deriving DecidableEq, Repr

/-- Gauze (08). -/
structure GzSt where
  bank0 : GzBank
  bank1 : GzBank
  /-- Changes that wait for the switch point: bit 0 nozzle table, 1 stitch set, 2 alignment set (R210). -/
  pending : Nat
  /-- Entries written by a host load, by the host's NOZZLE_SET, and changed by decisions (entry, old and new state), since the last switch. -/
  loaded : List Nat
  hostSet : List Nat
  decided : List Decision
  /-- PIPE_GZ and CAM_ANALYSIS values that wait for the switch point: offset and value (R237). -/
  regs : List (Nat × Nat)
  /-- Policy tables that wait for the switch point: INSTANCE and contents (R39, R93). -/
  policyNext : List (Nat × List Nat)
  policy : List Nat
  round : Option Round
  alignRun : Option AlignRun
  bands : List Band
  nextBand : Nat
  /-- LADDER_SKIPPED events that wait for the retirement of a ladder slot (R66): the slot's number, none until the gutter has one; reason,
  link and channel. -/
  skips : List (Option Nat × Nat × Nat × Nat)
  windows : List Window
  cams : List Camera
  degraded : List Degraded
  /-- Donor lines of the present frame by entry (R216). -/
  uncomp : List (Nat × Nat)
  /-- The two alignment records in MRAM: SEQ, set, valid (R235). -/
  mram : List (Option (Nat × List (Nat × (Int × Int))))
  alignLost : Bool
  deriving DecidableEq, Repr

/-! ## Lanes (09) -/

/-- One lane port beside its registers (R250 to R262). -/
structure Port where
  /-- TB of entry to the present stage. -/
  stageAt : Nat
  /-- Bring-up waits for LREF (R240). -/
  waits : Bool
  /-- LOCK and DESKEW run again at the same rate, without CAP (R262). -/
  skipCap : Bool
  deskewed : Bool
  /-- The last CAP payload and how many identical ones have come. -/
  cap : List Nat
  caps : Nat
  /-- Rates that a fallback has cleared for this bring-up, and the target rate. -/
  failed : Nat
  target : Nat
  /-- STEP blocks for the next rate; GO sent and its electrical idle until this TB, with the rate after it. -/
  steps : Nat
  idle : Option (Nat × Nat)
  /-- At the new rate: waits for relock and DONE; DONE has come; this is the fallback to the previous rate. -/
  relock : Bool
  doneIn : Bool
  fallback : Bool
  /-- The far receiver has lost lock: no frame is sent (R265). -/
  farLost : Bool
  /-- TB of the last frame sent, of the first clock edge of a wake, and until which a waking transmitter trains (R260). -/
  lastTx : Nat
  wakeAt : Option Nat
  trainTo : Nat
  /-- Far-end loopback returns the received stream (R263); the far side tests: pattern and lane mask. -/
  loop : Bool
  farTest : Option (Nat × Nat)
  /-- Per macro: valid headers since the last slip of a lane that hunts, or K28.5 at one alignment; and, once locked, how many blocks or code
  groups ago each error of the lock-loss window was (R248, R258). -/
  hunt : List Nat
  errs : List (List Nat)
  /-- The macro that a DESKEW fault names so far (R265). -/
  late : Nat
  /-- Code groups in the elastic buffer (R257). -/
  elastic : Nat
  /-- Per macro: how many bits ago each error of the checker's reseed window was (R262). -/
  bits : List (List Nat)
  /-- What the transmitter sends where nothing else is due, since when (TB), and the sequence number of the next ALIGN (R247). -/
  tx : TxStream
  txAt : Nat
  alignSeq : Nat
  deriving DecidableEq, Repr

/-- A port out of reset. -/
def Port.start : Port where
  stageAt := 0
  waits := false
  skipCap := false
  deskewed := false
  cap := []
  caps := 0
  failed := 0
  target := 0
  steps := 0
  idle := none
  relock := false
  doneIn := false
  fallback := false
  farLost := false
  lastTx := 0
  wakeAt := none
  trainTo := 0
  loop := false
  farTest := none
  hunt := List.replicate 4 0
  errs := List.replicate 4 []
  late := 0
  elastic := 16
  bits := List.replicate 4 []
  tx := .off
  txAt := 0
  alignSeq := 0

/-- Lanes (09). -/
structure LaneSt where
  ports : List Port
  deriving DecidableEq, Repr

/-! ## Head links and line FIFOs (10) -/

/-- One row of one line in a FIFO: what was queued, and how it has gone (R271, R289, R298, R415). -/
structure RowEntry where
  /-- The payload words and source check of the line store (R275, R414). -/
  payload : List Nat
  sc : Nat
  poison : Bool
  /-- None until settled: 1 VERIFIED, 2 VERIFIED_MISMATCH, 3 UNVERIFIED, 4 NAK_FINAL, 5 POISONED, 6 LATE, 7 HALTED (R497). -/
  outcome : Option Nat
  /-- The line-check class: 0 none, 1 REPAIRED, 2 CHECK_CORRUPT, 3 CHECK_FAIL. -/
  check : Nat
  /-- Words 0 and 1 of the first copy, once it was built, and its t_f in 2^-16 ns. -/
  header : Option (Nat × Nat × Nat)
  /-- CRCs of the copies sent. -/
  crcs : List Nat
  resends : Nat
  /-- TB at which the last block of the newest copy leaves. -/
  lastBlock : Nat
  /-- The last answer: 0 none, 1 NAK, 2 an ACK that matched no copy. -/
  answer : Nat
  /-- An ACK that matched no copy has come (R298). -/
  mismatched : Bool
  /-- A line-store refetch after a failed line check is under way: payload and check of the send buffer as read. -/
  refetch : Option (List Nat × Nat)
  deriving DecidableEq, Repr

/-- One line in the FIFO of one link (R271, R272). -/
structure FifoLine where
  tag : Nat
  line : Nat
  dmkCrc : Nat
  twlCrc : Nat
  /-- TB as Gauze finished the line (R283). -/
  doneAt : Nat
  rows : List RowEntry
  deriving DecidableEq, Repr

/-- One row timer as the fire scheduler sees it (R64, R282 to R284). -/
structure RowSt where
  /-- The next line not yet sent: tag and line. -/
  next : Option (Nat × Nat)
  /-- The last line sent: tag, line, and the instant its next line is expected in 2^-16 ns. -/
  last : Option (Nat × Nat × Nat)
  paused : Bool
  /-- The frames for which LINE_LATE and LINE_UNVERIFIED have been posted: tag and frame (R299). -/
  lateIn : List (Nat × Nat)
  unvIn : List (Nat × Nat)
  /-- LAST_LINE of the latest valid status (R291). -/
  lastLine : Nat
  /-- The line that it named, by tag and line (R292). -/
  fired : Option (Nat × Nat)
  temp : Int
  deriving DecidableEq, Repr

/-- A head command not yet acknowledged: its words without the CRC, and, of a TIME, how long before the SOF its DCK edge comes, in 2^-16 ns
(R278, R279). -/
structure HeadCmd where
  seq : Nat
  words : List Nat
  phase : Nat
  tries : Nat
  /-- TB at which the last block of the newest copy leaves. -/
  sentAt : Nat
  deriving DecidableEq, Repr

/-- A frame that waits for the lanes of a link (R282). -/
inductive Waiting where
  /-- A head command, by SEQ. -/
  | cmd (seq : Nat)
  /-- A copy of a line: row, tag, line, t_f in 2^-16 ns, payload as read. -/
  | line (again : Bool) (row tag line tf : Nat) (payload : List Nat)
  deriving DecidableEq, Repr

/-- A frame that has left and has no answer yet (R288). -/
inductive Unanswered where
  | cmd (seq : Nat)
  | line (row tag line : Nat)
  deriving DecidableEq, Repr

/-- One head link (10). -/
structure Link where
  fifo : List FifoLine
  rows : List RowSt
  /-- Lines that were settled before Gauze finished them: row, tag, line, outcome (R283 cause 1). -/
  lateAhead : List (Nat × Nat × Nat × Nat)
  /-- The lanes are busy until this instant, 2^-16 ns. -/
  busy : Nat
  cmdSeq : Nat
  cmds : List HeadCmd
  /-- Frames that wait, in the order of R282, and frames without an answer, the oldest first. -/
  queue : List Waiting
  sent : List Unanswered
  /-- What the last LANE_UP found: 0 none yet, 1 UNFIT, 2 fit (R269); and halted (R294). -/
  fit : Nat
  halted : Bool
  /-- TB of the changes between carrying line frames and not, the newest first: at most 64. -/
  fits : List (Nat × Bool)
  /-- TB of the last TIME command, the DCK period in 2^-32 ns as last measured, and the CONFIG depth code last sent. -/
  timeAt : Nat
  period : Nat
  depthSent : Option Nat
  /-- The depth code of the last job live since reset, code 1 before any (R278). -/
  lastDepth : Nat
  /-- TB of the last valid status, and its words. -/
  statusAt : Nat
  status : List Nat
  /-- The latest valid status shows a fault of R292, or none has come. -/
  faultEp : Bool
  /-- HARD treatment of a silent link has begun. -/
  silentHard : Bool
  /-- TB since which every row stays below LIMIT - 2 C, and below HARD - 2 C. -/
  coolSince : Option Nat
  hardCool : Option Nat
  /-- TB of the last lowering of the heat cap. -/
  capAt : Nat
  /-- Sums for the capture HEAD_STATUS record: HELD, BLANKED per row, HFAULT, RFAULT per row. -/
  held : List Nat
  blanked : List Nat
  hfault : Nat
  rfault : List Nat
  /-- The first line that a RESUME allows: tag and line (R294). -/
  resumeAt : Option (Nat × Nat)
  deriving DecidableEq, Repr

/-- A line released by some links and not by all: what its capture LINE record will say (R495). -/
structure Released where
  tag : Nat
  line : Nat
  dmkCrc : Nat
  twlCrc : Nat
  /-- Link number, CRC summary, outcome bytes of rows 0 to 3. -/
  links : List (Nat × Nat × List Nat)
  deriving DecidableEq, Repr

/-- All links (10). -/
structure LinkSt where
  links : List Link
  released : List Released
  /-- The link policy table (R295). -/
  policy : List Nat
  /-- The newest line that Gauze has finished: tag and line (R273). -/
  newest : Option (Nat × Nat)
  deriving DecidableEq, Repr

/-! ## Network time (12) -/

/-- What an Announce tells of a clock (R329), and when it came. -/
structure Foreign where
  ann : PtpAnnounce
  at_ : Nat
  /-- TB of the Announce before it. -/
  prev : Option Nat
  deriving DecidableEq, Repr

/-- A PTP slave: TRK_0, TRK_1, and the DRV instance of R339. -/
structure Tracker where
  /-- STATE of the DRV instance; TRK_0 and TRK_1 have TIME_TRK_STAT_t. -/
  state : Nat
  foreign : List Foreign
  /-- The chosen sender: its port identity; none before an Announce qualifies. -/
  best : Option Nat
  /-- TB of the last Sync from it, and consistent Syncs in a row (R335). -/
  syncAt : Nat
  good : Nat
  /-- r_t, signed, 2^-40, and e_t in ns (R332). -/
  rate : Int
  err : Int
  /-- The path delay in 2^-16 ns. -/
  delay : Int
  /-- A two-step Sync that waits for its Follow_Up: SEQ, stamp, correction. -/
  two : Option (Nat × Int × Int)
  /-- Source time and stamp of the last Sync, 2^-16 ns. -/
  t1 : Int
  t2 : Int
  /-- A Delay_Req or Pdelay_Req out: SEQ and stamp; a Pdelay_Resp that waits for its Follow_Up: stamp, time, correction. -/
  asked : Option (Nat × Int)
  peer : Option (Int × Int × Int)
  seq : Nat
  /-- TB of the last steering (R334). -/
  steerAt : Option Nat
  deriving DecidableEq, Repr

/-- A slew (R336). -/
structure Slew where
  until_ : Nat
  rate : Int
  before : Int
  old : Nat
  new : Nat
  err : Int
  ns : Nat
  deriving DecidableEq, Repr

/-- Device time (12). -/
structure TimeSt where
  /-- Offset, rate and anchor that reads before the present anchor use, newest first (R333). -/
  olds : List (Int × Int × Nat)
  trks : List Tracker
  slew : Option Slew
  /-- The whole second that the last TIME_MARK stood for. -/
  second : Nat
  /-- The DRV master's sequence numbers of Sync and Announce, and TB of its last Sync. -/
  syncSeq : Nat
  annSeq : Nat
  syncTx : Option Nat
  deriving DecidableEq, Repr

/-! ## Ring, cascade, duplex (13) -/

/-- What the last BEAT of a node said (R351). -/
structure NodeSt where
  /-- TB of the last BEAT; none before the first. -/
  beatAt : Option Nat
  horizon : Nat
  yield_ : Bool
  healthOk : Bool
  leaseValid : Bool
  leaseRem : Nat
  epoch : Nat
  active : Bool
  /-- The last verdict it posted: frame and tag. -/
  frame : Nat
  tag : Nat
  /-- FOLLOWER_STALE was posted for this silence (R356). -/
  stale : Bool
  deriving DecidableEq, Repr

/-- An arbitration in progress (R368). -/
structure Arb where
  /-- SEQ of the MISMATCH, TB of its start, lines that differ: tag, line. -/
  seq : Nat
  at_ : Nat
  lines : List (Nat × Nat)
  /-- Results: own and the partner's ARBITER word 1. -/
  own : Option Nat
  partner : Option Nat
  deriving DecidableEq, Repr

/-- The line-check summaries of one line: tag, line, (link, summary) (R367). -/
structure Summary where
  tag : Nat
  line : Nat
  links : List (Nat × Nat)
  deriving DecidableEq, Repr

/-- Resynchronisation (R369). -/
structure Sync where
  stage : Nat
  tag : Nat
  join : Nat
  /-- A difference has arisen since F_join. -/
  differs : Bool
  snapped : Bool
  deriving DecidableEq, Repr

/-- The ring unit (13). -/
structure RingNet where
  /-- SEQ of the next message by TYPE. -/
  seqs : List Nat
  /-- Messages taken in the last 1 ms: SRC, TYPE, SEQ, TB. -/
  seen : List (Nat × Nat × Nat × Nat)
  nodes : List NodeSt
  /-- Nodes whose messages are ignored, a bit each (R355). -/
  conflict : Nat
  /-- TB of the last ROLL, PW, BEAT and lease frame sent. -/
  rollAt : Nat
  pwAt : Nat
  beatAt : Nat
  leaseTx : Nat
  /-- TB of the last broadcast with ACTIVE taken (R357). -/
  activeAt : Nat
  /-- TB of the last renewal of the own lease (R360). -/
  leaseAt : Nat
  /-- The partner on the lease link: TB of its last frame, ACTIVE, YIELD, STANDBY, LEASE_VALID, its LEASE_REM (R364). -/
  link : Option (Nat × Bool × Bool × Bool × Bool × Nat)
  /-- LEASE_PATH lost has been posted: ring, lease link. -/
  ringLost : Bool
  linkLost : Bool
  /-- TB of the entry to READY while no partner has been heard (R359). -/
  waitAt : Option Nat
  arb : Option Arb
  /-- Own summaries not yet compared, and the active's. -/
  mine : List Summary
  theirs : List Summary
  sync : Option Sync
  handover : Option Ticket
  yield_ : Bool
  /-- Line 0 of this frame is where a handover yields: tag and frame. -/
  yieldAt : Option (Nat × Nat)
  /-- TB of the last standby test, and whether it failed alone. -/
  testAt : Nat
  /-- DELAY requests out, by port 18 and 19: SEQ and stamp in 1/32 ns; results so far. -/
  asked : List (Nat × Nat × Nat)
  hops : List (Nat × Nat)
  hopAt : List Nat
  /-- Statuses that the active has reported for the standby's commands: opcode, tag, code, detail; commands that wait for one, with
  code, detail and SFLAGS of their own (R361). -/
  told : List (Nat × Nat × Nat × Nat)
  untold : List (Ticket × Nat × Nat × Nat)
  /-- Jobs open on the active: tag, J0, FRAMES, N, D, live (R369). -/
  jobs : List (Nat × Nat × Nat × Nat × Nat × Bool)
  /-- Records that wait for their line: tag, line (R361). -/
  due : List (Nat × Nat × PartnerRec)
  /-- Table kinds that may switch on a unit that is not ACTIVE: bits 0 to 2 nozzle table, stitch set, alignment set, 3 to 7 per-job. -/
  gate : Nat
  /-- PW, rem and E_hw to take at the next web-encoder edge (R369). -/
  edge : Option (Nat × Nat × Int)
  /-- The partner's sub-state as last heard: 0 none, 1 ACTIVE, 2 STANDBY, 3 SYNCING; a SNAPSHOT has been sent to it. -/
  partner : Nat
  snapSent : Bool
  /-- TB at which the partner's last LEASE_REM runs out. -/
  leaseEnd : Option Nat
  /-- TB of the last heartbeat of the active that this unit has replaced (R365). -/
  tookOver : Option Nat
  /-- The unit is SYNCING for a failed standby test alone (R371). -/
  testOnly : Bool
  /-- TB at which RING_HOLD was driven high and bring-up of the ring ports waits (R347). -/
  holdAt : Option Nat
  /-- Messages that wait on ports 18 and 19, each with the TB at which it came, in the order in which they will leave; and when the lanes of
  each port are free, in 2^-16 ns of TB (R352). -/
  outq : List (List (Nat × List Nat))
  busy : List Nat
  /-- SEQ and TB of the own ROLLs that may still be on the ring (R355). -/
  rolls : List (Nat × Nat)
  deriving DecidableEq, Repr

/-! ## Memories (14, 15) -/

/-- A training sweep that gathers data (R405 to R407). -/
structure Sweep where
  /-- Speed point: 0 4.8, 1 3.2 Gb/s. -/
  speed : Nat
  /-- Lanes that failed the sweep at the speed asked for, where this is the further sweep at 3.2 Gb/s. -/
  fallback : Option Nat
  deferred : Option Nat
  /-- A DRAM_SPEED asked for it. -/
  change : Bool
  tickets : List Ticket
  deriving DecidableEq, Repr

/-- A read that waits at a pseudo-channel: its request, TB of its arrival, row hits that have passed it (R397). -/
structure DramWait where
  req : DramReq
  since : Nat
  passed : Nat
  deriving DecidableEq, Repr

/-- A pseudo-channel of the DRAM controller (R396 to R398): reads that wait and the write queue, oldest first; writes whose port waits
because the queue is full; a write drain; the open row of each bank that has one; until when a refresh takes it; TB of what happened there
last. -/
structure DramChan where
  reads : List DramWait
  writes : List DramReq
  waiting : List DramReq
  draining : Bool
  rows : List (Nat × Nat)
  busy : Nat
  last : Nat
  deriving DecidableEq, Repr

/-- Poison, scrub, repair and the DRAM controller (14, 15). -/
structure EccSt where
  /-- Data stored with the poison pattern (R377), and data that the next read alone delivers poisoned (R394). -/
  poisoned : List Datum
  once : List Datum
  /-- Device address and location code of stored poison that a scrub or the stack has found (R376, R390). -/
  places : List (Datum × (Nat × Nat))
  /-- TB at which the SRAM and the DRAM pass began. -/
  sramAt : Nat
  dramAt : Nat
  /-- How far this pass has come: by macro, the byte offset that follows the last word read; in DRAM, the device address (R382). -/
  sramNext : List (Nat × Nat)
  dramNext : Nat
  /-- Macros and banks whose first CE of the pass was posted, by histogram number (R390). -/
  ceSeen : List Nat
  /-- CEs since the last histogram sample, by histogram number (R492). -/
  ceCount : List (Nat × Nat)
  /-- Hard faults of this pass: macro and column (R387). -/
  hardCols : List (Nat × Nat)
  /-- The two copies of the MRAM field repair table: SEQ and entries (R389). -/
  field : List (Option (Nat × List Nat))
  /-- Spare rows and columns in use by macro (R385, R386). -/
  spares : List (Nat × (Nat × Nat))
  /-- Regions with no valid copy, to be posted when the Event ring is first served (R389). -/
  lost : List Nat
  /-- Refreshes owed by pseudo-channel, and TB of the next slot (R401). -/
  owed : List Nat
  slotAt : List Nat
  chans : List DramChan
  /-- TB of the last request of each port that issued (R400). -/
  portAt : List Nat
  /-- Hot mode has been left: the limit returns to 8 at the next slot (R402). -/
  cooling : Bool
  /-- Activations in this window by row: key 32 x row address div 2^15 plus pseudo-channel (R400). -/
  acts : List (Nat × Nat)
  window : Nat
  /-- PANIC: since when, episodes and the longest since the last event, TB of that event (R399, R408). -/
  panicAt : Option Nat
  panics : Nat
  longest : Nat
  panicPost : Nat
  /-- TB of the last request other than a scrub read, scrub reads held, TB of the last exit for them (R404). -/
  lastReq : Nat
  heldScrubs : Nat
  srAt : Nat
  /-- Read and write delays of the 128 byte lanes (R405). -/
  rdDelay : List Nat
  wrDelay : List Nat
  sweep : Option Sweep
  /-- Lanes that failed at 4.8 Gb/s at power-up, to be posted (R406). -/
  speedDown : Option Nat
  deriving DecidableEq, Repr

/-! ## Clocks (17) -/

/-- A calibration run (R440, R441). -/
structure CalRun where
  /-- 0 start-up, 1 temperature, 2 CAL_NOW. -/
  trigger : Nat
  both : Bool
  rounds : Nat
  /-- Readings of the die sensors at its start. -/
  temps : List Int
  /-- Temperature change that triggered it, 0.25 C. -/
  delta : Int
  /-- Twins that have passed, key 2 x line + twin. -/
  passed : List Nat
  tickets : List Ticket
  /-- The trims before the run, to which a failed run returns (R442). -/
  saved : List (Nat × (Nat × Nat))
  /-- TB of its start. -/
  at_ : Nat
  deriving DecidableEq, Repr

/-- Clocks, calibration and resets (17). -/
structure ClkSt where
  cal : Option CalRun
  /-- Trims of a tap that have moved: key 32 x (2 x line + twin) + tap, delay and threshold trim, 0 to 15. -/
  trims : List (Nat × (Nat × Nat))
  /-- Lines whose twin B is in service, and lines that swap at the first instant at which they are not in use (R441). -/
  inB : Nat
  swapDue : Nat
  /-- Die readings at the start of the last passing run; none before one. -/
  passTemps : List Int
  /-- TB of the last failed run, and its trigger (R442). -/
  failed : Option (Nat × Nat)
  /-- The asynchronous path of R427 holds outputs. -/
  asyncHold : Bool
  /-- TB of the last attempt to relock, and of the last attempt of stage 1. -/
  relockAt : Nat
  /-- RING_HOLD_EAST and RING_HOLD_WEST are driven high (R347). -/
  ringHold : Option Bool
  deriving DecidableEq, Repr

/-! ## Temperature and mains (18) -/

/-- One temperature sensor (R445 to R447). -/
structure Sensor where
  broken : Bool
  stuck : Bool
  /-- The reading at which it was found stuck. -/
  stuckAt : Int
  /-- TB since which it reads in range. -/
  inRange : Nat
  /-- It has moved by 1 C since it was found stuck. -/
  moved : Bool
  deriving DecidableEq, Repr

/-- A thermal shutdown record (R454). -/
structure ShutRec where
  seq : Nat
  count : Nat
  time : Nat
  tb : Nat
  cause : Nat
  sensor : Nat
  state : Nat
  ack : Bool
  thr : Nat
  level : Nat
  readings : List Int
  broken : Nat
  pw : Nat
  tag : Nat
  frame : Nat
  deriving DecidableEq, Repr

/-- One modulator input (R457 to R461). -/
structure ModIn where
  i1 : Nat
  i2 : Nat
  i3 : Nat
  z1 : Nat
  z2 : Nat
  z3 : Nat
  /-- The last bit and how many equal bits have come in a row. -/
  last : Bool
  run : Nat
  fault : Option Nat
  /-- TB since which its bits are valid. -/
  validAt : Nat
  /-- The half-cycle in progress: its start, sum of squares, samples, whether |s| has exceeded NOM / 8; the sign of the last sample. -/
  halfAt : Nat
  sumSq : Nat
  n : Nat
  armed : Bool
  neg : Bool
  /-- Half-cycles in a row at or above the recovery level. -/
  good : Nat
  /-- TB of the last zero crossing, and whether every half-cycle since then was at or above SAG_PCT (R458). -/
  zeroAt : Nat
  rmsOk : Bool
  /-- The DC sum of this millisecond. -/
  sum : Int
  deriving DecidableEq, Repr

/-- The sense unit (18). -/
structure SenseSt where
  sensors : List Sensor
  /-- Samples of the last 10 s, newest first: TB and the 17 readings in 0.25 C. -/
  hist : List (Nat × List Int)
  /-- Lines Gauze has finished since the last pause, and TB at which a pause ends (R450). -/
  batch : Nat
  pause : Option Nat
  /-- Values that take effect at the next sample or half-cycle: offset and value (R456). -/
  next : List (Nat × Nat)
  /-- The two copies of the shutdown record in MRAM. -/
  shut : List (Option ShutRec)
  mods : List ModIn
  /-- HALF of the counted phase: whether the next end is positive-going. -/
  half : Nat
  /-- TB of the last DC bus mean. -/
  dcAt : Nat
  /-- TB since which a condition has lasted without a break: 0 to 2 a phase sags, 3 the bus is low, 4 to 7 an input is faulty (R463). -/
  since : List (Nat × Nat)
  /-- The ride-through action that Linen takes at its next compute instant: 1 SLOWDOWN, 2 STOP. -/
  rideDue : Nat
  /-- The causes of R452 that held at the last sample, bit per cause. -/
  trig : Nat
  /-- The mains policy table, 64 bytes (R462). -/
  policy : List Nat
  deriving DecidableEq, Repr

/-! ## Power-up, monitor, JTAG (19) -/

/-- A monitor session (R479 to R482). -/
structure Session where
  /-- The outstanding challenge. -/
  challenge : Option Nat
  /-- TB of its last command line. -/
  lastAt : Nat
  deriving DecidableEq, Repr

/-- The JTAG instructions (R483). -/
inductive TapInstr where
  | bypass | idcode | samplePreload | extest | clamp | highz
  deriving DecidableEq, Repr

/-- An IMAGE_WRITE in progress (R475). -/
structure ImageJob where
  ticket : Ticket
  slot : Nat
  deriving DecidableEq, Repr

/-- Power-up, service processor, monitor, JTAG (19). -/
structure SvcSt where
  /-- TB at which the present stage began, and the durations in us of stages 1 to 9 (R480, R489). -/
  stageAt : Nat
  durations : List Nat
  /-- The power-up duration in us and SAFE_CAUSE at step 12 (R485). -/
  upUs : Nat
  upCause : Nat
  /-- Stage 1 has passed; the memory fill has ended. -/
  pllsLocked : Bool
  filled : Bool
  /-- The service processor is out of reset; a firmware image has verified. -/
  up : Bool
  verified : Bool
  /-- The boot ROM's scratch memory has failed BIST: the monitor stays silent. -/
  silent : Bool
  /-- The candidate slot, and the failed candidate with its header byte (R474). -/
  candidate : Option Nat
  fallback : Option (Nat × Nat)
  /-- Subsystem ID and vendor ID as configuration space shows them (R472). -/
  subsystem : Nat
  /-- Configuration requests complete normally (R470 step 8, R472). -/
  configOk : Bool
  /-- FORCE_SAFE written during SELFTEST, held until the fill has ended (R473). -/
  forceHeld : Bool
  /-- The set-up check runs (R477). -/
  checking : Bool
  /-- TB of the entry to SAFE and of the last SAFE_STATUS (R476). -/
  safeAt : Nat
  safePost : Nat
  /-- The monitor key K in MRAM (R481). -/
  key : Nat
  uart : Session
  mbox : Session
  wrong : Nat
  lockoutAt : Nat
  /-- TB of a change of baud rate that no valid line has confirmed. -/
  baudAt : Option Nat
  /-- TB of the OK line of reboot. -/
  rebootAt : Option Nat
  /-- The mailbox session: characters in, characters out; the rest of a line that is too long is discarded. -/
  inq : List Nat
  outq : List Nat
  skip : Bool
  image : Option ImageJob
  tap : TapInstr
  deriving DecidableEq, Repr

/-- Everything but device memory and the queue. -/
structure Dev where
  /-- The time base TB in ns (R16), modulo 2^64. -/
  tb : Nat
  mode : Mode
  duplex : Duplex
  /-- BAR0 register fields whose value is not their reset value, by bit address (R9). -/
  regs : List (Nat × Nat)
  /-- How many free values have been drawn (the model's own counter, not the spec's). -/
  free : Nat
  out : List Output
  host : HostSt
  jobs : List Job
  pos : PosSt
  chk : ChkSt
  recd : RecSt
  linen : LinenSt
  dma : DmaSt
  cal : CalSt
  dmk : DmkSt
  twl : TwlSt
  gz : GzSt
  lane : LaneSt
  link : LinkSt
  time : TimeSt
  net : RingNet
  ecc : EccSt
  clk : ClkSt
  sense : SenseSt
  svc : SvcSt
  deriving DecidableEq, Repr

/-- The block: the device, its memory as cells none of which is 0 (R118, R381), and the commands that wait. -/
structure State where
  dev : Dev
  mem : List Host.Cell
  pending : List Instr
  deriving DecidableEq, Repr

/-! ## Reset -/

/-- A ring that has never been served. -/
def RingSt.reset : RingSt := ⟨none, 0, 0, 0, 0, 0, false, 0⟩

/-- A row timer before any job. -/
def RowSt.reset : RowSt := ⟨none, none, false, [], [], 0, none, 0⟩

/-- A head link before bring-up. The DCK period is 10 ns, the depth not yet sent. -/
def Link.reset : Link :=
  { fifo := [], rows := List.replicate 4 RowSt.reset, lateAhead := [], busy := 0, cmdSeq := 0, cmds := [], queue := [], sent := []
    fit := 0, halted := false, fits := [], timeAt := 0
    period := 10 * 2 ^ 32, depthSent := none, lastDepth := 1, statusAt := 0, status := [], faultEp := true, silentHard := false
    coolSince := none, hardCool := none, capAt := 0, held := [0, 0, 0, 0], blanked := [0, 0, 0, 0], hfault := 0
    rfault := [0, 0, 0, 0], resumeAt := none }

/-- The defaults of R184: nothing loaded. -/
def TwlBank.reset : TwlBank := ⟨[], [], none, [], []⟩

/-- An empty bank of the device-wide tables. -/
def GzBank.reset : GzBank := ⟨[], [], []⟩

/-- The device right after a cold reset from power-on: every field at the value the spec gives, or at the value that the assumption log
names. -/
def Dev.reset : Dev where
  tb := 0
  mode := .selftest
  duplex := .active
  regs := []
  free := 0
  out := []
  host := { rings := List.replicate 32 RingSt.reset, writes := [], dbBusy := false, dbLast := 0, dbAt := 0, dbLim := 50000, turn := 0
            evDescs := [], evSeq := 0, evQueue := [], dropRun := 0
            dropFirst := 0, behindDue := false, firstDue := true, taken := [], deferred := [], msixMask := 0xFFFFFFFF, msixPend := 0
            msixTable := List.replicate 32 (0, 0, 0), linkWidth := 0, linkSpeed := 0, busMaster := true, d3hot := false, cplTimeout := 0 }
  jobs := []
  pos := { pw := 0, rem := 0, n := 1, d := 1
           encs := List.replicate 4 ⟨0, none, none, 0, 0, false, none, false, false, 0, none, 0, 0, 0⟩
           eHw := 0, revRun := false, epDeep := 0, epRev := false, hist := [], count := 0, est := none, pwLog := [], cal := []
           psi := List.replicate 8 ⟨false, 0, false⟩, pso := 0, bcastAt := 0, validAt := 0 }
  chk := ⟨[], false, none, [], 0⟩
  recd := { mem := [], hists := [], histAt := [], newest := [], cap := .idle, capOn := none, capOff := none, noLineCrc := false, capRing := 0
            capCount := 0, capBuf := [], capBytes := 0, capRecords := 0, capDecoded := 0, gap := none, dbAt := 0, dbWords := List.replicate 32 0
            pwAt := 0, headAt := List.replicate 16 0, endReason := 0, replay := none, rplDescs := [] }
  linen := { x := 0, v := 0, a := 0, target := none, prof := ⟨0, 0, 0, 0⟩, final := false, stop := none, hold := none, setters := [], next := []
             axes := List.replicate 12 ⟨0, none, 0, 0, false⟩, cams := [], policy := (List.replicate 12 [1, 1, 0, 0]).flatten ++ [1] ++ List.replicate 15 0
             below := none, above := none, rmPosted := 0, finished := [], finN := 0, faults := 0, takeover := false, rideCap := none, frame := none, cycle := 0, mirrored := none }
  dma := ⟨List.replicate 16 ⟨none, [], 0⟩, 512, 128⟩
  cal := ⟨[], List.replicate 16 .free, [], [], [], [], 0, List.replicate 2 0, []⟩
  dmk := ⟨[], [], [], [], [], none, 0, [], [], none, none, none, none, none⟩
  twl := ⟨TwlBank.reset, TwlBank.reset, 0, [], [], [], none⟩
  gz := { bank0 := GzBank.reset, bank1 := GzBank.reset, pending := 0, loaded := [], hostSet := [], decided := [], regs := [], policyNext := []
          policy := List.replicate 64 0, round := none, alignRun := none, bands := [], nextBand := 0, skips := [], windows := []
          cams := List.replicate 2 ⟨none, none⟩, degraded := [], uncomp := [], mram := [some (0, []), none], alignLost := false }
  lane := ⟨List.replicate 20 Port.start⟩
  link := ⟨List.replicate 16 Link.reset, [], List.replicate 64 0, none⟩
  time := { olds := [], trks := List.replicate 3 ⟨0, [], none, 0, 0, 0, 0, 0, none, 0, 0, none, none, 0, none⟩, slew := none, second := 0
            syncSeq := 0, annSeq := 0, syncTx := none }
  net := { seqs := List.replicate 13 0, seen := []
           nodes := List.replicate 16 ⟨none, 0, false, false, false, 0, 0, false, 0, 0, false⟩, conflict := 0, rollAt := 0, pwAt := 0
           beatAt := 0, leaseTx := 0, activeAt := 0, leaseAt := 0, link := none, ringLost := false, linkLost := false, waitAt := none
           arb := none, mine := [], theirs := [], sync := none, handover := none, yield_ := false, yieldAt := none, testAt := 0
           asked := [], hops := [], hopAt := [0, 0], told := [], untold := [], jobs := [], due := [], gate := 0, edge := none, partner := 0, snapSent := false
           leaseEnd := none, tookOver := none, testOnly := false, holdAt := none, outq := [[], []], busy := [0, 0], rolls := [] }
  ecc := { poisoned := [], once := [], places := [], sramAt := 0, dramAt := 0, sramNext := [], dramNext := 0, ceSeen := [], ceCount := [], hardCols := []
           field := [some (0, []), none], spares := [], lost := [], owed := List.replicate 32 0
           slotAt := (List.range 32).map (fun p => p * 3900 / 32), chans := List.replicate 32 ⟨[], [], [], false, [], 0, 0⟩
           portAt := List.replicate 11 0, cooling := false, acts := [], window := 0
           panicAt := none, panics := 0, longest := 0, panicPost := 0, lastReq := 0, heldScrubs := 0, srAt := 0
           rdDelay := List.replicate 128 0, wrDelay := List.replicate 128 0, sweep := none, speedDown := none }
  clk := ⟨none, [], 0, 0, [], none, false, 0, false⟩
  sense := { sensors := List.replicate 17 ⟨false, false, 0, 0, false⟩, hist := [], batch := 0, pause := none, next := [], shut := [none, none]
             mods := List.replicate 4 ⟨0, 0, 0, 0, 0, 0, false, 0, none, 0, 0, 0, 0, false, false, 0, 0, true, 0⟩, half := 0, dcAt := 0
             since := [], rideDue := 0, trig := 0
             policy := [0, 1, 1, 1, 2, 0, 0, 0] ++ leBytes 4 100000 ++ [50, 0] ++ leBytes 2 500 ++ List.replicate 48 0 }
  svc := { stageAt := 0, durations := List.replicate 9 0, upUs := 0, upCause := 0, pllsLocked := false, filled := false
           up := false, verified := false, silent := false, candidate := none, fallback := none
           subsystem := 0x1F3C, configOk := false, forceHeld := false, checking := false, safeAt := 0, safePost := 0, key := 0
           uart := ⟨none, 0⟩, mbox := ⟨none, 0⟩, wrong := 0, lockoutAt := 0, baudAt := none, rebootAt := none, inq := [], outq := [], skip := false
           image := none, tap := .idcode }

/-- The block right after reset: in SELFTEST (GLB_STATE reads 1), nothing in memory, no command waiting. -/
def State.reset : State := ⟨Dev.reset, [], []⟩

end Sys2Proof.Machine
end

