-- ==== Sys2Proof/Machine/RegMap.lean ====
section
/-! DEFINITION. The BAR0 register map: one name per register field, as the register field tables of the chapters give
them (offset, bits, width, reset value), and the same tables as data for uniform reads and writes (R6, R7, R9, R41, R43).
A field whose reset the spec takes from elsewhere (eFuse, R108, TIME_NOW, REC_WIN) is computed on read: see Flags.lean. -/
namespace Sys2Proof.Machine

/-! Registers of spec/01_architecture.md. -/
def Reg.GLB_ID.PART : Fld := ⟨0x0, 16, 16, 610⟩
def Reg.GLB_ID.STEPPING : Fld := ⟨0x0, 8, 8, 176⟩
def Reg.GLB_ID.GRADE : Fld := ⟨0x0, 4, 4, 0⟩
def Reg.GLB_STATE.STATE : Fld := ⟨0x4, 0, 3, 1⟩
def Reg.GLB_STATE.DUPLEX : Fld := ⟨0x4, 4, 2, 0⟩
def Reg.GLB_STATE.PARTNER : Fld := ⟨0x4, 6, 1, 0⟩
def Reg.GLB_STATE.LOCKED : Fld := ⟨0x4, 8, 1, 1⟩
def Reg.GLB_STATE.SAFE_CAUSE : Fld := ⟨0x4, 12, 4, 0⟩
def Reg.GLB_STATE_CTL.GO_READY : Fld := ⟨0x8, 0, 1, 0⟩
def Reg.GLB_STATE_CTL.GO_SETUP : Fld := ⟨0x8, 1, 1, 0⟩
def Reg.GLB_STATE_CTL.FORCE_SAFE : Fld := ⟨0x8, 2, 1, 0⟩
def Reg.GLB_FATAL_LOC_LO.LOC_LO : Fld := ⟨0xC, 0, 32, 0⟩
def Reg.GLB_FATAL_LOC_HI.LOC_HI : Fld := ⟨0x10, 0, 16, 0⟩
/-! Registers of spec/02_web_position.md. -/
def Reg.POS_CFG.WEB_ENC : Fld := ⟨0x30000, 0, 2, 0⟩
def Reg.POS_CFG.BW : Fld := ⟨0x30000, 8, 8, 8⟩
def Reg.POS_CFG.VEL_K : Fld := ⟨0x30000, 16, 4, 5⟩
def Reg.POS_CFG.REST_MS : Fld := ⟨0x30000, 24, 8, 10⟩
def Reg.POS_SCALE_N.VALUE : Fld := ⟨0x30004, 0, 24, 1⟩
def Reg.POS_SCALE_D.VALUE : Fld := ⟨0x30008, 0, 24, 1⟩
def Reg.POS_ENC_CFG_n.FILT (n : Nat) : Fld := ⟨0x30010 + 4 * n, 0, 6, 3⟩
def Reg.POS_ENC_CFG_n.DIR_INV (n : Nat) : Fld := ⟨0x30010 + 4 * n, 6, 1, 0⟩
def Reg.POS_ENC_CFG_n.Z_POL (n : Nat) : Fld := ⟨0x30010 + 4 * n, 7, 1, 0⟩
def Reg.POS_ENC_CFG_n.OVS_LIM (n : Nat) : Fld := ⟨0x30010 + 4 * n, 8, 5, 26⟩
def Reg.POS_ENC_CFG_n.EN (n : Nat) : Fld := ⟨0x30010 + 4 * n, 16, 1, 0⟩
def Reg.POS_IDX_PERIOD_n.PERIOD (n : Nat) : Fld := ⟨0x30020 + 4 * n, 0, 24, 0⟩
def Reg.POS_PW_LO.PW_LO : Fld := ⟨0x30040, 0, 32, 0⟩
def Reg.POS_PW_HI.PW_HI : Fld := ⟨0x30044, 0, 16, 0⟩
def Reg.POS_REM.REM : Fld := ⟨0x30048, 0, 24, 0⟩
def Reg.POS_STATUS.VALID : Fld := ⟨0x3004C, 0, 1, 0⟩
def Reg.POS_STATUS.AT_REST : Fld := ⟨0x3004C, 1, 1, 1⟩
def Reg.POS_STATUS.HELD : Fld := ⟨0x3004C, 2, 1, 0⟩
def Reg.POS_STATUS.REG_LOST : Fld := ⟨0x3004C, 3, 1, 0⟩
def Reg.POS_STATUS.FOLLOWER : Fld := ⟨0x3004C, 4, 1, 0⟩
def Reg.POS_STATUS.POS_LOST : Fld := ⟨0x3004C, 5, 1, 0⟩
def Reg.POS_VEL.VEL : Fld := ⟨0x30050, 0, 32, 0⟩
def Reg.POS_ACC.ACC : Fld := ⟨0x30054, 0, 32, 0⟩
def Reg.POS_FAULT.OVS : Fld := ⟨0x30058, 0, 1, 0⟩
def Reg.POS_FAULT.REV : Fld := ⟨0x30058, 1, 1, 0⟩
def Reg.POS_FAULT.IDX : Fld := ⟨0x30058, 2, 1, 0⟩
def Reg.POS_FAULT.STUCK : Fld := ⟨0x30058, 3, 1, 0⟩
def Reg.POS_FAULT.CAL_FULL : Fld := ⟨0x30058, 4, 1, 0⟩
def Reg.POS_FAULT.INPUT : Fld := ⟨0x30058, 8, 2, 0⟩
def Reg.POS_FAULT.CAUSE : Fld := ⟨0x30058, 16, 2, 0⟩
def Reg.POS_ENC_CNT_n.CNT (n : Nat) : Fld := ⟨0x30060 + 4 * n, 0, 32, 0⟩
def Reg.POS_IDX_DEV_n.DEV (n : Nat) : Fld := ⟨0x30070 + 4 * n, 0, 16, 0⟩
def Reg.POS_IDX_DEV_n.FAULTS (n : Nat) : Fld := ⟨0x30070 + 4 * n, 16, 16, 0⟩
def Reg.POS_GLITCH_n.GLITCH (n : Nat) : Fld := ⟨0x30080 + 4 * n, 0, 32, 0⟩
def Reg.POS_PSI_CFG_n.DEBOUNCE (n : Nat) : Fld := ⟨0x300A0 + 4 * n, 0, 10, 10⟩
def Reg.POS_PSI_CFG_n.POL (n : Nat) : Fld := ⟨0x300A0 + 4 * n, 10, 1, 0⟩
def Reg.POS_PSI_CFG_n.FUNC (n : Nat) : Fld := ⟨0x300A0 + 4 * n, 11, 2, 0⟩
def Reg.POS_PSI_CFG_n.WDOG (n : Nat) : Fld := ⟨0x300A0 + 4 * n, 16, 16, 0⟩
def Reg.POS_PSI_STATE.LEVEL : Fld := ⟨0x300C0, 0, 8, 0⟩
def Reg.POS_PSI_STATE.STUCK : Fld := ⟨0x300C0, 8, 8, 0⟩
def Reg.POS_CAL_USED_c.USED (n : Nat) : Fld := ⟨0x300E0 + 4 * n, 0, 12, 0⟩
def Reg.POS_CAL_USED_c.PEAK (n : Nat) : Fld := ⟨0x300E0 + 4 * n, 16, 12, 0⟩
def Reg.POS_ROW_OFS_n.OFS (n : Nat) : Fld := ⟨0x30100 + 4 * n, 0, 32, 0⟩
def Reg.POS_BCAST.AGE : Fld := ⟨0x30200, 0, 16, 65535⟩
def Reg.POS_BCAST.MISSED : Fld := ⟨0x30200, 16, 16, 0⟩
/-! Registers of spec/03_host_rings_and_jobs.md. -/
def Reg.HOST_DB_ADDR_LO.ADDR_LO : Fld := ⟨0x10000, 0, 32, 0⟩
def Reg.HOST_DB_ADDR_HI.ADDR_HI : Fld := ⟨0x10004, 0, 32, 0⟩
def Reg.HOST_DB_POLL.POLL : Fld := ⟨0x10008, 0, 8, 4⟩
def Reg.HOST_DB_STAT.SKIPPED : Fld := ⟨0x1000C, 0, 16, 0⟩
def Reg.HOST_DB_STAT.FAILED : Fld := ⟨0x1000C, 16, 16, 0⟩
def Reg.HOST_EVT_LOST.LOST : Fld := ⟨0x10010, 0, 32, 0⟩
def Reg.HOST_RING_BASE_LO_n.BASE_LO (n : Nat) : Fld := ⟨0x10100 + 32 * n, 0, 32, 0⟩
def Reg.HOST_RING_BASE_HI_n.BASE_HI (n : Nat) : Fld := ⟨0x10104 + 32 * n, 0, 32, 0⟩
def Reg.HOST_RING_CFG_n.EN (n : Nat) : Fld := ⟨0x10108 + 32 * n, 0, 1, 0⟩
def Reg.HOST_RING_CFG_n.KIND (n : Nat) : Fld := ⟨0x10108 + 32 * n, 1, 3, 0⟩
def Reg.HOST_RING_CFG_n.LOG2SIZE (n : Nat) : Fld := ⟨0x10108 + 32 * n, 4, 5, 4⟩
def Reg.HOST_RING_CFG_n.VEC (n : Nat) : Fld := ⟨0x10108 + 32 * n, 16, 5, 1⟩
def Reg.HOST_RING_COAL_n.COAL_CNT (n : Nat) : Fld := ⟨0x1010C + 32 * n, 0, 8, 1⟩
def Reg.HOST_RING_COAL_n.COAL_US (n : Nat) : Fld := ⟨0x1010C + 32 * n, 8, 16, 0⟩
def Reg.HOST_RING_CONS_n.CONS (n : Nat) : Fld := ⟨0x10110 + 32 * n, 0, 16, 0⟩
def Reg.HOST_RING_CONS_n.PROD (n : Nat) : Fld := ⟨0x10110 + 32 * n, 16, 16, 0⟩
def Reg.HOST_RING_STAT_n.STOPPED (n : Nat) : Fld := ⟨0x10114 + 32 * n, 0, 1, 0⟩
def Reg.HOST_RING_STAT_n.CAUSE (n : Nat) : Fld := ⟨0x10114 + 32 * n, 1, 3, 0⟩
def Reg.HOST_RING_STAT_n.ERRORS (n : Nat) : Fld := ⟨0x10114 + 32 * n, 16, 16, 0⟩
/-! Registers of spec/04_dma.md. -/
def Reg.DMA_CH_STAT_n.STATE (n : Nat) : Fld := ⟨0x20000 + 32 * n, 0, 2, 0⟩
def Reg.DMA_CH_STAT_n.PRIO (n : Nat) : Fld := ⟨0x20000 + 32 * n, 4, 3, 0⟩
def Reg.DMA_CH_STAT_n.ERR (n : Nat) : Fld := ⟨0x20000 + 32 * n, 8, 8, 0⟩
def Reg.DMA_CH_STAT_n.TAGS (n : Nat) : Fld := ⟨0x20000 + 32 * n, 16, 10, 0⟩
def Reg.DMA_CH_ERR_LO_n.ADDR_LO (n : Nat) : Fld := ⟨0x20004 + 32 * n, 0, 32, 0⟩
def Reg.DMA_CH_ERR_HI_n.ADDR_HI (n : Nat) : Fld := ⟨0x20008 + 32 * n, 0, 32, 0⟩
def Reg.DMA_CH_ERR_IDX_n.I0 (n : Nat) : Fld := ⟨0x2000C + 32 * n, 0, 16, 0⟩
def Reg.DMA_CH_ERR_IDX_n.I1 (n : Nat) : Fld := ⟨0x2000C + 32 * n, 16, 16, 0⟩
def Reg.DMA_CH_ERR_SRC_n.I2 (n : Nat) : Fld := ⟨0x20010 + 32 * n, 0, 16, 0⟩
def Reg.DMA_CH_ERR_SRC_n.RING (n : Nat) : Fld := ⟨0x20010 + 32 * n, 16, 5, 0⟩
def Reg.DMA_CH_ERR_SRC_n.LIST (n : Nat) : Fld := ⟨0x20010 + 32 * n, 21, 1, 0⟩
def Reg.DMA_CH_ERR_SRC_n.WRITE (n : Nat) : Fld := ⟨0x20010 + 32 * n, 22, 1, 0⟩
def Reg.DMA_CH_BYTES_n.BYTES (n : Nat) : Fld := ⟨0x20014 + 32 * n, 0, 32, 0⟩
def Reg.DMA_CH_WAIT_n.WAIT_MAX (n : Nat) : Fld := ⟨0x20018 + 32 * n, 0, 16, 0⟩
def Reg.DMA_CH_CNT_n.ERRORS (n : Nat) : Fld := ⟨0x2001C + 32 * n, 0, 16, 0⟩
def Reg.DMA_CH_CNT_n.LATE (n : Nat) : Fld := ⟨0x2001C + 32 * n, 16, 16, 0⟩
def Reg.DMA_TAGS.IN_USE : Fld := ⟨0x20200, 0, 10, 0⟩
def Reg.DMA_TAGS.PEAK : Fld := ⟨0x20200, 16, 10, 0⟩
/-! Registers of spec/05_calico_stream.md. -/
def Reg.PIPE_CAL_CFG.RESET_EVERY : Fld := ⟨0xB0000, 0, 8, 16⟩
def Reg.PIPE_CAL_CFG.FLUSH_US : Fld := ⟨0xB0000, 16, 16, 1000⟩
def Reg.PIPE_CAL_SAVE_LO.BASE_LO : Fld := ⟨0xB0004, 0, 32, 4293918720⟩
def Reg.PIPE_CAL_SAVE_HI.BASE_HI : Fld := ⟨0xB0008, 0, 8, 3⟩
def Reg.PIPE_CAL_CTX_n.STATE (n : Nat) : Fld := ⟨0xB0010 + 4 * n, 0, 2, 0⟩
def Reg.PIPE_CAL_CTX_n.STREAM (n : Nat) : Fld := ⟨0xB0010 + 4 * n, 16, 16, 0⟩
def Reg.PIPE_CAL_BLOCKS.BLOCKS : Fld := ⟨0xB0050, 0, 32, 0⟩
def Reg.PIPE_CAL_SAVES.SAVES : Fld := ⟨0xB0054, 0, 16, 0⟩
def Reg.PIPE_CAL_SAVES.RESTORES : Fld := ⟨0xB0054, 16, 16, 0⟩
def Reg.PIPE_CAL_FALLBACK.FB_IN : Fld := ⟨0xB0058, 0, 16, 0⟩
def Reg.PIPE_CAL_FALLBACK.FB_OUT : Fld := ⟨0xB0058, 16, 16, 0⟩
def Reg.PIPE_CAL_ERR.CODE : Fld := ⟨0xB005C, 0, 8, 0⟩
def Reg.PIPE_CAL_ERR.CTX : Fld := ⟨0xB005C, 8, 4, 0⟩
def Reg.PIPE_CAL_ERR.COUNT : Fld := ⟨0xB005C, 12, 20, 0⟩
/-! Registers of spec/06_damask_composition.md. -/
def Reg.PIPE_DMK_CS_LO.BASE_LO : Fld := ⟨0xB0100, 0, 32, 0⟩
def Reg.PIPE_DMK_CS_HI.BASE_HI : Fld := ⟨0xB0104, 0, 8, 0⟩
def Reg.PIPE_DMK_CS_SIZE.MIB : Fld := ⟨0xB0108, 0, 14, 2048⟩
def Reg.PIPE_DMK_TS_LO.BASE_LO : Fld := ⟨0xB010C, 0, 32, 2147483648⟩
def Reg.PIPE_DMK_TS_HI.BASE_HI : Fld := ⟨0xB0110, 0, 8, 0⟩
def Reg.PIPE_DMK_TS_SIZE.MIB : Fld := ⟨0xB0114, 0, 14, 14335⟩
def Reg.PIPE_DMK_QZ.LIMIT : Fld := ⟨0xB0118, 0, 12, 0⟩
def Reg.PIPE_DMK_USE.CS_USED : Fld := ⟨0xB0120, 0, 14, 0⟩
def Reg.PIPE_DMK_USE.TS_USED : Fld := ⟨0xB0120, 16, 14, 0⟩
def Reg.PIPE_DMK_LINE.CYCLES_MAX : Fld := ⟨0xB0124, 0, 16, 0⟩
def Reg.PIPE_DMK_CNT.QZ_VIOL : Fld := ⟨0xB0128, 0, 16, 0⟩
def Reg.PIPE_DMK_CNT.CODE_MISMATCH : Fld := ⟨0xB0128, 16, 16, 0⟩
def Reg.PIPE_DMK_RES.RESIDUE : Fld := ⟨0xB012C, 0, 16, 0⟩
def Reg.PIPE_DMK_RES.CLIPPED : Fld := ⟨0xB012C, 16, 16, 0⟩
def Reg.PIPE_DMK_SYMBOLS.SYMBOLS : Fld := ⟨0xB0130, 0, 32, 0⟩
/-! Registers of spec/07_tone_and_twill.md. -/
def Reg.PIPE_TWL_STRIPES.USED : Fld := ⟨0xB0200, 0, 7, 0⟩
def Reg.PIPE_TWL_STRIPES.CH_THR : Fld := ⟨0xB0200, 8, 8, 0⟩
def Reg.PIPE_TWL_STRIPES.CH_SERP : Fld := ⟨0xB0200, 16, 8, 0⟩
def Reg.PIPE_TWL_BANK.ACTIVE : Fld := ⟨0xB0204, 0, 5, 0⟩
def Reg.PIPE_TWL_BANK.FRAME : Fld := ⟨0xB0204, 16, 16, 0⟩
def Reg.PIPE_TWL_RES.RES_THR : Fld := ⟨0xB0208, 0, 16, 0⟩
def Reg.PIPE_TWL_RES.RES_ED : Fld := ⟨0xB0208, 16, 16, 0⟩
def Reg.PIPE_TWL_SAT.SAT : Fld := ⟨0xB020C, 0, 32, 0⟩
def Reg.PIPE_TWL_CYC.CYCLES_MAX : Fld := ⟨0xB0210, 0, 13, 0⟩
def Reg.PIPE_TWL_POISON.GRANULES : Fld := ⟨0xB0214, 0, 32, 0⟩
/-! Registers of spec/08_nozzle_map_and_gauze.md. -/
def Reg.PIPE_GZ_CFG.CH_M1 : Fld := ⟨0xB0300, 0, 3, 7⟩
def Reg.PIPE_GZ_NTW.NT_W : Fld := ⟨0xB0304, 0, 17, 32768⟩
def Reg.PIPE_GZ_DECIDE.K_FAIL : Fld := ⟨0xB0308, 0, 3, 3⟩
def Reg.PIPE_GZ_DECIDE.K_OK : Fld := ⟨0xB0308, 4, 4, 8⟩
def Reg.PIPE_GZ_DECIDE.K_WEAK : Fld := ⟨0xB0308, 8, 2, 2⟩
def Reg.PIPE_GZ_DECIDE.WEAK_ADD : Fld := ⟨0xB0308, 16, 12, 2048⟩
def Reg.PIPE_GZ_COMP.W1 : Fld := ⟨0xB030C, 0, 5, 8⟩
def Reg.PIPE_GZ_COMP.W2 : Fld := ⟨0xB030C, 8, 5, 6⟩
def Reg.PIPE_GZ_COMP.W3 : Fld := ⟨0xB030C, 16, 5, 4⟩
def Reg.PIPE_GZ_DEGRADE.MAX_FAIL : Fld := ⟨0xB0310, 0, 10, 20⟩
def Reg.PIPE_GZ_LADDER.EVERY : Fld := ⟨0xB0314, 0, 8, 16⟩
def Reg.PIPE_GZ_LADDER.P : Fld := ⟨0xB0314, 8, 5, 4⟩
def Reg.PIPE_GZ_LADDER.LD : Fld := ⟨0xB0314, 16, 7, 8⟩
def Reg.PIPE_GZ_LADDER.G_OFS : Fld := ⟨0xB0314, 24, 8, 16⟩
def Reg.PIPE_GZ_LINKS.MASK : Fld := ⟨0xB0318, 0, 16, 0⟩
def Reg.PIPE_GZ_FAILED.FAILED : Fld := ⟨0xB0320, 0, 19, 0⟩
def Reg.PIPE_GZ_WEAK.WEAK : Fld := ⟨0xB0324, 0, 19, 0⟩
def Reg.PIPE_GZ_DEGR.LINKS : Fld := ⟨0xB0328, 0, 16, 0⟩
def Reg.PIPE_GZ_UNCOMP.DONORS : Fld := ⟨0xB032C, 0, 32, 0⟩
def Reg.PIPE_GZ_BANK.ACTIVE : Fld := ⟨0xB0330, 0, 3, 0⟩
def Reg.PIPE_GZ_BANK.FRAME : Fld := ⟨0xB0330, 16, 16, 0⟩
def Reg.PIPE_GZ_XREM_m.REM_0 (n : Nat) : Fld := ⟨0xB0340 + 4 * n, 0, 4, 0⟩
def Reg.PIPE_GZ_XREM_m.REM_1 (n : Nat) : Fld := ⟨0xB0340 + 4 * n, 4, 4, 0⟩
def Reg.PIPE_GZ_XREM_m.REM_2 (n : Nat) : Fld := ⟨0xB0340 + 4 * n, 8, 4, 0⟩
def Reg.PIPE_GZ_XREM_m.REM_3 (n : Nat) : Fld := ⟨0xB0340 + 4 * n, 12, 4, 0⟩
def Reg.PIPE_GZ_XREM_m.REM_4 (n : Nat) : Fld := ⟨0xB0340 + 4 * n, 16, 4, 0⟩
def Reg.PIPE_GZ_XREM_m.REM_5 (n : Nat) : Fld := ⟨0xB0340 + 4 * n, 20, 4, 0⟩
def Reg.PIPE_GZ_XREM_m.REM_6 (n : Nat) : Fld := ⟨0xB0340 + 4 * n, 24, 4, 0⟩
def Reg.PIPE_GZ_XREM_m.REM_7 (n : Nat) : Fld := ⟨0xB0340 + 4 * n, 28, 4, 0⟩
def Reg.CAM_CFG_n.EN (n : Nat) : Fld := ⟨0xA0000 + 64 * n, 0, 1, 0⟩
def Reg.CAM_CFG_n.IMAGE (n : Nat) : Fld := ⟨0xA0000 + 64 * n, 1, 1, 0⟩
def Reg.CAM_CFG_n.IMG_RING (n : Nat) : Fld := ⟨0xA0000 + 64 * n, 2, 5, 0⟩
def Reg.CAM_CFG_n.TRIG_PSO (n : Nat) : Fld := ⟨0xA0000 + 64 * n, 8, 4, 0⟩
def Reg.CAM_CFG_n.CH_MASK (n : Nat) : Fld := ⟨0xA0000 + 64 * n, 16, 8, 0⟩
def Reg.CAM_NPIX_n.NPIX (n : Nat) : Fld := ⟨0xA0004 + 64 * n, 0, 17, 65536⟩
def Reg.CAM_X0_n.X0 (n : Nat) : Fld := ⟨0xA0008 + 64 * n, 0, 32, 0⟩
def Reg.CAM_XP_n.XP (n : Nat) : Fld := ⟨0xA000C + 64 * n, 0, 32, 16777216⟩
def Reg.CAM_DIST_n.DIST (n : Nat) : Fld := ⟨0xA0010 + 64 * n, 0, 32, 0⟩
def Reg.CAM_TRIG_n.TRIG_FC (n : Nat) : Fld := ⟨0xA0014 + 64 * n, 0, 16, 256⟩
def Reg.CAM_TRIG_n.PULSE (n : Nat) : Fld := ⟨0xA0014 + 64 * n, 16, 8, 10⟩
def Reg.CAM_TRIG_n.MARGIN (n : Nat) : Fld := ⟨0xA0014 + 64 * n, 24, 8, 4⟩
def Reg.CAM_CNT_n.CRC_ERR (n : Nat) : Fld := ⟨0xA0018 + 64 * n, 0, 16, 0⟩
def Reg.CAM_CNT_n.MISSING (n : Nat) : Fld := ⟨0xA0018 + 64 * n, 16, 16, 0⟩
def Reg.CAM_CNT2_n.ORPHAN (n : Nat) : Fld := ⟨0xA001C + 64 * n, 0, 16, 0⟩
def Reg.CAM_CNT2_n.BAD_LEN (n : Nat) : Fld := ⟨0xA001C + 64 * n, 16, 16, 0⟩
def Reg.CAM_LINES_n.LINES (n : Nat) : Fld := ⟨0xA0020 + 64 * n, 0, 32, 0⟩
def Reg.CAM_ANALYSIS.BAD_PCT : Fld := ⟨0xA0080, 0, 8, 96⟩
def Reg.CAM_ANALYSIS.WEAK_PCT : Fld := ⟨0xA0080, 8, 8, 192⟩
def Reg.CAM_ANALYSIS.DEV_MAX : Fld := ⟨0xA0080, 16, 8, 8⟩
def Reg.CAM_TMO.TMO : Fld := ⟨0xA0084, 0, 16, 100⟩
/-! Registers of spec/09_head_lanes.md. -/
def Reg.LANE_PORT_CFG_p.EN (n : Nat) : Fld := ⟨0x80000 + 64 * n, 0, 1, 0⟩
def Reg.LANE_PORT_CFG_p.MODE (n : Nat) : Fld := ⟨0x80000 + 64 * n, 1, 1, 0⟩
def Reg.LANE_PORT_CFG_p.MAX_RATE (n : Nat) : Fld := ⟨0x80000 + 64 * n, 2, 2, 2⟩
def Reg.LANE_PORT_CFG_p.MIN_RATE (n : Nat) : Fld := ⟨0x80000 + 64 * n, 4, 2, 0⟩
def Reg.LANE_PORT_CFG_p.SLEEP_EN (n : Nat) : Fld := ⟨0x80000 + 64 * n, 6, 1, 0⟩
def Reg.LANE_PORT_CFG_p.POL_INV (n : Nat) : Fld := ⟨0x80000 + 64 * n, 8, 4, 0⟩
def Reg.LANE_PORT_CFG_p.SLEEP_IDLE (n : Nat) : Fld := ⟨0x80000 + 64 * n, 16, 8, 16⟩
def Reg.LANE_PORT_CFG_p.RETRY_MS (n : Nat) : Fld := ⟨0x80000 + 64 * n, 24, 8, if 18 ≤ n then 0 else 10⟩
def Reg.LANE_PORT_STAT_p.STATE (n : Nat) : Fld := ⟨0x80004 + 64 * n, 0, 4, 0⟩
def Reg.LANE_PORT_STAT_p.RATE (n : Nat) : Fld := ⟨0x80004 + 64 * n, 4, 2, 0⟩
def Reg.LANE_PORT_STAT_p.TX_IDLE (n : Nat) : Fld := ⟨0x80004 + 64 * n, 6, 1, 0⟩
def Reg.LANE_PORT_STAT_p.RX_IDLE (n : Nat) : Fld := ⟨0x80004 + 64 * n, 7, 1, 0⟩
def Reg.LANE_PORT_STAT_p.LOCKED (n : Nat) : Fld := ⟨0x80004 + 64 * n, 8, 4, 0⟩
def Reg.LANE_PORT_STAT_p.FAULT (n : Nat) : Fld := ⟨0x80004 + 64 * n, 16, 4, 0⟩
def Reg.LANE_PORT_STAT_p.FAULT_LANE (n : Nat) : Fld := ⟨0x80004 + 64 * n, 20, 2, 0⟩
def Reg.LANE_FAR_CAP_LO_p.CAP_LO (n : Nat) : Fld := ⟨0x80008 + 64 * n, 0, 32, 0⟩
def Reg.LANE_FAR_CAP_HI_p.CAP_HI (n : Nat) : Fld := ⟨0x8000C + 64 * n, 0, 24, 0⟩
def Reg.LANE_CNT_p.BLOCK_ERR (n : Nat) : Fld := ⟨0x80010 + 64 * n, 0, 16, 0⟩
def Reg.LANE_CNT_p.BAD_TYPE (n : Nat) : Fld := ⟨0x80010 + 64 * n, 16, 16, 0⟩
def Reg.LANE_CNT2_p.RELOCKS (n : Nat) : Fld := ⟨0x80014 + 64 * n, 0, 16, 0⟩
def Reg.LANE_CNT2_p.BRINGUPS (n : Nat) : Fld := ⟨0x80014 + 64 * n, 16, 16, 0⟩
def Reg.LANE_CNT3_p.CODE_VIOL (n : Nat) : Fld := ⟨0x80018 + 64 * n, 0, 16, 0⟩
def Reg.LANE_CNT3_p.ELASTIC (n : Nat) : Fld := ⟨0x80018 + 64 * n, 16, 16, 0⟩
def Reg.LANE_FILL_p.FILL_INS (n : Nat) : Fld := ⟨0x8001C + 64 * n, 0, 16, 0⟩
def Reg.LANE_FILL_p.FILL_DEL (n : Nat) : Fld := ⟨0x8001C + 64 * n, 16, 16, 0⟩
def Reg.LANE_TEST_p.TEST_EN (n : Nat) : Fld := ⟨0x80020 + 64 * n, 0, 1, 0⟩
def Reg.LANE_TEST_p.PATTERN (n : Nat) : Fld := ⟨0x80020 + 64 * n, 1, 2, 0⟩
def Reg.LANE_TEST_p.LOOP (n : Nat) : Fld := ⟨0x80020 + 64 * n, 3, 2, 0⟩
def Reg.LANE_TEST_p.LANES (n : Nat) : Fld := ⟨0x80020 + 64 * n, 8, 4, 0⟩
def Reg.LANE_TEST_p.INJ_SINGLE (n : Nat) : Fld := ⟨0x80020 + 64 * n, 16, 1, 0⟩
def Reg.LANE_TEST_p.INJ_BURST (n : Nat) : Fld := ⟨0x80020 + 64 * n, 17, 1, 0⟩
def Reg.LANE_TEST_p.INJ_HDR (n : Nat) : Fld := ⟨0x80020 + 64 * n, 18, 1, 0⟩
def Reg.LANE_TEST_p.BURST_LEN (n : Nat) : Fld := ⟨0x80020 + 64 * n, 24, 8, 16⟩
def Reg.LANE_TEST_STAT_p.PRBS_LOCK (n : Nat) : Fld := ⟨0x80024 + 64 * n, 0, 4, 0⟩
def Reg.LANE_TEST_STAT_p.PRBS_RESYNC (n : Nat) : Fld := ⟨0x80024 + 64 * n, 16, 16, 0⟩
def Reg.LANE_PRBS_ERR_p_m.ERRORS (n m : Nat) : Fld := ⟨0x80028 + 64 * n + 4 * m, 0, 32, 0⟩
def Reg.LANE_GLB.LREF_OK : Fld := ⟨0x80800, 0, 1, 0⟩
def Reg.LANE_UP_MASK.UP : Fld := ⟨0x80804, 0, 20, 0⟩
/-! Registers of spec/10_line_delivery_and_firing.md. -/
def Reg.LINK_CFG_n.EN (n : Nat) : Fld := ⟨0x90000 + 64 * n, 0, 1, 0⟩
def Reg.LINK_CFG_n.ROWS (n : Nat) : Fld := ⟨0x90000 + 64 * n, 1, 2, 0⟩
def Reg.LINK_CFG_n.DUAL (n : Nat) : Fld := ⟨0x90000 + 64 * n, 3, 1, 0⟩
def Reg.LINK_CFG_n.SIDE (n : Nat) : Fld := ⟨0x90000 + 64 * n, 4, 1, 0⟩
def Reg.LINK_CFG_n.PHASES (n : Nat) : Fld := ⟨0x90000 + 64 * n, 8, 4, 0⟩
def Reg.LINK_CFG_n.DLY (n : Nat) : Fld := ⟨0x90000 + 64 * n, 16, 16, 0⟩
def Reg.LINK_SLOTS01_n.SLOTS_0 (n : Nat) : Fld := ⟨0x90004 + 64 * n, 0, 14, 0⟩
def Reg.LINK_SLOTS01_n.SLOTS_1 (n : Nat) : Fld := ⟨0x90004 + 64 * n, 16, 14, 0⟩
def Reg.LINK_SLOTS23_n.SLOTS_2 (n : Nat) : Fld := ⟨0x90008 + 64 * n, 0, 14, 0⟩
def Reg.LINK_SLOTS23_n.SLOTS_3 (n : Nat) : Fld := ⟨0x90008 + 64 * n, 16, 14, 0⟩
def Reg.LINK_TEMP_n.LIMIT (n : Nat) : Fld := ⟨0x9000C + 64 * n, 0, 16, 240⟩
def Reg.LINK_TEMP_n.HARD (n : Nat) : Fld := ⟨0x9000C + 64 * n, 16, 16, 280⟩
def Reg.LINK_STAT_n.STATE (n : Nat) : Fld := ⟨0x90010 + 64 * n, 0, 3, 0⟩
def Reg.LINK_STAT_n.HOT (n : Nat) : Fld := ⟨0x90010 + 64 * n, 3, 1, 0⟩
def Reg.LINK_STAT_n.SILENT (n : Nat) : Fld := ⟨0x90010 + 64 * n, 4, 1, 0⟩
def Reg.LINK_STAT_n.HOT_ROWS (n : Nat) : Fld := ⟨0x90010 + 64 * n, 8, 4, 0⟩
def Reg.LINK_STAT_n.EPOCH (n : Nat) : Fld := ⟨0x90010 + 64 * n, 16, 4, 0⟩
def Reg.LINK_HORIZON_n.H (n : Nat) : Fld := ⟨0x90014 + 64 * n, 0, 17, 0⟩
def Reg.LINK_HEAD_n.TEMP_MAX (n : Nat) : Fld := ⟨0x90018 + 64 * n, 0, 16, 0⟩
def Reg.LINK_HEAD_n.SUPPLY (n : Nat) : Fld := ⟨0x90018 + 64 * n, 16, 16, 0⟩
def Reg.LINK_CNT_n.NAKS (n : Nat) : Fld := ⟨0x9001C + 64 * n, 0, 16, 0⟩
def Reg.LINK_CNT_n.RESENDS (n : Nat) : Fld := ⟨0x9001C + 64 * n, 16, 16, 0⟩
def Reg.LINK_CNT2_n.LATE (n : Nat) : Fld := ⟨0x90020 + 64 * n, 0, 16, 0⟩
def Reg.LINK_CNT2_n.UNVERIFIED (n : Nat) : Fld := ⟨0x90020 + 64 * n, 16, 16, 0⟩
def Reg.LINK_CNT3_n.HELD (n : Nat) : Fld := ⟨0x90024 + 64 * n, 0, 16, 0⟩
def Reg.LINK_CNT3_n.BLANKED (n : Nat) : Fld := ⟨0x90024 + 64 * n, 16, 16, 0⟩
def Reg.LINK_LEAD_MIN_n.LEAD_MIN (n : Nat) : Fld := ⟨0x90028 + 64 * n, 0, 16, 65535⟩
def Reg.LINK_CAP_n.CAP (n : Nat) : Fld := ⟨0x9002C + 64 * n, 0, 32, 4294967295⟩
def Reg.LINK_LEAD.TARGET : Fld := ⟨0x90800, 0, 8, 24⟩
def Reg.LINK_HOLD.HOLD_MAX : Fld := ⟨0x90804, 0, 3, 3⟩
def Reg.LINK_HOLD.RESEND_MAX : Fld := ⟨0x90804, 4, 3, 2⟩
def Reg.LINK_HOLD.ACK_TMO : Fld := ⟨0x90804, 8, 5, 4⟩
def Reg.LINK_HOLD.STATUS_TMO : Fld := ⟨0x90804, 16, 8, 5⟩
def Reg.LINK_FIFO.DEPTH : Fld := ⟨0x90808, 0, 17, 4096⟩
def Reg.LINK_LS.MIB : Fld := ⟨0x9080C, 0, 14, 1024⟩
def Reg.LINK_TIME.TIME_INT : Fld := ⟨0x90810, 0, 14, 1000⟩
def Reg.LINK_HORIZON.H : Fld := ⟨0x90814, 0, 17, 0⟩
/-! Registers of spec/11_linen_web_motion.md. -/
def Reg.LINEN_CFG.PERIOD : Fld := ⟨0x50000, 0, 2, 2⟩
def Reg.LINEN_CFG.EN : Fld := ⟨0x50000, 8, 1, 0⟩
def Reg.LINEN_CFG.LOSS_MAX : Fld := ⟨0x50000, 12, 4, 4⟩
def Reg.LINEN_CFG.SP_LEAD : Fld := ⟨0x50000, 16, 9, 100⟩
def Reg.LINEN_ETYPE.ETYPE : Fld := ⟨0x50004, 0, 16, 34998⟩
def Reg.LINEN_DST_LO.DST_LO : Fld := ⟨0x50008, 0, 32, 3⟩
def Reg.LINEN_DST_HI.DST_HI : Fld := ⟨0x5000C, 0, 16, 25090⟩
def Reg.LINEN_VMAX.VMAX : Fld := ⟨0x50010, 0, 18, 160000⟩
def Reg.LINEN_GOV.H_MIN : Fld := ⟨0x50014, 0, 16, 256⟩
def Reg.LINEN_GOV_DEC.A_G : Fld := ⟨0x50018, 0, 22, 100000⟩
def Reg.LINEN_GOV_JERK.J_G : Fld := ⟨0x5001C, 0, 32, 0⟩
def Reg.LINEN_STAT.PHASE : Fld := ⟨0x50020, 0, 3, 0⟩
def Reg.LINEN_STAT.GOVERNED : Fld := ⟨0x50020, 3, 1, 0⟩
def Reg.LINEN_STAT.DECEL_HELD : Fld := ⟨0x50020, 4, 1, 0⟩
def Reg.LINEN_STAT.CAP_SRC : Fld := ⟨0x50020, 8, 3, 0⟩
def Reg.LINEN_V.V : Fld := ⟨0x50024, 0, 32, 0⟩
def Reg.LINEN_CAP.CAP : Fld := ⟨0x50028, 0, 32, 4294967295⟩
def Reg.LINEN_EQ.EQ : Fld := ⟨0x5002C, 0, 32, 0⟩
def Reg.LINEN_X_LO.X_LO : Fld := ⟨0x50030, 0, 32, 0⟩
def Reg.LINEN_X_HI.X_HI : Fld := ⟨0x50034, 0, 16, 0⟩
def Reg.LINEN_CNT.TX_FAIL : Fld := ⟨0x50038, 0, 16, 0⟩
def Reg.LINEN_CNT.RES_FAULT : Fld := ⟨0x50038, 16, 16, 0⟩
def Reg.LINEN_AX_CFG_n.EN (n : Nat) : Fld := ⟨0x50100 + 32 * n, 0, 1, 0⟩
def Reg.LINEN_AX_CFG_n.ANS (n : Nat) : Fld := ⟨0x50100 + 32 * n, 1, 1, 0⟩
def Reg.LINEN_AX_CFG_n.ANS_TMO (n : Nat) : Fld := ⟨0x50100 + 32 * n, 8, 8, 4⟩
def Reg.LINEN_AX_GN_n.GN (n : Nat) : Fld := ⟨0x50104 + 32 * n, 0, 32, 65536⟩
def Reg.LINEN_AX_GD_n.GD (n : Nat) : Fld := ⟨0x50108 + 32 * n, 0, 32, 1⟩
def Reg.LINEN_AX_POS_LO_n.POS_LO (n : Nat) : Fld := ⟨0x5010C + 32 * n, 0, 32, 0⟩
def Reg.LINEN_AX_POS_HI_n.POS_HI (n : Nat) : Fld := ⟨0x50110 + 32 * n, 0, 32, 0⟩
def Reg.LINEN_AX_STAT_n.CAM (n : Nat) : Fld := ⟨0x50114 + 32 * n, 0, 1, 0⟩
def Reg.LINEN_AX_STAT_n.FAULT (n : Nat) : Fld := ⟨0x50114 + 32 * n, 1, 1, 0⟩
def Reg.LINEN_AX_STAT_n.SILENT (n : Nat) : Fld := ⟨0x50114 + 32 * n, 2, 1, 0⟩
def Reg.LINEN_AX_STAT_n.TABLE (n : Nat) : Fld := ⟨0x50114 + 32 * n, 4, 4, 0⟩
def Reg.LINEN_AX_STAT_n.DSTAT (n : Nat) : Fld := ⟨0x50114 + 32 * n, 8, 8, 0⟩
def Reg.LINEN_AX_FERR_n.FERR (n : Nat) : Fld := ⟨0x50118 + 32 * n, 0, 32, 0⟩
/-! Registers of spec/12_network_time.md. -/
def Reg.TIME_NOW_LO.NOW : Fld := ⟨0x40000, 0, 32, 0⟩
def Reg.TIME_NOW_HI.NOW : Fld := ⟨0x40004, 0, 32, 0⟩
def Reg.TIME_TB_LO.TB : Fld := ⟨0x40008, 0, 32, 0⟩
def Reg.TIME_TB_HI.TB : Fld := ⟨0x4000C, 0, 32, 0⟩
def Reg.TIME_OFS_LO.OFS : Fld := ⟨0x40010, 0, 32, 0⟩
def Reg.TIME_OFS_HI.OFS : Fld := ⟨0x40014, 0, 32, 0⟩
def Reg.TIME_RATE.RATE : Fld := ⟨0x40018, 0, 32, 0⟩
def Reg.TIME_ANCHOR_LO.ANCHOR : Fld := ⟨0x40020, 0, 32, 0⟩
def Reg.TIME_ANCHOR_HI.ANCHOR : Fld := ⟨0x40024, 0, 32, 0⟩
def Reg.TIME_CFG.SRC : Fld := ⟨0x40030, 0, 2, 0⟩
def Reg.TIME_CFG.AUTO_SWITCH : Fld := ⟨0x40030, 2, 1, 0⟩
def Reg.TIME_CFG.DRV_ROLE : Fld := ⟨0x40030, 3, 2, 1⟩
def Reg.TIME_CFG.DRV_DOMAIN : Fld := ⟨0x40030, 8, 7, 0⟩
def Reg.TIME_CFG.LOG_SYNC : Fld := ⟨0x40030, 16, 4, 12⟩
def Reg.TIME_GM.PRIO1 : Fld := ⟨0x40034, 0, 8, 128⟩
def Reg.TIME_GM.PRIO2 : Fld := ⟨0x40034, 8, 8, 128⟩
def Reg.TIME_GM.CLASS : Fld := ⟨0x40034, 16, 8, 248⟩
def Reg.TIME_GM.ONE_STEP : Fld := ⟨0x40034, 24, 1, 1⟩
def Reg.TIME_GM.P2P : Fld := ⟨0x40034, 25, 1, 0⟩
def Reg.TIME_SERVO.SLEW_PPM : Fld := ⟨0x40038, 0, 9, 100⟩
def Reg.TIME_SERVO.TAU : Fld := ⟨0x40038, 16, 8, 20⟩
def Reg.TIME_SERVO.STEP_LIM : Fld := ⟨0x40038, 24, 8, 1⟩
def Reg.TIME_STAT.SRC_NOW : Fld := ⟨0x4003C, 0, 2, 0⟩
def Reg.TIME_STAT.SLEWING : Fld := ⟨0x4003C, 2, 1, 0⟩
def Reg.TIME_STAT.HOLDOVER : Fld := ⟨0x4003C, 3, 1, 0⟩
def Reg.TIME_TRK_CFG_t.EN (n : Nat) : Fld := ⟨0x40040 + 16 * n, 0, 1, 0⟩
def Reg.TIME_TRK_CFG_t.PORT (n : Nat) : Fld := ⟨0x40040 + 16 * n, 1, 1, 1⟩
def Reg.TIME_TRK_CFG_t.P2P (n : Nat) : Fld := ⟨0x40040 + 16 * n, 2, 1, 0⟩
def Reg.TIME_TRK_CFG_t.DOMAIN (n : Nat) : Fld := ⟨0x40040 + 16 * n, 8, 7, 0⟩
def Reg.TIME_TRK_CFG_t.SYNC_TMO (n : Nat) : Fld := ⟨0x40040 + 16 * n, 16, 7, 10⟩
def Reg.TIME_TRK_STAT_t.STATE (n : Nat) : Fld := ⟨0x40044 + 16 * n, 0, 2, 0⟩
def Reg.TIME_TRK_ERR_t.E (n : Nat) : Fld := ⟨0x40048 + 16 * n, 0, 32, 0⟩
def Reg.TIME_TRK_GM_t.GM (n : Nat) : Fld := ⟨0x4004C + 16 * n, 0, 32, 0⟩
def Reg.TIME_PORT_MAC_LO_p.MAC_LO (n : Nat) : Fld := ⟨0x40080 + 16 * n, 0, 32, 0⟩
def Reg.TIME_PORT_MAC_HI_p.MAC_HI (n : Nat) : Fld := ⟨0x40084 + 16 * n, 0, 16, 0⟩
def Reg.TIME_PORT_LAT_p.TX (n : Nat) : Fld := ⟨0x40088 + 16 * n, 0, 16, 0⟩
def Reg.TIME_PORT_LAT_p.RX (n : Nat) : Fld := ⟨0x40088 + 16 * n, 16, 16, 0⟩
def Reg.TIME_PORT_CNT_p.DISCARD (n : Nat) : Fld := ⟨0x4008C + 16 * n, 0, 16, 0⟩
def Reg.TIME_PORT_CNT_p.LINK (n : Nat) : Fld := ⟨0x4008C + 16 * n, 31, 1, 0⟩
/-! Registers of spec/13_ring_cascade_duplex.md. -/
def Reg.RING_CFG.EN : Fld := ⟨0x70000, 0, 1, 0⟩
def Reg.RING_CFG.PARTNER : Fld := ⟨0x70000, 1, 1, 0⟩
def Reg.RING_CFG.STBY_TEST : Fld := ⟨0x70000, 2, 1, 1⟩
def Reg.RING_CFG.NODES : Fld := ⟨0x70000, 8, 5, 1⟩
def Reg.RING_CFG.RING_ID : Fld := ⟨0x70000, 16, 16, 0⟩
def Reg.RING_NODE.MEMBER : Fld := ⟨0x70004, 0, 3, 0⟩
def Reg.RING_NODE.UNIT : Fld := ⟨0x70004, 3, 1, 0⟩
def Reg.RING_NODE.NODE : Fld := ⟨0x70004, 4, 4, 0⟩
def Reg.RING_STAT.DETECT : Fld := ⟨0x70008, 0, 1, 0⟩
def Reg.RING_STAT.BROKEN : Fld := ⟨0x70008, 1, 1, 0⟩
def Reg.RING_STAT.LEASE_VALID : Fld := ⟨0x70008, 2, 1, 0⟩
def Reg.RING_STAT.ARBITRATING : Fld := ⟨0x70008, 3, 1, 0⟩
def Reg.RING_STAT.PW_SRC : Fld := ⟨0x70008, 4, 4, 0⟩
def Reg.RING_STAT.EPOCH : Fld := ⟨0x70008, 8, 4, 0⟩
def Reg.RING_STAT.SYNC_STAGE : Fld := ⟨0x70008, 12, 3, 0⟩
def Reg.RING_ROSTER.PRESENT : Fld := ⟨0x7000C, 0, 16, 0⟩
def Reg.RING_ROSTER.ACTIVE : Fld := ⟨0x7000C, 16, 16, 0⟩
def Reg.RING_HOP_E.DLY : Fld := ⟨0x70010, 0, 16, 0⟩
def Reg.RING_HOP_W.DLY : Fld := ⟨0x70014, 0, 16, 0⟩
def Reg.RING_LEASE.REM : Fld := ⟨0x70018, 0, 14, 0⟩
def Reg.RING_LEASE.LINK_RX : Fld := ⟨0x70018, 14, 1, 0⟩
def Reg.RING_LEASE.RING_RX : Fld := ⟨0x70018, 15, 1, 0⟩
def Reg.RING_CNT.CRC_ERR : Fld := ⟨0x7001C, 0, 16, 0⟩
def Reg.RING_CNT.TAKEOVERS : Fld := ⟨0x7001C, 16, 16, 0⟩
def Reg.RING_CNT2.MISMATCH : Fld := ⟨0x70020, 0, 16, 0⟩
def Reg.RING_CNT2.UNCOMPARED : Fld := ⟨0x70020, 16, 16, 0⟩
def Reg.RING_CNT3.ARBITRATIONS : Fld := ⟨0x70024, 0, 16, 0⟩
def Reg.RING_CNT3.TEST_FAILS : Fld := ⟨0x70024, 16, 16, 0⟩
def Reg.RING_HEALTH.PASS : Fld := ⟨0x70028, 0, 1, 0⟩
def Reg.RING_HEALTH.RESIDUE : Fld := ⟨0x70028, 1, 1, 0⟩
def Reg.RING_HEALTH.KAT : Fld := ⟨0x70028, 2, 1, 0⟩
def Reg.RING_HEALTH.LINKS : Fld := ⟨0x70028, 3, 1, 0⟩
def Reg.RING_HEALTH.LEASE : Fld := ⟨0x70028, 4, 1, 0⟩
def Reg.RING_HEALTH.TESTS : Fld := ⟨0x70028, 16, 16, 0⟩
/-! Registers of spec/14_onchip_memory_codes.md. -/
def Reg.MEM_SCRUB_CFG.SRAM_S : Fld := ⟨0xC0000, 0, 12, 10⟩
def Reg.MEM_SCRUB_CFG.DRAM_H : Fld := ⟨0xC0000, 16, 8, 24⟩
def Reg.MEM_SCRUB_STAT.SRAM_PASSES : Fld := ⟨0xC0004, 0, 16, 0⟩
def Reg.MEM_SCRUB_STAT.DRAM_PASSES : Fld := ⟨0xC0004, 16, 16, 0⟩
def Reg.MEM_CE_CNT.SRAM : Fld := ⟨0xC0008, 0, 16, 0⟩
def Reg.MEM_CE_CNT.DRAM : Fld := ⟨0xC0008, 16, 16, 0⟩
def Reg.MEM_UE_CNT.NEW : Fld := ⟨0xC000C, 0, 16, 0⟩
def Reg.MEM_UE_CNT.STORED : Fld := ⟨0xC000C, 16, 16, 0⟩
def Reg.MEM_LAST_LO.LOC_LO : Fld := ⟨0xC0010, 0, 32, 0⟩
def Reg.MEM_LAST_HI.LOC_HI : Fld := ⟨0xC0014, 0, 16, 0⟩
def Reg.MEM_PARITY.DATA : Fld := ⟨0xC0018, 0, 16, 0⟩
def Reg.MEM_PARITY.REG : Fld := ⟨0xC0018, 16, 16, 0⟩
def Reg.MEM_REPAIR.EFUSE : Fld := ⟨0xC001C, 0, 10, 0⟩
def Reg.MEM_REPAIR.FIELD : Fld := ⟨0xC001C, 10, 10, 0⟩
def Reg.MEM_REPAIR.PENDING : Fld := ⟨0xC001C, 20, 10, 0⟩
def Reg.MEM_REPAIR.EXHAUSTED : Fld := ⟨0xC001C, 30, 1, 0⟩
def Reg.MEM_REPAIR2.SKIPPED : Fld := ⟨0xC0020, 0, 10, 0⟩
def Reg.MEM_FILL.SRAM_DONE : Fld := ⟨0xC0024, 0, 1, 0⟩
def Reg.MEM_FILL.DRAM_DONE : Fld := ⟨0xC0024, 1, 1, 0⟩
def Reg.MEM_FILL.DRAM_MS : Fld := ⟨0xC0024, 16, 16, 0⟩
/-! Registers of spec/15_dram_controller.md. -/
def Reg.MEM_DRAM_CFG.SPEED : Fld := ⟨0xC0100, 0, 1, 0⟩
def Reg.MEM_DRAM_CFG.IDLE_US : Fld := ⟨0xC0100, 16, 16, 100⟩
def Reg.MEM_DRAM_STAT.SPEED_NOW : Fld := ⟨0xC0104, 0, 1, 0⟩
def Reg.MEM_DRAM_STAT.TRAINING : Fld := ⟨0xC0104, 1, 1, 0⟩
def Reg.MEM_DRAM_STAT.SELF_REF : Fld := ⟨0xC0104, 2, 1, 0⟩
def Reg.MEM_DRAM_STAT.HOT : Fld := ⟨0xC0104, 3, 1, 0⟩
def Reg.MEM_DRAM_STAT.PANIC : Fld := ⟨0xC0104, 4, 1, 0⟩
def Reg.MEM_DRAM_STAT.DEFERRED : Fld := ⟨0xC0104, 5, 1, 0⟩
def Reg.MEM_DRAM_STAT.TEMP : Fld := ⟨0xC0104, 16, 16, 0⟩
def Reg.MEM_DRAM_WQ.LEVEL : Fld := ⟨0xC0108, 0, 7, 0⟩
def Reg.MEM_DRAM_WQ.PEAK : Fld := ⟨0xC0108, 8, 7, 0⟩
def Reg.MEM_DRAM_WQ.FULL : Fld := ⟨0xC0108, 16, 16, 0⟩
def Reg.MEM_DRAM_REF.OWED_MAX : Fld := ⟨0xC010C, 0, 4, 0⟩
def Reg.MEM_DRAM_REF.LIMIT : Fld := ⟨0xC010C, 4, 4, 8⟩
def Reg.MEM_DRAM_REF.DRAINS : Fld := ⟨0xC010C, 16, 16, 0⟩
def Reg.MEM_DRAM_EYE.RD_MIN : Fld := ⟨0xC0110, 0, 7, 0⟩
def Reg.MEM_DRAM_EYE.WR_MIN : Fld := ⟨0xC0110, 8, 7, 0⟩
def Reg.MEM_DRAM_EYE.LANE : Fld := ⟨0xC0110, 16, 7, 0⟩
def Reg.MEM_DRAM_ROWACT.EVENTS : Fld := ⟨0xC0114, 0, 16, 0⟩
def Reg.MEM_DRAM_ROWACT.THROTTLED : Fld := ⟨0xC0114, 16, 12, 0⟩
def Reg.MEM_DRAM_PCNT_n.THROTTLES (n : Nat) : Fld := ⟨0xC0140 + 4 * n, 0, 16, 0⟩
def Reg.MEM_DRAM_PCNT_n.PANIC (n : Nat) : Fld := ⟨0xC0140 + 4 * n, 16, 16, 0⟩
/-! Registers of spec/16_label_integrity.md. -/
def Reg.CHK_CFG.REPORT_PASS : Fld := ⟨0xD0000, 0, 1, 1⟩
def Reg.CHK_CFG.MARK_EN : Fld := ⟨0xD0000, 1, 1, 0⟩
def Reg.CHK_CFG.MARK_SUSPECT : Fld := ⟨0xD0000, 2, 1, 0⟩
def Reg.CHK_CFG.MARK_POL : Fld := ⟨0xD0000, 3, 1, 0⟩
def Reg.CHK_CFG.MARK_MODE : Fld := ⟨0xD0000, 4, 1, 0⟩
def Reg.CHK_CFG.MARK_PSO : Fld := ⟨0xD0000, 8, 4, 0⟩
def Reg.CHK_CFG.PULSE_US : Fld := ⟨0xD0000, 16, 16, 1000⟩
def Reg.CHK_GATE_LO.GATE_LO : Fld := ⟨0xD0004, 0, 32, 0⟩
def Reg.CHK_GATE_HI.GATE_HI : Fld := ⟨0xD0008, 0, 16, 0⟩
def Reg.CHK_PASS.PASS : Fld := ⟨0xD000C, 0, 32, 0⟩
def Reg.CHK_CNT.SUSPECT : Fld := ⟨0xD0010, 0, 16, 0⟩
def Reg.CHK_CNT.REJECT : Fld := ⟨0xD0010, 16, 16, 0⟩
def Reg.CHK_CNT2.AMENDED : Fld := ⟨0xD0014, 0, 16, 0⟩
def Reg.CHK_CNT2.MISSED : Fld := ⟨0xD0014, 16, 8, 0⟩
def Reg.CHK_CNT2.FAILSAFE : Fld := ⟨0xD0014, 24, 8, 0⟩
def Reg.CHK_LAST.FRAME : Fld := ⟨0xD0018, 0, 16, 0⟩
def Reg.CHK_LAST.TAG : Fld := ⟨0xD0018, 16, 8, 0⟩
def Reg.CHK_LAST.VERDICT : Fld := ⟨0xD0018, 24, 2, 0⟩
def Reg.CHK_LINECHK.REPAIRED : Fld := ⟨0xD001C, 0, 16, 0⟩
def Reg.CHK_LINECHK.CORRUPT : Fld := ⟨0xD001C, 16, 16, 0⟩
def Reg.CHK_LINECHK2.FAIL : Fld := ⟨0xD0020, 0, 16, 0⟩
def Reg.CHK_CRC_STAT_u.BUSY (n : Nat) : Fld := ⟨0xD0100 + 32 * n, 0, 1, 0⟩
def Reg.CHK_CRC_STAT_u.MISMATCH (n : Nat) : Fld := ⟨0xD0100 + 32 * n, 1, 1, 0⟩
def Reg.CHK_CRC_STAT_u.DONE (n : Nat) : Fld := ⟨0xD0100 + 32 * n, 2, 1, 0⟩
def Reg.CHK_CRC_STAT_u.POLY (n : Nat) : Fld := ⟨0xD0100 + 32 * n, 3, 2, 0⟩
def Reg.CHK_CRC_STAT_u.RUNS (n : Nat) : Fld := ⟨0xD0100 + 32 * n, 16, 16, 0⟩
def Reg.CHK_CRC_RUN_LO_u.RUNNING (n : Nat) : Fld := ⟨0xD0104 + 32 * n, 0, 32, 0⟩
def Reg.CHK_CRC_RUN_HI_u.RUNNING (n : Nat) : Fld := ⟨0xD0108 + 32 * n, 0, 32, 0⟩
def Reg.CHK_CRC_RES_LO_u.RESULT (n : Nat) : Fld := ⟨0xD010C + 32 * n, 0, 32, 0⟩
def Reg.CHK_CRC_RES_HI_u.RESULT (n : Nat) : Fld := ⟨0xD0110 + 32 * n, 0, 32, 0⟩
def Reg.CHK_CRC_EXP_LO_u.EXPECT (n : Nat) : Fld := ⟨0xD0114 + 32 * n, 0, 32, 0⟩
def Reg.CHK_CRC_EXP_HI_u.EXPECT (n : Nat) : Fld := ⟨0xD0118 + 32 * n, 0, 32, 0⟩
def Reg.CHK_CRC_ERR_u.MISMATCHES (n : Nat) : Fld := ⟨0xD011C + 32 * n, 0, 16, 0⟩
/-! Registers of spec/17_clocks_resets_crossings.md. -/
def Reg.SENSE_CLK_STAT.CREF_OK : Fld := ⟨0x60800, 0, 1, 0⟩
def Reg.SENSE_CLK_STAT.TREF_OK : Fld := ⟨0x60800, 1, 1, 0⟩
def Reg.SENSE_CLK_STAT.LOCK_CORE : Fld := ⟨0x60800, 2, 1, 0⟩
def Reg.SENSE_CLK_STAT.LOCK_TB : Fld := ⟨0x60800, 3, 1, 0⟩
def Reg.SENSE_CLK_STAT.LOCK_SVC : Fld := ⟨0x60800, 4, 1, 0⟩
def Reg.SENSE_CLK_STAT.LOCK_DRAM : Fld := ⟨0x60800, 5, 1, 0⟩
def Reg.SENSE_CLK_STAT.LOCK_PCIE : Fld := ⟨0x60800, 6, 1, 0⟩
def Reg.SENSE_CLK_STAT.LOCK_LANE : Fld := ⟨0x60800, 7, 1, 0⟩
def Reg.SENSE_CLK_STAT.LOCK_AUX : Fld := ⟨0x60800, 8, 1, 0⟩
def Reg.SENSE_CAL_CFG.CAL_DT : Fld := ⟨0x60804, 0, 5, 8⟩
def Reg.SENSE_CAL_STAT.PASS : Fld := ⟨0x60808, 0, 1, 0⟩
def Reg.SENSE_CAL_STAT.RUNNING : Fld := ⟨0x60808, 1, 1, 0⟩
def Reg.SENSE_CAL_STAT.CAUSE : Fld := ⟨0x60808, 4, 4, 0⟩
def Reg.SENSE_CAL_STAT.LINE : Fld := ⟨0x60808, 8, 8, 0⟩
def Reg.SENSE_CAL_STAT.RUNS : Fld := ⟨0x60808, 16, 16, 0⟩
def Reg.SENSE_CAL_TEMP.TEMP : Fld := ⟨0x6080C, 0, 16, 0⟩
def Reg.SENSE_CAL_TEMP.FAILS : Fld := ⟨0x6080C, 16, 16, 0⟩
def Reg.SENSE_XING_n.COUNT (n : Nat) : Fld := ⟨0x60900 + 4 * n, 0, 16, 0⟩
def Reg.SENSE_XING_n.GEN (n : Nat) : Fld := ⟨0x60900 + 4 * n, 16, 8, 0⟩
/-! Registers of spec/18_thermal_and_mains.md. -/
def Reg.SENSE_THERM_CFG.THR : Fld := ⟨0x60000, 0, 8, 100⟩
def Reg.SENSE_THERM_CFG.STACK_THR : Fld := ⟨0x60000, 8, 8, 95⟩
def Reg.SENSE_THERM_CFG.PAUSE_STEP : Fld := ⟨0x60000, 16, 8, 25⟩
def Reg.SENSE_THERM_STAT.LEVEL : Fld := ⟨0x60004, 0, 4, 0⟩
def Reg.SENSE_THERM_STAT.FAST : Fld := ⟨0x60004, 4, 1, 0⟩
def Reg.SENSE_THERM_STAT.BIND : Fld := ⟨0x60004, 5, 1, 0⟩
def Reg.SENSE_THERM_STAT.SENSOR : Fld := ⟨0x60004, 8, 8, 0⟩
def Reg.SENSE_THERM_STAT.PAUSES : Fld := ⟨0x60004, 16, 16, 0⟩
def Reg.SENSE_TEMP_n.TEMP (n : Nat) : Fld := ⟨0x60010 + 4 * n, 0, 16, 0⟩
def Reg.SENSE_TEMP_n.BROKEN (n : Nat) : Fld := ⟨0x60010 + 4 * n, 16, 1, 0⟩
def Reg.SENSE_TEMP_n.STUCK (n : Nat) : Fld := ⟨0x60010 + 4 * n, 17, 1, 0⟩
def Reg.SENSE_TMAX.DIE_MAX : Fld := ⟨0x60060, 0, 16, 0⟩
def Reg.SENSE_TMAX.STACK_MAX : Fld := ⟨0x60060, 16, 16, 0⟩
def Reg.SENSE_SHUT.PEND : Fld := ⟨0x60070, 0, 1, 0⟩
def Reg.SENSE_SHUT.UNACK : Fld := ⟨0x60070, 1, 1, 0⟩
def Reg.SENSE_SHUT.WRITE_FAIL : Fld := ⟨0x60070, 2, 1, 0⟩
def Reg.SENSE_SHUT.REFUSED : Fld := ⟨0x60070, 8, 8, 0⟩
def Reg.SENSE_SHUT.SEQ : Fld := ⟨0x60070, 16, 16, 0⟩
def Reg.SENSE_SHUT_ACK.KEY : Fld := ⟨0x60074, 0, 16, 0⟩
def Reg.SENSE_SHUT_ACK.GO : Fld := ⟨0x60074, 16, 1, 0⟩
def Reg.SENSE_SHUT_INFO.CAUSE : Fld := ⟨0x60078, 0, 8, 0⟩
def Reg.SENSE_SHUT_INFO.SENSOR : Fld := ⟨0x60078, 8, 8, 0⟩
def Reg.SENSE_SHUT_INFO.TEMP : Fld := ⟨0x60078, 16, 16, 0⟩
def Reg.SENSE_MOD_CFG.EN : Fld := ⟨0x60080, 0, 4, 0⟩
def Reg.SENSE_MOD_CFG.DEC : Fld := ⟨0x60080, 4, 2, 2⟩
def Reg.SENSE_MOD_CFG.FREQ : Fld := ⟨0x60080, 8, 8, 50⟩
def Reg.SENSE_MOD_CFG.SAG_PCT : Fld := ⟨0x60080, 16, 7, 85⟩
def Reg.SENSE_MOD_CFG.HYST : Fld := ⟨0x60080, 24, 4, 2⟩
def Reg.SENSE_MOD_NOM_n.NOM (n : Nat) : Fld := ⟨0x60084 + 4 * n, 0, 24, 0⟩
def Reg.SENSE_MOD_DC.DC_LOW_PCT : Fld := ⟨0x60094, 0, 8, 85⟩
def Reg.SENSE_MOD_DC.DC_TGT_PCT : Fld := ⟨0x60094, 8, 8, 92⟩
def Reg.SENSE_MOD_VAL_n.VAL (n : Nat) : Fld := ⟨0x600A0 + 4 * n, 0, 24, 0⟩
def Reg.SENSE_MOD_VAL_n.LOW (n : Nat) : Fld := ⟨0x600A0 + 4 * n, 24, 1, 0⟩
def Reg.SENSE_MOD_VAL_n.FAULT (n : Nat) : Fld := ⟨0x600A0 + 4 * n, 25, 1, 0⟩
def Reg.SENSE_MAINS_CYC.CYC : Fld := ⟨0x600B0, 0, 32, 0⟩
def Reg.SENSE_MAINS_STAT.SAG : Fld := ⟨0x600B4, 0, 3, 0⟩
def Reg.SENSE_MAINS_STAT.DC_LOW : Fld := ⟨0x600B4, 3, 1, 0⟩
def Reg.SENSE_MAINS_STAT.ACTION : Fld := ⟨0x600B4, 4, 2, 0⟩
def Reg.SENSE_MAINS_STAT.ESCALATED : Fld := ⟨0x600B4, 6, 1, 0⟩
def Reg.SENSE_MAINS_STAT.HALF : Fld := ⟨0x600B4, 16, 16, 0⟩
def Reg.SENSE_MAINS_CNT.SAGS : Fld := ⟨0x600B8, 0, 16, 0⟩
def Reg.SENSE_MAINS_CNT.RIDES : Fld := ⟨0x600B8, 16, 16, 0⟩
/-! Registers of spec/19_power_up_and_service.md. -/
def Reg.SVC_BOOT.SLOT : Fld := ⟨0xF0000, 0, 1, 0⟩
def Reg.SVC_BOOT.FALLBACK : Fld := ⟨0xF0000, 1, 1, 0⟩
def Reg.SVC_BOOT.ROLLBACK : Fld := ⟨0xF0000, 2, 6, 0⟩
def Reg.SVC_BOOT.FLOOR : Fld := ⟨0xF0000, 8, 6, 0⟩
def Reg.SVC_BOOT.REVOKED : Fld := ⟨0xF0000, 16, 4, 0⟩
def Reg.SVC_FW_VER.VERSION : Fld := ⟨0xF0004, 0, 32, 0⟩
def Reg.SVC_ST.STAGE : Fld := ⟨0xF0008, 0, 4, 0⟩
def Reg.SVC_ST.FAILED : Fld := ⟨0xF0008, 4, 4, 0⟩
def Reg.SVC_ST.TIME_MS : Fld := ⟨0xF0008, 16, 16, 0⟩
def Reg.SVC_ST_LOC_LO.LOC_LO : Fld := ⟨0xF000C, 0, 32, 0⟩
def Reg.SVC_ST_LOC_HI.LOC_HI : Fld := ⟨0xF0010, 0, 16, 0⟩
def Reg.SVC_MON.UNLOCKED_U : Fld := ⟨0xF0014, 0, 1, 0⟩
def Reg.SVC_MON.UNLOCKED_M : Fld := ⟨0xF0014, 1, 1, 0⟩
def Reg.SVC_MON.KEY_SET : Fld := ⟨0xF0014, 2, 1, 0⟩
def Reg.SVC_MON.LOCKOUT : Fld := ⟨0xF0014, 3, 1, 0⟩
def Reg.SVC_MON.BAUD : Fld := ⟨0xF0014, 8, 8, 0⟩
def Reg.SVC_MON.FAILS : Fld := ⟨0xF0014, 16, 16, 0⟩
def Reg.SVC_MBOX_TX.CHAR : Fld := ⟨0xF0020, 0, 8, 0⟩
def Reg.SVC_MBOX_TX.GO : Fld := ⟨0xF0020, 8, 1, 0⟩
def Reg.SVC_MBOX_RX.CHAR : Fld := ⟨0xF0024, 0, 8, 0⟩
def Reg.SVC_MBOX_RX.VALID : Fld := ⟨0xF0024, 8, 1, 0⟩
/-! Registers of spec/20_recorder_and_replay.md. -/
def Reg.REC_CURSOR.OFFSET : Fld := ⟨0xE0000, 3, 17, 0⟩
def Reg.REC_CURSOR.SPACE : Fld := ⟨0xE0000, 24, 1, 0⟩
def Reg.REC_STAT.FIRST_HELD : Fld := ⟨0xE0004, 0, 1, 0⟩
def Reg.REC_STAT.HIST_HELD : Fld := ⟨0xE0004, 1, 1, 0⟩
def Reg.REC_STAT.FIRST_FULL : Fld := ⟨0xE0004, 2, 1, 0⟩
def Reg.REC_STAT.WRAPS : Fld := ⟨0xE0004, 16, 16, 0⟩
def Reg.REC_FIRST_HEAD.HEAD : Fld := ⟨0xE0008, 0, 19, 0⟩
def Reg.REC_LAST_HEAD.HEAD : Fld := ⟨0xE000C, 0, 20, 262144⟩
def Reg.REC_SEQ.SEQ : Fld := ⟨0xE0010, 0, 16, 0⟩
def Reg.REC_CFG.MIN_SEV : Fld := ⟨0xE0014, 0, 3, 1⟩
def Reg.REC_CFG.LEAD_W : Fld := ⟨0xE0014, 8, 8, 2⟩
def Reg.REC_CFG.DESC_MS : Fld := ⟨0xE0014, 16, 16, 100⟩
def Reg.REC_CAP_STAT.RUNNING : Fld := ⟨0xE0020, 0, 1, 0⟩
def Reg.REC_CAP_STAT.BROKEN : Fld := ⟨0xE0020, 1, 1, 0⟩
def Reg.REC_CAP_STAT.STRICT : Fld := ⟨0xE0020, 2, 1, 0⟩
def Reg.REC_CAP_STAT.COUNT : Fld := ⟨0xE0020, 8, 24, 0⟩
def Reg.REC_CAP_BUF.KIB : Fld := ⟨0xE0024, 0, 16, 0⟩
def Reg.REC_CAP_BUF.PEAK : Fld := ⟨0xE0024, 16, 16, 0⟩
def Reg.REC_CAP_CNT.GAPS : Fld := ⟨0xE0028, 0, 16, 0⟩
def Reg.REC_RPL_CFG.EN : Fld := ⟨0xE0030, 0, 1, 0⟩
def Reg.REC_RPL_STAT.STATE : Fld := ⟨0xE0034, 0, 3, 0⟩
def Reg.REC_RPL_STAT.STAGE : Fld := ⟨0xE0034, 4, 4, 0⟩
def Reg.REC_RPL_STAT.TAG : Fld := ⟨0xE0034, 8, 8, 0⟩
def Reg.REC_RPL_STAT.LINK : Fld := ⟨0xE0034, 16, 4, 0⟩
def Reg.REC_RPL_LINE_LO.LINE_LO : Fld := ⟨0xE0038, 0, 32, 0⟩
def Reg.REC_RPL_LINE_HI.LINE_HI : Fld := ⟨0xE003C, 0, 8, 0⟩
def Reg.REC_WIN.DATA (n : Nat) : Fld := ⟨0xE1000 + 4 * n, 0, 32, 0⟩

/-- The GLB block as data. -/
def regsGLB0 : List RegDesc := [
  ⟨0x0, [], [⟨16, 16, .ro, 610⟩, ⟨8, 8, .ro, 176⟩, ⟨4, 4, .ro, 0⟩]⟩,
  ⟨0x4, [], [⟨0, 3, .ro, 1⟩, ⟨4, 2, .ro, 0⟩, ⟨6, 1, .ro, 0⟩, ⟨8, 1, .ro, 1⟩, ⟨12, 4, .ro, 0⟩]⟩,
  ⟨0x8, [], [⟨0, 1, .w1s, 0⟩, ⟨1, 1, .w1s, 0⟩, ⟨2, 1, .w1s, 0⟩]⟩,
  ⟨0xC, [], [⟨0, 32, .ro, 0⟩]⟩,
  ⟨0x10, [], [⟨0, 16, .ro, 0⟩]⟩]
def regsGLB : List RegDesc := regsGLB0
/-- The HOST block as data. -/
def regsHOST0 : List RegDesc := [
  ⟨0x10000, [], [⟨0, 32, .lk, 0⟩]⟩,
  ⟨0x10004, [], [⟨0, 32, .lk, 0⟩]⟩,
  ⟨0x10008, [], [⟨0, 8, .lk, 4⟩]⟩,
  ⟨0x1000C, [], [⟨0, 16, .ro, 0⟩, ⟨16, 16, .ro, 0⟩]⟩,
  ⟨0x10010, [], [⟨0, 32, .ro, 0⟩]⟩,
  ⟨0x10100, [⟨32, 32, 0⟩], [⟨0, 32, .lk, 0⟩]⟩,
  ⟨0x10104, [⟨32, 32, 0⟩], [⟨0, 32, .lk, 0⟩]⟩,
  ⟨0x10108, [⟨32, 32, 0⟩], [⟨0, 1, .lk, 0⟩, ⟨1, 3, .lk, 0⟩, ⟨4, 5, .lk, 4⟩, ⟨16, 5, .lk, 1⟩]⟩,
  ⟨0x1010C, [⟨32, 32, 0⟩], [⟨0, 8, .lk, 1⟩, ⟨8, 16, .lk, 0⟩]⟩,
  ⟨0x10110, [⟨32, 32, 0⟩], [⟨0, 16, .ro, 0⟩, ⟨16, 16, .ro, 0⟩]⟩,
  ⟨0x10114, [⟨32, 32, 0⟩], [⟨0, 1, .ro, 0⟩, ⟨1, 3, .ro, 0⟩, ⟨16, 16, .ro, 0⟩]⟩]
def regsHOST : List RegDesc := regsHOST0
/-- The DMA block as data. -/
def regsDMA0 : List RegDesc := [
  ⟨0x20000, [⟨16, 32, 0⟩], [⟨0, 2, .ro, 0⟩, ⟨4, 3, .ro, 0⟩, ⟨8, 8, .ro, 0⟩, ⟨16, 10, .ro, 0⟩]⟩,
  ⟨0x20004, [⟨16, 32, 0⟩], [⟨0, 32, .ro, 0⟩]⟩,
  ⟨0x20008, [⟨16, 32, 0⟩], [⟨0, 32, .ro, 0⟩]⟩,
  ⟨0x2000C, [⟨16, 32, 0⟩], [⟨0, 16, .ro, 0⟩, ⟨16, 16, .ro, 0⟩]⟩,
  ⟨0x20010, [⟨16, 32, 0⟩], [⟨0, 16, .ro, 0⟩, ⟨16, 5, .ro, 0⟩, ⟨21, 1, .ro, 0⟩, ⟨22, 1, .ro, 0⟩]⟩,
  ⟨0x20014, [⟨16, 32, 0⟩], [⟨0, 32, .ro, 0⟩]⟩,
  ⟨0x20018, [⟨16, 32, 0⟩], [⟨0, 16, .ro, 0⟩]⟩,
  ⟨0x2001C, [⟨16, 32, 0⟩], [⟨0, 16, .ro, 0⟩, ⟨16, 16, .ro, 0⟩]⟩,
  ⟨0x20200, [], [⟨0, 10, .ro, 0⟩, ⟨16, 10, .ro, 0⟩]⟩]
def regsDMA : List RegDesc := regsDMA0
/-- The POS block as data. -/
def regsPOS0 : List RegDesc := [
  ⟨0x30000, [], [⟨0, 2, .lk, 0⟩, ⟨8, 8, .lk, 8⟩, ⟨16, 4, .lk, 5⟩, ⟨24, 8, .lk, 10⟩]⟩,
  ⟨0x30004, [], [⟨0, 24, .lk, 1⟩]⟩,
  ⟨0x30008, [], [⟨0, 24, .lk, 1⟩]⟩,
  ⟨0x30010, [⟨4, 4, 0⟩], [⟨0, 6, .lk, 3⟩, ⟨6, 1, .lk, 0⟩, ⟨7, 1, .lk, 0⟩, ⟨8, 5, .lk, 26⟩, ⟨16, 1, .lk, 0⟩]⟩,
  ⟨0x30020, [⟨4, 4, 0⟩], [⟨0, 24, .lk, 0⟩]⟩,
  ⟨0x30040, [], [⟨0, 32, .ro, 0⟩]⟩,
  ⟨0x30044, [], [⟨0, 16, .ro, 0⟩]⟩,
  ⟨0x30048, [], [⟨0, 24, .ro, 0⟩]⟩,
  ⟨0x3004C, [], [⟨0, 1, .ro, 0⟩, ⟨1, 1, .ro, 1⟩, ⟨2, 1, .ro, 0⟩, ⟨3, 1, .ro, 0⟩, ⟨4, 1, .ro, 0⟩, ⟨5, 1, .ro, 0⟩]⟩,
  ⟨0x30050, [], [⟨0, 32, .ro, 0⟩]⟩,
  ⟨0x30054, [], [⟨0, 32, .ro, 0⟩]⟩,
  ⟨0x30058, [], [⟨0, 1, .w1c, 0⟩, ⟨1, 1, .w1c, 0⟩, ⟨2, 1, .w1c, 0⟩, ⟨3, 1, .w1c, 0⟩, ⟨4, 1, .w1c, 0⟩, ⟨8, 2, .ro, 0⟩, ⟨16, 2, .ro, 0⟩]⟩]
def regsPOS1 : List RegDesc := [
  ⟨0x30060, [⟨4, 4, 0⟩], [⟨0, 32, .ro, 0⟩]⟩,
  ⟨0x30070, [⟨4, 4, 0⟩], [⟨0, 16, .ro, 0⟩, ⟨16, 16, .ro, 0⟩]⟩,
  ⟨0x30080, [⟨4, 4, 0⟩], [⟨0, 32, .ro, 0⟩]⟩,
  ⟨0x300A0, [⟨8, 4, 0⟩], [⟨0, 10, .lk, 10⟩, ⟨10, 1, .lk, 0⟩, ⟨11, 2, .lk, 0⟩, ⟨16, 16, .lk, 0⟩]⟩,
  ⟨0x300C0, [], [⟨0, 8, .ro, 0⟩, ⟨8, 8, .ro, 0⟩]⟩,
  ⟨0x300E0, [⟨6, 4, 0⟩], [⟨0, 12, .ro, 0⟩, ⟨16, 12, .ro, 0⟩]⟩,
  ⟨0x30100, [⟨64, 4, 0⟩], [⟨0, 32, .lk, 0⟩]⟩,
  ⟨0x30200, [], [⟨0, 16, .ro, 65535⟩, ⟨16, 16, .ro, 0⟩]⟩]
def regsPOS : List RegDesc := regsPOS0 ++ regsPOS1
/-- The TIME block as data. -/
def regsTIME0 : List RegDesc := [
  ⟨0x40000, [], [⟨0, 32, .ro, 0⟩]⟩,
  ⟨0x40004, [], [⟨0, 32, .ro, 0⟩]⟩,
  ⟨0x40008, [], [⟨0, 32, .ro, 0⟩]⟩,
  ⟨0x4000C, [], [⟨0, 32, .ro, 0⟩]⟩,
  ⟨0x40010, [], [⟨0, 32, .ro, 0⟩]⟩,
  ⟨0x40014, [], [⟨0, 32, .ro, 0⟩]⟩,
  ⟨0x40018, [], [⟨0, 32, .ro, 0⟩]⟩,
  ⟨0x40020, [], [⟨0, 32, .ro, 0⟩]⟩,
  ⟨0x40024, [], [⟨0, 32, .ro, 0⟩]⟩,
  ⟨0x40030, [], [⟨0, 2, .lk, 0⟩, ⟨2, 1, .lk, 0⟩, ⟨3, 2, .lk, 1⟩, ⟨8, 7, .lk, 0⟩, ⟨16, 4, .lk, 12⟩]⟩,
  ⟨0x40034, [], [⟨0, 8, .lk, 128⟩, ⟨8, 8, .lk, 128⟩, ⟨16, 8, .lk, 248⟩, ⟨24, 1, .lk, 1⟩, ⟨25, 1, .lk, 0⟩]⟩,
  ⟨0x40038, [], [⟨0, 9, .lk, 100⟩, ⟨16, 8, .lk, 20⟩, ⟨24, 8, .lk, 1⟩]⟩]
def regsTIME1 : List RegDesc := [
  ⟨0x4003C, [], [⟨0, 2, .ro, 0⟩, ⟨2, 1, .ro, 0⟩, ⟨3, 1, .ro, 0⟩]⟩,
  ⟨0x40040, [⟨2, 16, 0⟩], [⟨0, 1, .lk, 0⟩, ⟨1, 1, .lk, 1⟩, ⟨2, 1, .lk, 0⟩, ⟨8, 7, .lk, 0⟩, ⟨16, 7, .lk, 10⟩]⟩,
  ⟨0x40044, [⟨2, 16, 0⟩], [⟨0, 2, .ro, 0⟩]⟩,
  ⟨0x40048, [⟨2, 16, 0⟩], [⟨0, 32, .ro, 0⟩]⟩,
  ⟨0x4004C, [⟨2, 16, 0⟩], [⟨0, 32, .ro, 0⟩]⟩,
  ⟨0x40080, [⟨2, 16, 0⟩], [⟨0, 32, .lk, 0⟩]⟩,
  ⟨0x40084, [⟨2, 16, 0⟩], [⟨0, 16, .lk, 0⟩]⟩,
  ⟨0x40088, [⟨2, 16, 0⟩], [⟨0, 16, .lk, 0⟩, ⟨16, 16, .lk, 0⟩]⟩,
  ⟨0x4008C, [⟨2, 16, 0⟩], [⟨0, 16, .ro, 0⟩, ⟨31, 1, .ro, 0⟩]⟩]
def regsTIME : List RegDesc := regsTIME0 ++ regsTIME1
/-- The LINEN block as data. -/
def regsLINEN0 : List RegDesc := [
  ⟨0x50000, [], [⟨0, 2, .lk, 2⟩, ⟨8, 1, .lk, 0⟩, ⟨12, 4, .lk, 4⟩, ⟨16, 9, .lk, 100⟩]⟩,
  ⟨0x50004, [], [⟨0, 16, .lk, 34998⟩]⟩,
  ⟨0x50008, [], [⟨0, 32, .lk, 3⟩]⟩,
  ⟨0x5000C, [], [⟨0, 16, .lk, 25090⟩]⟩,
  ⟨0x50010, [], [⟨0, 18, .lk, 160000⟩]⟩,
  ⟨0x50014, [], [⟨0, 16, .lk, 256⟩]⟩,
  ⟨0x50018, [], [⟨0, 22, .lk, 100000⟩]⟩,
  ⟨0x5001C, [], [⟨0, 32, .lk, 0⟩]⟩,
  ⟨0x50020, [], [⟨0, 3, .ro, 0⟩, ⟨3, 1, .ro, 0⟩, ⟨4, 1, .ro, 0⟩, ⟨8, 3, .ro, 0⟩]⟩,
  ⟨0x50024, [], [⟨0, 32, .ro, 0⟩]⟩,
  ⟨0x50028, [], [⟨0, 32, .ro, 4294967295⟩]⟩,
  ⟨0x5002C, [], [⟨0, 32, .ro, 0⟩]⟩]
def regsLINEN1 : List RegDesc := [
  ⟨0x50030, [], [⟨0, 32, .ro, 0⟩]⟩,
  ⟨0x50034, [], [⟨0, 16, .ro, 0⟩]⟩,
  ⟨0x50038, [], [⟨0, 16, .ro, 0⟩, ⟨16, 16, .ro, 0⟩]⟩,
  ⟨0x50100, [⟨12, 32, 0⟩], [⟨0, 1, .lk, 0⟩, ⟨1, 1, .lk, 0⟩, ⟨8, 8, .lk, 4⟩]⟩,
  ⟨0x50104, [⟨12, 32, 0⟩], [⟨0, 32, .lk, 65536⟩]⟩,
  ⟨0x50108, [⟨12, 32, 0⟩], [⟨0, 32, .lk, 1⟩]⟩,
  ⟨0x5010C, [⟨12, 32, 0⟩], [⟨0, 32, .ro, 0⟩]⟩,
  ⟨0x50110, [⟨12, 32, 0⟩], [⟨0, 32, .ro, 0⟩]⟩,
  ⟨0x50114, [⟨12, 32, 0⟩], [⟨0, 1, .ro, 0⟩, ⟨1, 1, .ro, 0⟩, ⟨2, 1, .ro, 0⟩, ⟨4, 4, .ro, 0⟩, ⟨8, 8, .ro, 0⟩]⟩,
  ⟨0x50118, [⟨12, 32, 0⟩], [⟨0, 32, .ro, 0⟩]⟩]
def regsLINEN : List RegDesc := regsLINEN0 ++ regsLINEN1
/-- The SENSE block as data. -/
def regsSENSE0 : List RegDesc := [
  ⟨0x60800, [], [⟨0, 1, .ro, 0⟩, ⟨1, 1, .ro, 0⟩, ⟨2, 1, .ro, 0⟩, ⟨3, 1, .ro, 0⟩, ⟨4, 1, .ro, 0⟩, ⟨5, 1, .ro, 0⟩, ⟨6, 1, .ro, 0⟩, ⟨7, 1, .ro, 0⟩, ⟨8, 1, .ro, 0⟩]⟩,
  ⟨0x60804, [], [⟨0, 5, .lk, 8⟩]⟩,
  ⟨0x60808, [], [⟨0, 1, .ro, 0⟩, ⟨1, 1, .ro, 0⟩, ⟨4, 4, .ro, 0⟩, ⟨8, 8, .ro, 0⟩, ⟨16, 16, .ro, 0⟩]⟩,
  ⟨0x6080C, [], [⟨0, 16, .ro, 0⟩, ⟨16, 16, .ro, 0⟩]⟩,
  ⟨0x60900, [⟨17, 4, 1⟩], [⟨0, 16, .ro, 0⟩, ⟨16, 8, .ro, 0⟩]⟩,
  ⟨0x60000, [], [⟨0, 8, .lk, 100⟩, ⟨8, 8, .lk, 95⟩, ⟨16, 8, .lk, 25⟩]⟩,
  ⟨0x60004, [], [⟨0, 4, .ro, 0⟩, ⟨4, 1, .ro, 0⟩, ⟨5, 1, .ro, 0⟩, ⟨8, 8, .ro, 0⟩, ⟨16, 16, .ro, 0⟩]⟩,
  ⟨0x60010, [⟨17, 4, 0⟩], [⟨0, 16, .ro, 0⟩, ⟨16, 1, .ro, 0⟩, ⟨17, 1, .ro, 0⟩]⟩,
  ⟨0x60060, [], [⟨0, 16, .ro, 0⟩, ⟨16, 16, .ro, 0⟩]⟩,
  ⟨0x60070, [], [⟨0, 1, .ro, 0⟩, ⟨1, 1, .ro, 0⟩, ⟨2, 1, .ro, 0⟩, ⟨8, 8, .ro, 0⟩, ⟨16, 16, .ro, 0⟩]⟩,
  ⟨0x60074, [], [⟨0, 16, .rw, 0⟩, ⟨16, 1, .w1s, 0⟩]⟩,
  ⟨0x60078, [], [⟨0, 8, .ro, 0⟩, ⟨8, 8, .ro, 0⟩, ⟨16, 16, .ro, 0⟩]⟩]
def regsSENSE1 : List RegDesc := [
  ⟨0x60080, [], [⟨0, 4, .lk, 0⟩, ⟨4, 2, .lk, 2⟩, ⟨8, 8, .lk, 50⟩, ⟨16, 7, .lk, 85⟩, ⟨24, 4, .lk, 2⟩]⟩,
  ⟨0x60084, [⟨4, 4, 0⟩], [⟨0, 24, .lk, 0⟩]⟩,
  ⟨0x60094, [], [⟨0, 8, .lk, 85⟩, ⟨8, 8, .lk, 92⟩]⟩,
  ⟨0x600A0, [⟨4, 4, 0⟩], [⟨0, 24, .ro, 0⟩, ⟨24, 1, .ro, 0⟩, ⟨25, 1, .ro, 0⟩]⟩,
  ⟨0x600B0, [], [⟨0, 32, .ro, 0⟩]⟩,
  ⟨0x600B4, [], [⟨0, 3, .ro, 0⟩, ⟨3, 1, .ro, 0⟩, ⟨4, 2, .ro, 0⟩, ⟨6, 1, .ro, 0⟩, ⟨16, 16, .ro, 0⟩]⟩,
  ⟨0x600B8, [], [⟨0, 16, .ro, 0⟩, ⟨16, 16, .ro, 0⟩]⟩]
def regsSENSE : List RegDesc := regsSENSE0 ++ regsSENSE1
/-- The RING block as data. -/
def regsRING0 : List RegDesc := [
  ⟨0x70000, [], [⟨0, 1, .lk, 0⟩, ⟨1, 1, .lk, 0⟩, ⟨2, 1, .lk, 1⟩, ⟨8, 5, .lk, 1⟩, ⟨16, 16, .lk, 0⟩]⟩,
  ⟨0x70004, [], [⟨0, 3, .lk, 0⟩, ⟨3, 1, .lk, 0⟩, ⟨4, 4, .ro, 0⟩]⟩,
  ⟨0x70008, [], [⟨0, 1, .ro, 0⟩, ⟨1, 1, .ro, 0⟩, ⟨2, 1, .ro, 0⟩, ⟨3, 1, .ro, 0⟩, ⟨4, 4, .ro, 0⟩, ⟨8, 4, .ro, 0⟩, ⟨12, 3, .ro, 0⟩]⟩,
  ⟨0x7000C, [], [⟨0, 16, .ro, 0⟩, ⟨16, 16, .ro, 0⟩]⟩,
  ⟨0x70010, [], [⟨0, 16, .ro, 0⟩]⟩,
  ⟨0x70014, [], [⟨0, 16, .ro, 0⟩]⟩,
  ⟨0x70018, [], [⟨0, 14, .ro, 0⟩, ⟨14, 1, .ro, 0⟩, ⟨15, 1, .ro, 0⟩]⟩,
  ⟨0x7001C, [], [⟨0, 16, .ro, 0⟩, ⟨16, 16, .ro, 0⟩]⟩,
  ⟨0x70020, [], [⟨0, 16, .ro, 0⟩, ⟨16, 16, .ro, 0⟩]⟩,
  ⟨0x70024, [], [⟨0, 16, .ro, 0⟩, ⟨16, 16, .ro, 0⟩]⟩,
  ⟨0x70028, [], [⟨0, 1, .ro, 0⟩, ⟨1, 1, .ro, 0⟩, ⟨2, 1, .ro, 0⟩, ⟨3, 1, .ro, 0⟩, ⟨4, 1, .ro, 0⟩, ⟨16, 16, .ro, 0⟩]⟩]
def regsRING : List RegDesc := regsRING0
/-- The LANE block as data. -/
def regsLANE0 : List RegDesc := [
  ⟨0x80480, [⟨2, 64, 0⟩], [⟨0, 1, .lk, 0⟩, ⟨1, 1, .lk, 0⟩, ⟨2, 2, .lk, 2⟩, ⟨4, 2, .lk, 0⟩, ⟨6, 1, .lk, 0⟩, ⟨8, 4, .lk, 0⟩, ⟨16, 8, .lk, 16⟩, ⟨24, 8, .lk, 0⟩]⟩,
  ⟨0x80000, [⟨18, 64, 0⟩], [⟨0, 1, .lk, 0⟩, ⟨1, 1, .lk, 0⟩, ⟨2, 2, .lk, 2⟩, ⟨4, 2, .lk, 0⟩, ⟨6, 1, .lk, 0⟩, ⟨8, 4, .lk, 0⟩, ⟨16, 8, .lk, 16⟩, ⟨24, 8, .lk, 10⟩]⟩,
  ⟨0x80004, [⟨20, 64, 0⟩], [⟨0, 4, .ro, 0⟩, ⟨4, 2, .ro, 0⟩, ⟨6, 1, .ro, 0⟩, ⟨7, 1, .ro, 0⟩, ⟨8, 4, .ro, 0⟩, ⟨16, 4, .ro, 0⟩, ⟨20, 2, .ro, 0⟩]⟩,
  ⟨0x80008, [⟨20, 64, 0⟩], [⟨0, 32, .ro, 0⟩]⟩,
  ⟨0x8000C, [⟨20, 64, 0⟩], [⟨0, 24, .ro, 0⟩]⟩,
  ⟨0x80010, [⟨20, 64, 0⟩], [⟨0, 16, .ro, 0⟩, ⟨16, 16, .ro, 0⟩]⟩,
  ⟨0x80014, [⟨20, 64, 0⟩], [⟨0, 16, .ro, 0⟩, ⟨16, 16, .ro, 0⟩]⟩,
  ⟨0x80018, [⟨20, 64, 0⟩], [⟨0, 16, .ro, 0⟩, ⟨16, 16, .ro, 0⟩]⟩,
  ⟨0x8001C, [⟨20, 64, 0⟩], [⟨0, 16, .ro, 0⟩, ⟨16, 16, .ro, 0⟩]⟩,
  ⟨0x80020, [⟨20, 64, 0⟩], [⟨0, 1, .lk, 0⟩, ⟨1, 2, .lk, 0⟩, ⟨3, 2, .lk, 0⟩, ⟨8, 4, .lk, 0⟩, ⟨16, 1, .w1s, 0⟩, ⟨17, 1, .w1s, 0⟩, ⟨18, 1, .lk, 0⟩, ⟨24, 8, .lk, 16⟩]⟩,
  ⟨0x80024, [⟨20, 64, 0⟩], [⟨0, 4, .ro, 0⟩, ⟨16, 16, .ro, 0⟩]⟩,
  ⟨0x80028, [⟨20, 64, 0⟩, ⟨4, 4, 0⟩], [⟨0, 32, .ro, 0⟩]⟩]
def regsLANE1 : List RegDesc := [
  ⟨0x80800, [], [⟨0, 1, .ro, 0⟩]⟩,
  ⟨0x80804, [], [⟨0, 20, .ro, 0⟩]⟩]
def regsLANE : List RegDesc := regsLANE0 ++ regsLANE1
/-- The LINK block as data. -/
def regsLINK0 : List RegDesc := [
  ⟨0x90000, [⟨16, 64, 0⟩], [⟨0, 1, .lk, 0⟩, ⟨1, 2, .lk, 0⟩, ⟨3, 1, .lk, 0⟩, ⟨4, 1, .lk, 0⟩, ⟨8, 4, .lk, 0⟩, ⟨16, 16, .lk, 0⟩]⟩,
  ⟨0x90004, [⟨16, 64, 0⟩], [⟨0, 14, .lk, 0⟩, ⟨16, 14, .lk, 0⟩]⟩,
  ⟨0x90008, [⟨16, 64, 0⟩], [⟨0, 14, .lk, 0⟩, ⟨16, 14, .lk, 0⟩]⟩,
  ⟨0x9000C, [⟨16, 64, 0⟩], [⟨0, 16, .lk, 240⟩, ⟨16, 16, .lk, 280⟩]⟩,
  ⟨0x90010, [⟨16, 64, 0⟩], [⟨0, 3, .ro, 0⟩, ⟨3, 1, .ro, 0⟩, ⟨4, 1, .ro, 0⟩, ⟨8, 4, .ro, 0⟩, ⟨16, 4, .ro, 0⟩]⟩,
  ⟨0x90014, [⟨16, 64, 0⟩], [⟨0, 17, .ro, 0⟩]⟩,
  ⟨0x90018, [⟨16, 64, 0⟩], [⟨0, 16, .ro, 0⟩, ⟨16, 16, .ro, 0⟩]⟩,
  ⟨0x9001C, [⟨16, 64, 0⟩], [⟨0, 16, .ro, 0⟩, ⟨16, 16, .ro, 0⟩]⟩,
  ⟨0x90020, [⟨16, 64, 0⟩], [⟨0, 16, .ro, 0⟩, ⟨16, 16, .ro, 0⟩]⟩,
  ⟨0x90024, [⟨16, 64, 0⟩], [⟨0, 16, .ro, 0⟩, ⟨16, 16, .ro, 0⟩]⟩,
  ⟨0x90028, [⟨16, 64, 0⟩], [⟨0, 16, .ro, 65535⟩]⟩,
  ⟨0x9002C, [⟨16, 64, 0⟩], [⟨0, 32, .ro, 4294967295⟩]⟩]
def regsLINK1 : List RegDesc := [
  ⟨0x90800, [], [⟨0, 8, .lk, 24⟩]⟩,
  ⟨0x90804, [], [⟨0, 3, .lk, 3⟩, ⟨4, 3, .lk, 2⟩, ⟨8, 5, .lk, 4⟩, ⟨16, 8, .lk, 5⟩]⟩,
  ⟨0x90808, [], [⟨0, 17, .lk, 4096⟩]⟩,
  ⟨0x9080C, [], [⟨0, 14, .lk, 1024⟩]⟩,
  ⟨0x90810, [], [⟨0, 14, .lk, 1000⟩]⟩,
  ⟨0x90814, [], [⟨0, 17, .ro, 0⟩]⟩]
def regsLINK : List RegDesc := regsLINK0 ++ regsLINK1
/-- The CAM block as data. -/
def regsCAM0 : List RegDesc := [
  ⟨0xA0000, [⟨2, 64, 0⟩], [⟨0, 1, .lk, 0⟩, ⟨1, 1, .lk, 0⟩, ⟨2, 5, .lk, 0⟩, ⟨8, 4, .lk, 0⟩, ⟨16, 8, .lk, 0⟩]⟩,
  ⟨0xA0004, [⟨2, 64, 0⟩], [⟨0, 17, .lk, 65536⟩]⟩,
  ⟨0xA0008, [⟨2, 64, 0⟩], [⟨0, 32, .lk, 0⟩]⟩,
  ⟨0xA000C, [⟨2, 64, 0⟩], [⟨0, 32, .lk, 16777216⟩]⟩,
  ⟨0xA0010, [⟨2, 64, 0⟩], [⟨0, 32, .lk, 0⟩]⟩,
  ⟨0xA0014, [⟨2, 64, 0⟩], [⟨0, 16, .lk, 256⟩, ⟨16, 8, .lk, 10⟩, ⟨24, 8, .lk, 4⟩]⟩,
  ⟨0xA0018, [⟨2, 64, 0⟩], [⟨0, 16, .ro, 0⟩, ⟨16, 16, .ro, 0⟩]⟩,
  ⟨0xA001C, [⟨2, 64, 0⟩], [⟨0, 16, .ro, 0⟩, ⟨16, 16, .ro, 0⟩]⟩,
  ⟨0xA0020, [⟨2, 64, 0⟩], [⟨0, 32, .ro, 0⟩]⟩,
  ⟨0xA0080, [], [⟨0, 8, .lk, 96⟩, ⟨8, 8, .lk, 192⟩, ⟨16, 8, .lk, 8⟩]⟩,
  ⟨0xA0084, [], [⟨0, 16, .lk, 100⟩]⟩]
def regsCAM : List RegDesc := regsCAM0
/-- The PIPE block as data. -/
def regsPIPE0 : List RegDesc := [
  ⟨0xB0000, [], [⟨0, 8, .lk, 16⟩, ⟨16, 16, .lk, 1000⟩]⟩,
  ⟨0xB0004, [], [⟨0, 32, .lk, 4293918720⟩]⟩,
  ⟨0xB0008, [], [⟨0, 8, .lk, 3⟩]⟩,
  ⟨0xB0010, [⟨16, 4, 0⟩], [⟨0, 2, .ro, 0⟩, ⟨16, 16, .ro, 0⟩]⟩,
  ⟨0xB0050, [], [⟨0, 32, .ro, 0⟩]⟩,
  ⟨0xB0054, [], [⟨0, 16, .ro, 0⟩, ⟨16, 16, .ro, 0⟩]⟩,
  ⟨0xB0058, [], [⟨0, 16, .ro, 0⟩, ⟨16, 16, .ro, 0⟩]⟩,
  ⟨0xB005C, [], [⟨0, 8, .ro, 0⟩, ⟨8, 4, .ro, 0⟩, ⟨12, 20, .ro, 0⟩]⟩,
  ⟨0xB0100, [], [⟨0, 32, .lk, 0⟩]⟩,
  ⟨0xB0104, [], [⟨0, 8, .lk, 0⟩]⟩,
  ⟨0xB0108, [], [⟨0, 14, .lk, 2048⟩]⟩,
  ⟨0xB010C, [], [⟨0, 32, .lk, 2147483648⟩]⟩]
def regsPIPE1 : List RegDesc := [
  ⟨0xB0110, [], [⟨0, 8, .lk, 0⟩]⟩,
  ⟨0xB0114, [], [⟨0, 14, .lk, 14335⟩]⟩,
  ⟨0xB0118, [], [⟨0, 12, .lk, 0⟩]⟩,
  ⟨0xB0120, [], [⟨0, 14, .ro, 0⟩, ⟨16, 14, .ro, 0⟩]⟩,
  ⟨0xB0124, [], [⟨0, 16, .ro, 0⟩]⟩,
  ⟨0xB0128, [], [⟨0, 16, .ro, 0⟩, ⟨16, 16, .ro, 0⟩]⟩,
  ⟨0xB012C, [], [⟨0, 16, .ro, 0⟩, ⟨16, 16, .ro, 0⟩]⟩,
  ⟨0xB0130, [], [⟨0, 32, .ro, 0⟩]⟩,
  ⟨0xB0200, [], [⟨0, 7, .ro, 0⟩, ⟨8, 8, .ro, 0⟩, ⟨16, 8, .ro, 0⟩]⟩,
  ⟨0xB0204, [], [⟨0, 5, .ro, 0⟩, ⟨16, 16, .ro, 0⟩]⟩,
  ⟨0xB0208, [], [⟨0, 16, .ro, 0⟩, ⟨16, 16, .ro, 0⟩]⟩,
  ⟨0xB020C, [], [⟨0, 32, .ro, 0⟩]⟩]
def regsPIPE2 : List RegDesc := [
  ⟨0xB0210, [], [⟨0, 13, .ro, 0⟩]⟩,
  ⟨0xB0214, [], [⟨0, 32, .ro, 0⟩]⟩,
  ⟨0xB0300, [], [⟨0, 3, .lk, 7⟩]⟩,
  ⟨0xB0304, [], [⟨0, 17, .lk, 32768⟩]⟩,
  ⟨0xB0308, [], [⟨0, 3, .lk, 3⟩, ⟨4, 4, .lk, 8⟩, ⟨8, 2, .lk, 2⟩, ⟨16, 12, .lk, 2048⟩]⟩,
  ⟨0xB030C, [], [⟨0, 5, .lk, 8⟩, ⟨8, 5, .lk, 6⟩, ⟨16, 5, .lk, 4⟩]⟩,
  ⟨0xB0310, [], [⟨0, 10, .lk, 20⟩]⟩,
  ⟨0xB0314, [], [⟨0, 8, .lk, 16⟩, ⟨8, 5, .lk, 4⟩, ⟨16, 7, .lk, 8⟩, ⟨24, 8, .lk, 16⟩]⟩,
  ⟨0xB0318, [], [⟨0, 16, .lk, 0⟩]⟩,
  ⟨0xB0320, [], [⟨0, 19, .ro, 0⟩]⟩,
  ⟨0xB0324, [], [⟨0, 19, .ro, 0⟩]⟩,
  ⟨0xB0328, [], [⟨0, 16, .ro, 0⟩]⟩]
def regsPIPE3 : List RegDesc := [
  ⟨0xB032C, [], [⟨0, 32, .ro, 0⟩]⟩,
  ⟨0xB0330, [], [⟨0, 3, .ro, 0⟩, ⟨16, 16, .ro, 0⟩]⟩,
  ⟨0xB0340, [⟨8, 4, 0⟩], [⟨0, 4, .ro, 0⟩, ⟨4, 4, .ro, 0⟩, ⟨8, 4, .ro, 0⟩, ⟨12, 4, .ro, 0⟩, ⟨16, 4, .ro, 0⟩, ⟨20, 4, .ro, 0⟩, ⟨24, 4, .ro, 0⟩, ⟨28, 4, .ro, 0⟩]⟩]
def regsPIPE : List RegDesc := regsPIPE0 ++ regsPIPE1 ++ regsPIPE2 ++ regsPIPE3
/-- The MEM block as data. -/
def regsMEM0 : List RegDesc := [
  ⟨0xC0000, [], [⟨0, 12, .lk, 10⟩, ⟨16, 8, .lk, 24⟩]⟩,
  ⟨0xC0004, [], [⟨0, 16, .ro, 0⟩, ⟨16, 16, .ro, 0⟩]⟩,
  ⟨0xC0008, [], [⟨0, 16, .ro, 0⟩, ⟨16, 16, .ro, 0⟩]⟩,
  ⟨0xC000C, [], [⟨0, 16, .ro, 0⟩, ⟨16, 16, .ro, 0⟩]⟩,
  ⟨0xC0010, [], [⟨0, 32, .ro, 0⟩]⟩,
  ⟨0xC0014, [], [⟨0, 16, .ro, 0⟩]⟩,
  ⟨0xC0018, [], [⟨0, 16, .ro, 0⟩, ⟨16, 16, .ro, 0⟩]⟩,
  ⟨0xC001C, [], [⟨0, 10, .ro, 0⟩, ⟨10, 10, .ro, 0⟩, ⟨20, 10, .ro, 0⟩, ⟨30, 1, .ro, 0⟩]⟩,
  ⟨0xC0020, [], [⟨0, 10, .ro, 0⟩]⟩,
  ⟨0xC0024, [], [⟨0, 1, .ro, 0⟩, ⟨1, 1, .ro, 0⟩, ⟨16, 16, .ro, 0⟩]⟩,
  ⟨0xC0100, [], [⟨0, 1, .lk, 0⟩, ⟨16, 16, .lk, 100⟩]⟩,
  ⟨0xC0104, [], [⟨0, 1, .ro, 0⟩, ⟨1, 1, .ro, 0⟩, ⟨2, 1, .ro, 0⟩, ⟨3, 1, .ro, 0⟩, ⟨4, 1, .ro, 0⟩, ⟨5, 1, .ro, 0⟩, ⟨16, 16, .ro, 0⟩]⟩]
def regsMEM1 : List RegDesc := [
  ⟨0xC0108, [], [⟨0, 7, .ro, 0⟩, ⟨8, 7, .ro, 0⟩, ⟨16, 16, .ro, 0⟩]⟩,
  ⟨0xC010C, [], [⟨0, 4, .ro, 0⟩, ⟨4, 4, .ro, 8⟩, ⟨16, 16, .ro, 0⟩]⟩,
  ⟨0xC0110, [], [⟨0, 7, .ro, 0⟩, ⟨8, 7, .ro, 0⟩, ⟨16, 7, .ro, 0⟩]⟩,
  ⟨0xC0114, [], [⟨0, 16, .ro, 0⟩, ⟨16, 12, .ro, 0⟩]⟩,
  ⟨0xC0140, [⟨12, 4, 0⟩], [⟨0, 16, .ro, 0⟩, ⟨16, 16, .ro, 0⟩]⟩]
def regsMEM : List RegDesc := regsMEM0 ++ regsMEM1
/-- The CHK block as data. -/
def regsCHK0 : List RegDesc := [
  ⟨0xD0000, [], [⟨0, 1, .lk, 1⟩, ⟨1, 1, .lk, 0⟩, ⟨2, 1, .lk, 0⟩, ⟨3, 1, .lk, 0⟩, ⟨4, 1, .lk, 0⟩, ⟨8, 4, .lk, 0⟩, ⟨16, 16, .lk, 1000⟩]⟩,
  ⟨0xD0004, [], [⟨0, 32, .lk, 0⟩]⟩,
  ⟨0xD0008, [], [⟨0, 16, .lk, 0⟩]⟩,
  ⟨0xD000C, [], [⟨0, 32, .ro, 0⟩]⟩,
  ⟨0xD0010, [], [⟨0, 16, .ro, 0⟩, ⟨16, 16, .ro, 0⟩]⟩,
  ⟨0xD0014, [], [⟨0, 16, .ro, 0⟩, ⟨16, 8, .ro, 0⟩, ⟨24, 8, .ro, 0⟩]⟩,
  ⟨0xD0018, [], [⟨0, 16, .ro, 0⟩, ⟨16, 8, .ro, 0⟩, ⟨24, 2, .ro, 0⟩]⟩,
  ⟨0xD001C, [], [⟨0, 16, .ro, 0⟩, ⟨16, 16, .ro, 0⟩]⟩,
  ⟨0xD0020, [], [⟨0, 16, .ro, 0⟩]⟩,
  ⟨0xD0100, [⟨8, 32, 0⟩], [⟨0, 1, .ro, 0⟩, ⟨1, 1, .w1c, 0⟩, ⟨2, 1, .w1c, 0⟩, ⟨3, 2, .ro, 0⟩, ⟨16, 16, .ro, 0⟩]⟩,
  ⟨0xD0104, [⟨8, 32, 0⟩], [⟨0, 32, .ro, 0⟩]⟩,
  ⟨0xD0108, [⟨8, 32, 0⟩], [⟨0, 32, .ro, 0⟩]⟩]
def regsCHK1 : List RegDesc := [
  ⟨0xD010C, [⟨8, 32, 0⟩], [⟨0, 32, .ro, 0⟩]⟩,
  ⟨0xD0110, [⟨8, 32, 0⟩], [⟨0, 32, .ro, 0⟩]⟩,
  ⟨0xD0114, [⟨8, 32, 0⟩], [⟨0, 32, .ro, 0⟩]⟩,
  ⟨0xD0118, [⟨8, 32, 0⟩], [⟨0, 32, .ro, 0⟩]⟩,
  ⟨0xD011C, [⟨8, 32, 0⟩], [⟨0, 16, .ro, 0⟩]⟩]
def regsCHK : List RegDesc := regsCHK0 ++ regsCHK1
/-- The REC block as data. -/
def regsREC0 : List RegDesc := [
  ⟨0xE0000, [], [⟨3, 17, .rw, 0⟩, ⟨24, 1, .rw, 0⟩]⟩,
  ⟨0xE0004, [], [⟨0, 1, .w1c, 0⟩, ⟨1, 1, .w1c, 0⟩, ⟨2, 1, .ro, 0⟩, ⟨16, 16, .ro, 0⟩]⟩,
  ⟨0xE0008, [], [⟨0, 19, .ro, 0⟩]⟩,
  ⟨0xE000C, [], [⟨0, 20, .ro, 262144⟩]⟩,
  ⟨0xE0010, [], [⟨0, 16, .ro, 0⟩]⟩,
  ⟨0xE0014, [], [⟨0, 3, .lk, 1⟩, ⟨8, 8, .lk, 2⟩, ⟨16, 16, .lk, 100⟩]⟩,
  ⟨0xE0020, [], [⟨0, 1, .ro, 0⟩, ⟨1, 1, .ro, 0⟩, ⟨2, 1, .ro, 0⟩, ⟨8, 24, .ro, 0⟩]⟩,
  ⟨0xE0024, [], [⟨0, 16, .ro, 0⟩, ⟨16, 16, .ro, 0⟩]⟩,
  ⟨0xE0028, [], [⟨0, 16, .ro, 0⟩]⟩,
  ⟨0xE0030, [], [⟨0, 1, .lk, 0⟩]⟩,
  ⟨0xE0034, [], [⟨0, 3, .ro, 0⟩, ⟨4, 4, .ro, 0⟩, ⟨8, 8, .ro, 0⟩, ⟨16, 4, .ro, 0⟩]⟩,
  ⟨0xE0038, [], [⟨0, 32, .ro, 0⟩]⟩]
def regsREC1 : List RegDesc := [
  ⟨0xE003C, [], [⟨0, 8, .ro, 0⟩]⟩,
  ⟨0xE1000, [⟨1024, 4, 0⟩], [⟨0, 32, .ro, 0⟩]⟩]
def regsREC : List RegDesc := regsREC0 ++ regsREC1
/-- The SVC block as data. -/
def regsSVC0 : List RegDesc := [
  ⟨0xF0000, [], [⟨0, 1, .ro, 0⟩, ⟨1, 1, .ro, 0⟩, ⟨2, 6, .ro, 0⟩, ⟨8, 6, .ro, 0⟩, ⟨16, 4, .ro, 0⟩]⟩,
  ⟨0xF0004, [], [⟨0, 32, .ro, 0⟩]⟩,
  ⟨0xF0008, [], [⟨0, 4, .ro, 0⟩, ⟨4, 4, .ro, 0⟩, ⟨16, 16, .ro, 0⟩]⟩,
  ⟨0xF000C, [], [⟨0, 32, .ro, 0⟩]⟩,
  ⟨0xF0010, [], [⟨0, 16, .ro, 0⟩]⟩,
  ⟨0xF0014, [], [⟨0, 1, .ro, 0⟩, ⟨1, 1, .ro, 0⟩, ⟨2, 1, .ro, 0⟩, ⟨3, 1, .ro, 0⟩, ⟨8, 8, .ro, 0⟩, ⟨16, 16, .ro, 0⟩]⟩,
  ⟨0xF0020, [], [⟨0, 8, .rw, 0⟩, ⟨8, 1, .w1s, 0⟩]⟩,
  ⟨0xF0024, [], [⟨0, 8, .ro, 0⟩, ⟨8, 1, .ro, 0⟩]⟩]
def regsSVC : List RegDesc := regsSVC0

/-- The registers of one 64 KiB block, by the block number of R41. -/
def blockRegs : Nat → List RegDesc
  | 0 => regsGLB
  | 1 => regsHOST
  | 2 => regsDMA
  | 3 => regsPOS
  | 4 => regsTIME
  | 5 => regsLINEN
  | 6 => regsSENSE
  | 7 => regsRING
  | 8 => regsLANE
  | 9 => regsLINK
  | 10 => regsCAM
  | 11 => regsPIPE
  | 12 => regsMEM
  | 13 => regsCHK
  | 14 => regsREC
  | 15 => regsSVC
  | _ => []

end Sys2Proof.Machine
end

