-- ==== Sys2Proof/Machine/Bursts.lean ====
section
/-! DEFINITION. Transfer programs, the bursts they are cut into, and the arbiter that grants the bursts (R108, R110, R111, R113 to R115). -/
namespace Sys2Proof.Machine

/-! ## Programs -/

/-- A transfer program: three nested loops over words of the far side (R113). -/
structure Prog where
  base : Nat
  c0 : Nat
  c1 : Nat
  c2 : Nat
  s0 : Int
  s1 : Int
  s2 : Int
  tail : Nat
  deriving DecidableEq, Repr

/-- The words of a program. -/
def Prog.total (p : Prog) : Nat := p.c0 * p.c1 * p.c2

/-- The loop indices of word `k`. -/
def Prog.idx (p : Prog) (k : Nat) : Nat × Nat × Nat := (k % p.c0, k / p.c0 % p.c1, k / (p.c0 * p.c1))

/-- The far address of word `k`: steps of 0, 1 and 2 from the starts of their runs, modulo 2^64 (R114). -/
def Prog.far (p : Prog) (k : Nat) : Nat :=
  let (i0, i1, i2) := p.idx k
  fieldOf 64 ((p.base : Int) + p.s0 * (i0 : Int) + p.s1 * (i1 : Int) + p.s2 * (i2 : Int))

/-- The bytes that word `k` moves: TAIL for the last word, else 8 (R114). -/
def Prog.bytes (p : Prog) (k : Nat) : Nat := if k + 1 = p.total then p.tail else 8

/-- How many words the burst that begins at word `k` has (R111). -/
def Prog.burstWords (p : Prog) (limit k : Nat) : Nat → Nat → Nat
  | 0, n => n
  | fuel + 1, n =>
    let a := p.far k
    if k + n < p.total ∧ 8 * (n + 1) ≤ min 512 limit ∧ p.far (k + n) = a + 8 * n ∧ a % 4096 + 8 * n < 4096 then
      Prog.burstWords p limit k fuel (n + 1)
    else n

/-- The same, at least one word. -/
def Prog.burstLen (p : Prog) (limit k : Nat) : Nat := max 1 (p.burstWords limit k 64 0)

/-- The bytes of `n` words from word `k`. -/
def Prog.burstBytes (p : Prog) (k n : Nat) : Nat := 8 * (n - 1) + p.bytes (k + n - 1)

/-- The bursts of a program from word `k` on: first word and words of each. -/
def Prog.bursts (p : Prog) (limit : Nat) : Nat → Nat → List (Nat × Nat)
  | 0, _ => []
  | fuel + 1, k => if p.total ≤ k then [] else let n := p.burstLen limit k; (k, n) :: p.bursts limit fuel (k + n)

/-- The programs that move `len` bytes at a host address: 65,536 words each, the last one shorter (R115). -/
def linear : Nat → Nat → Nat → List Prog
  | 0, _, _ => []
  | fuel + 1, addr, len =>
    if len = 0 then []
    else if len ≤ 524288 then
      let w := cdiv len 8
      [⟨addr, w, 1, 1, 8, 0, 0, len - 8 * (w - 1)⟩]
    else ⟨addr, 65536, 1, 1, 8, 0, 0, 8⟩ :: linear fuel ((addr + 524288) % 2 ^ 64) (len - 524288)

/-- The programs of a ring descriptor's ADDR and LEN. -/
def ringProgs (addr len : Nat) : List Prog := linear (len / 524288 + 1) addr len

/-- The bursts of a ring descriptor's data: program, first word, words. -/
def ringBursts (addr len limit : Nat) : List (Prog × Nat × Nat) :=
  (ringProgs addr len).flatMap fun p => (p.bursts limit p.total 0).map fun b => (p, b)

/-- Far address, first word and bytes of each burst. -/
def farBursts (addr len limit : Nat) : List (Nat × Nat × Nat) :=
  (ringBursts addr len limit).map fun (p, k, n) => (p.far k, k, p.burstBytes k n)

/-- The burst of a ring descriptor's data that moves byte `off`. -/
def burstAt (addr len limit off : Nat) : Option (Prog × Nat × Nat) :=
  (ringBursts addr len limit).find? fun (p, k, n) =>
    let start := (p.far k + 2 ^ 64 - addr % 2 ^ 64) % 2 ^ 64
    decide (start ≤ off) && decide (off < start + p.burstBytes k n)

/-! ## The arbiter -/

/-- The priority of each DMA channel (R108). -/
def chPriority : List Nat := [7, 6, 5, 5, 3, 3, 3, 3, 4, 1, 1, 1, 1, 0, 0, 0]

/-- The channels in the order in which the arbiter prefers them: by priority, and by number among equals. -/
def grantOrder : List Nat := [7, 6, 5, 4, 3, 2, 1, 0].flatMap fun p => (List.range 16).filter fun c => chPriority.getD c 0 == p

/-- The channel that the arbiter grants a burst, of those that are ready (R110). -/
def grant (ready : Nat → Bool) : Option Nat := grantOrder.find? ready

end Sys2Proof.Machine
end

