-- ==== Sys2Proof/Machine/Ops.lean ====
section
/-! DEFINITION. The named operations over registers, memory, time, the recorder, events, interrupts and completions. -/
namespace Sys2Proof.Machine

/-! ## Register fields -/

/-- The bit address of a field: the key under which its value is held. -/
def Fld.key (f : Fld) : Nat := f.off * 8 + f.lo

/-- The value of a register field: its reset value until something changes it (R9). -/
def Dev.get (d : Dev) (f : Fld) : Nat := (kvGet d.regs f.key).getD f.rst

/-- Change a register field. A field at its reset value is not listed. -/
def Dev.put (d : Dev) (f : Fld) (v : Nat) : Dev :=
  let v := v % 2 ^ f.w
  { d with regs := if v = f.rst then kvDel d.regs f.key else kvPut d.regs f.key v }

/-- A one-bit field as a Bool. -/
def Dev.on (d : Dev) (f : Fld) : Bool := d.get f ≠ 0

/-- Add to a saturating counter. -/
def Dev.bumpBy (d : Dev) (f : Fld) (k : Nat) : Dev := d.put f (min (2 ^ f.w - 1) (d.get f + k))

/-- Add 1 to a saturating counter. -/
def Dev.bump (d : Dev) (f : Fld) : Dev := d.bumpBy f 1

/-- Add 1 to a wrapping counter. -/
def Dev.wrap (d : Dev) (f : Fld) : Dev := d.put f (d.get f + 1)

/-- Write a number that spans two registers, low word first. -/
def Dev.put2 (d : Dev) (lo hi : Fld) (v : Nat) : Dev := (d.put lo (v % 2 ^ lo.w)).put hi (v / 2 ^ lo.w)

/-- Read a number that spans two registers. -/
def Dev.get2 (d : Dev) (lo hi : Fld) : Nat := d.get lo + 2 ^ lo.w * d.get hi

/-! ## Device memory -/

/-- The byte at an address: 0x00 where nothing is listed (R381). -/
def memByte : List Host.Cell → Nat → Byte
  | [], _ => 0
  | (a, v) :: t, k => if a = k then v else memByte t k

/-- Store one byte. A zero byte is not listed, so that equal memories are equal lists. -/
def memPutByte : List Host.Cell → Nat → Byte → List Host.Cell
  | [], k, v => if v = 0 then [] else [(k, v)]
  | (a, x) :: t, k, v =>
    if k < a then (if v = 0 then (a, x) :: t else (k, v) :: (a, x) :: t)
    else if k = a then (if v = 0 then t else (k, v) :: t)
    else (a, x) :: memPutByte t k v

/-- Store bytes from an address upward. -/
def memPut (m : List Host.Cell) (a : Nat) : List Byte → List Host.Cell
  | [] => m
  | b :: t => memPut (memPutByte m a b) (a + 1) t

/-- Read `n` bytes from an address upward. -/
def memGet (m : List Host.Cell) (a n : Nat) : List Byte := (List.range n).map fun i => memByte m (a + i)

/-- The canonical form: addresses strictly rising, no listed byte 0. -/
def memWf : List Host.Cell → Bool
  | [] => true
  | [(_, v)] => decide (v ≠ 0)
  | (a, v) :: (b, w) :: t => decide (v ≠ 0) && decide (a < b) && memWf ((b, w) :: t)

/-- A device address range inside DRAM or inside SRAM (R118). -/
def devRange (a n : Nat) : Bool :=
  decide (a + n ≤ 0x400000000) || (decide (0x1000000000 ≤ a) && decide (a + n ≤ 0x1004000000))

/-! ## Time -/

/-- The time base after `dt` more ns (R16). -/
def tbPlus (tb dt : Nat) : Nat := (tb + dt) % 2 ^ 64

/-- TB moves on; nothing else does. -/
def Dev.tick (d : Dev) (dt : Nat) : Dev := { d with tb := tbPlus d.tb dt }

/-- Nanoseconds of TB since an instant. -/
def Dev.since (d : Dev) (t : Nat) : Nat := (d.tb + (2 ^ 64 - t % 2 ^ 64)) % 2 ^ 64

/-- Offset, rate and anchor as last set. -/
def Dev.timeForm (d : Dev) : Int × Int × Nat :=
  (signedOf 64 (d.get2 Reg.TIME_OFS_LO.OFS Reg.TIME_OFS_HI.OFS), signedOf 32 (d.get Reg.TIME_RATE.RATE),
   d.get2 Reg.TIME_ANCHOR_LO.ANCHOR Reg.TIME_ANCHOR_HI.ANCHOR)

/-- Offset, rate and anchor in force at a TB: those before, while TB is below the new anchor (R333). -/
def Dev.timeAt (d : Dev) (t : Int) : Int × Int × Nat :=
  if (d.timeForm.2.2 : Int) ≤ t then d.timeForm else (d.time.olds.find? fun x => decide ((x.2.2 : Int) ≤ t)).getD d.timeForm

/-- Time as read (R17), modulo 2^64. -/
def Dev.readTime (d : Dev) : Nat :=
  let (ofs, rate, anchor) := d.timeAt d.tb
  fieldOf 64 ((d.tb : Int) + ofs + (rate * ((d.tb : Int) - (anchor : Int))) / (2 ^ 40 : Nat))

/-- A time-stamp: the low 32 bits of read time (R18). -/
def Dev.stamp (d : Dev) : Nat := d.readTime % 2 ^ 32

/-! ## Position arithmetic -/

/-- A position modulo 2^48 (R14). -/
def pw48 (x : Int) : Nat := fieldOf 48 x

/-- The signed distance from `b` to `a` (R14). -/
def pwDiff (a b : Nat) : Int := signedOf 48 (fieldOf 48 ((a : Int) - (b : Int)))

/-- A position plus fine counts. -/
def pwAdd (a : Nat) (k : Nat) : Nat := (a + k) % 2 ^ 48

/-! ## The device state -/

/-- GLB_STATE.STATE of a state (R31); OFF is never read. -/
def Mode.code : Mode → Nat
  | .off => 0
  | .selftest => 1
  | .safe => 2
  | .setup => 3
  | .ready => 4
  | .run => 5
  | .hold => 6

/-- The states in which host rings are served (R90: "All served"). -/
def Mode.served : Mode → Bool
  | .setup | .ready | .run | .hold => true
  | .off | .selftest | .safe => false

/-- READY, RUN or HOLD. -/
def Mode.printing : Mode → Bool
  | .ready | .run | .hold => true
  | .off | .selftest | .safe | .setup => false

/-- The changes of state that R31 allows within one step: its table, resets (R436) and the two-change case of R33. -/
def modeEdge : Mode → Mode → Bool
  | .off, m => m == .off || m == .selftest
  | _, .off => true
  | _, .safe => true
  | .selftest, m => m == .selftest || m == .setup
  | .safe, m => m == .selftest
  | .setup, m => m == .setup || m == .ready
  | .ready, m => m == .ready || m == .setup || m == .run
  | .run, m => m == .run || m == .hold || m == .ready
  | .hold, m => m == .hold || m == .run || m == .ready

/-- A follower of a cascade: a ring node whose member number is not 0 (R34, R45, R301). -/
def Dev.follower (d : Dev) : Bool := d.on Reg.RING_CFG.EN && d.on Reg.RING_NODE.MEMBER

/-- A device without a duplex partner is ACTIVE (R34). -/
def Dev.active (d : Dev) : Bool := d.duplex == .active

/-! ## Jobs -/

def Dev.job? (d : Dev) (tag : Nat) : Option Job := d.jobs.find? (fun j => j.tag == tag)

def Dev.live? (d : Dev) : Option Job := d.jobs.find? (fun j => j.phase == .live)

def Dev.modJob (d : Dev) (tag : Nat) (f : Job → Job) : Dev :=
  { d with jobs := d.jobs.map fun j => if j.tag = tag then f j else j }

/-- FRAME_LINES + GUTTER_LINES: the lines of one repeat (R15). -/
def Job.repeat_ (j : Job) : Nat := j.frameLines + j.gutterLines

/-- The start of frame `f` (R70, R103). -/
def Job.frameStart (j : Job) (f : Nat) : Nat := pwAdd j.j0 (256 * f * j.repeat_)

/-- The print line at a position; none before J0 (R15). -/
def Job.lineAt (j : Job) (pw : Nat) : Option Nat :=
  let x := pwDiff pw j.j0
  if x < 0 then none else some (x.toNat / 256)

/-- The frame in print (R15). -/
def Job.frameInPrint (j : Job) (pw : Nat) : Nat := ((j.lineAt pw).getD 0) / j.repeat_

/-! ## The recorder (R486 to R489) -/

/-- Write 64-bit words of a record from a byte offset. -/
def putWords (m : List (Nat × Nat)) (o : Nat) : List Nat → List (Nat × Nat)
  | [] => m
  | w :: t => putWords (if w = 0 then kvDel m (o / 8) else kvPut m (o / 8) w) (o + 8) t

/-- Write a record into the last area, after a PAD record if it would pass the end (R488). -/
def Dev.recLast (d : Dev) (rec : List Nat) : Dev :=
  let head := d.get Reg.REC_LAST_HEAD.HEAD
  let len := rec.length
  let d := if head + len ≤ 0x100000 then d else
    let rest := 0x100000 - head
    let d := { d with recd := { d.recd with mem := putWords d.recd.mem head (words64 32 ([0, rest / 8] ++ rec.drop 2 |>.take 8 |> padTo rest)) } }
    (d.put Reg.REC_LAST_HEAD.HEAD 0x40000).wrap Reg.REC_STAT.WRAPS
  let head := d.get Reg.REC_LAST_HEAD.HEAD
  let d := { d with recd := { d.recd with mem := putWords d.recd.mem head (words64 32 rec) } }
  if head + len = 0x100000 then (d.put Reg.REC_LAST_HEAD.HEAD 0x40000).wrap Reg.REC_STAT.WRAPS
  else d.put Reg.REC_LAST_HEAD.HEAD (head + len)

/-- Write the same record into the first area while it has room; a record that does not fit closes it (R488). -/
def Dev.recFirst (d : Dev) (rec : List Nat) : Dev :=
  if d.on Reg.REC_STAT.FIRST_FULL then d
  else
    let head := d.get Reg.REC_FIRST_HEAD.HEAD
    if head + rec.length ≤ 0x40000 then
      let d := { d with recd := { d.recd with mem := putWords d.recd.mem head (words64 32 rec) } }
      (d.put Reg.REC_FIRST_HEAD.HEAD (head + rec.length)).put Reg.REC_STAT.FIRST_HELD 1
    else d.put Reg.REC_STAT.FIRST_FULL 1

/-- Write one record of a type with the bytes after its header (R487, R488), from the end of the memory fill on (R486). The body's length
is a multiple of 8. -/
def Dev.record (d : Dev) (type : Nat) (body : List Nat) : Dev :=
  if !d.svc.filled then d else
  let seq := d.get Reg.REC_SEQ.SEQ
  let rec_ := [type, (body.length + 8) / 8] ++ leBytes 2 seq ++ leBytes 4 d.stamp ++ body
  let d := { d with recd := { d.recd with newest := rec_ :: d.recd.newest.take 63 } }
  ((d.recFirst rec_).recLast rec_).wrap Reg.REC_SEQ.SEQ

/-- The body of an EVENT record (R489). -/
def evtBody (e : Evt) (dropped : Bool) : List Nat :=
  leBytes 2 e.code ++ [e.sev, b2n dropped] ++ leBytes 6 e.pw ++ leBytes 6 e.loc
    ++ ((List.range 6).map fun i => leBytes 4 (e.args.getD i 0)).flatten

/-- Every event whose severity is at least MIN_SEV is recorded, dropped ones included (R489). -/
def Dev.recordEvt (d : Dev) (e : Evt) (dropped : Bool) : Dev :=
  if d.get Reg.REC_CFG.MIN_SEV ≤ e.sev then d.record 1 (evtBody e dropped) else d

/-! ## Outputs -/

/-- Send something: it joins the end of the record of outputs. -/
def Dev.send (d : Dev) (o : Output) : Dev := { d with out := d.out ++ [o] }

/-! ## Free values -/

/-- Draw a free value of `w` bits: nothing constrains it. -/
def Dev.draw (d : Dev) (w : Nat) : Nat × Dev := (Config.freeValue d.free % 2 ^ w, { d with free := d.free + 1 })

/-! ## Frames on lanes (R245, R256) -/

/-- Bytes 1 to 7 of a control block. -/
def control (type : Nat) (payload : List Nat) : LaneBlock := .control type (padTo 7 payload)

/-- A frame of a kind on `n` lanes: SOF on every lane, word k * n + l in slot k of lane l, PAD after the last word (R245). -/
def stripe (n kind : Nat) (words : List Nat) : List (List LaneBlock) :=
  let sof := control 0x4B (kind :: leBytes 2 words.length)
  List.replicate n sof :: (List.range (cdiv words.length n)).map fun k =>
    (List.range n).map fun l => match words[k * n + l]? with
      | some w => .data w
      | none => control 0xB4 []

/-- A frame in compatibility code groups: /S/, kind, LEN, the bytes, /T/ (R256). -/
def compatFrame (kind : Nat) (words : List Nat) : List (Bool × Nat) :=
  (true, 0xFB) :: ((kind :: leBytes 2 words.length ++ words.flatMap (leBytes 8)).map fun b => (false, b)) ++ [(true, 0xFD)]

/-! ## Lane ports (R239, R247, R260, R265) -/

/-- The receive macros of a port (R239). -/
def rxMacros (p : Nat) : List Nat := if p < 16 then [2] else if p < 18 then [0, 1, 2, 3] else [2, 3]

def isCamera (p : Nat) : Bool := p == 16 || p == 17

/-- Where a fault of the clock lane is reported (R239). -/
def clockMacro (p : Nat) : Nat := if p < 16 then 3 else 0

/-- Blocks of 66 bits that pass in a time at a rate code: 52.8, 26.4 or 13.2 ns each (R240, R243). -/
def blocksIn (rate ns : Nat) : Nat := ns * 10 * 2 ^ rate / 528

/-- The control block in slot `k` of a stream whose first ALIGN carries `seq`; none where it sends no blocks of its own (R247). -/
def streamSlot (seq : Nat) : TxStream → Nat → Option LaneBlock
  | .blocks _ align extra, k =>
    if k % align = align - 1 then some (control 0x78 [(seq + k / align) % 256])
    else match extra with
      | some (every, type, payload) => some (if k % every = 0 then control type payload else control 0x1E [])
      | none => some (control 0x1E [])
  | .wake rate, k =>
    let n := blocksIn rate 2000
    let every := if k < n then 8 else 16384
    some (if k % every = every - 1 then control 0x78 [(seq + min k n / 8 + (k - n) / 16384) % 256] else control 0x1E [])
  | _, _ => none

/-- ALIGNs that a stream has sent after a time. -/
def streamAligns (ns : Nat) : TxStream → Nat
  | .blocks rate align _ => blocksIn rate ns / align
  | .wake rate => blocksIn rate (min ns 2000) / 8 + blocksIn rate (ns - 2000) / 16384
  | _ => 0

def Dev.port (d : Dev) (p : Nat) : Port := d.lane.ports.getD p Port.start

def Dev.modPort (d : Dev) (p : Nat) (f : Port → Port) : Dev := { d with lane := { ports := modAt d.lane.ports p f } }

/-- What a transmitter sends changes; a camera port has none. -/
def Dev.transmit (d : Dev) (p : Nat) (x : TxStream) : Dev :=
  if isCamera p || (d.port p).tx == x then d
  else (d.modPort p fun y => { y with tx := x, txAt := d.tb, alignSeq := (y.alignSeq + streamAligns (d.since y.txAt) y.tx) % 256 }).send (.stream p x)

/-- The rate code in use. -/
def Dev.rate (d : Dev) (p : Nat) : Nat := d.get (Reg.LANE_PORT_STAT_p.RATE p)

/-- Compatibility mode (R255). -/
def Dev.compat (d : Dev) (p : Nat) : Bool := d.on (Reg.LANE_PORT_CFG_p.MODE p)

/-- Training blocks (R247), and what an UP transmitter sends between frames. -/
def Dev.training (d : Dev) (p : Nat) : TxStream := if d.compat p then .compat else .blocks (d.rate p) 32 none
def Dev.idling (d : Dev) (p : Nat) : TxStream := if d.compat p then .compat else .blocks (d.rate p) 16384 none

/-- `n` control blocks on a native port that has transmit lanes. -/
def Dev.sendBlocks (d : Dev) (p n type : Nat) (payload : List Nat) : Dev :=
  if isCamera p || d.compat p then d else (List.range n).foldl (fun d _ => d.send (.block p type payload)) d

/-- A port enters a stage; LANE_UP_MASK follows. -/
def Dev.setStage (d : Dev) (p stage : Nat) : Dev :=
  let d := (d.put (Reg.LANE_PORT_STAT_p.STATE p) stage).modPort p fun x => { x with stageAt := d.tb }
  d.put Reg.LANE_UP_MASK.UP (setBit (d.get Reg.LANE_UP_MASK.UP) p (stage == 6))

/-- A port is UP. -/
def Dev.portIsUp (d : Dev) (p : Nat) : Bool := decide (d.get (Reg.LANE_PORT_STAT_p.STATE p) = 6)

/-- A frame can leave on a port: UP, the far receiver not resynchronising (R265), the transmitter not returning what it receives (R263). -/
def Dev.portSends (d : Dev) (p : Nat) : Bool := d.portIsUp p && !(d.port p).farLost && !(d.port p).loop

/-- Wake a transmitter: it trains for 2 us before a frame (R260). -/
def Dev.wakeTx (d : Dev) (p : Nat) : Dev :=
  if d.on (Reg.LANE_PORT_STAT_p.TX_IDLE p) then
    ((d.put (Reg.LANE_PORT_STAT_p.TX_IDLE p) 0).modPort p fun x => { x with lastTx := d.tb, trainTo := tbPlus d.tb 2000 }).transmit p (.wake (d.rate p))
  else d

/-- A frame leaves on a port: the transmitter has something to send, and wakes for it. -/
def Dev.portTx (d : Dev) (p : Nat) : Dev := (d.wakeTx p).modPort p fun x => { x with lastTx := d.tb }

/-! ## Ring messages (R350, R352) -/

/-- The node number (R344). -/
def Dev.node (d : Dev) : Nat := 2 * d.get Reg.RING_NODE.MEMBER + d.get Reg.RING_NODE.UNIT

/-- The CRC word of a message (R350). -/
def ringCrc (words : List Nat) : Nat :=
  let w := words.headD 0
  crc32c ([bitsOf w 8 4, 0x40] ++ leBytes 2 (bitsOf w 32 16) ++ leBytes 2 (bitsOf w 48 16) ++ [0, 0] ++ (words.map (leBytes 8)).flatten)

/-- The time a frame of `len` words takes on a port with two transmit lanes, 2^-16 ns: SOF and the data blocks, or code groups in compatibility
mode (R245, R256). -/
def Dev.frameTime (d : Dev) (p len : Nat) : Nat :=
  if d.compat p then cdiv ((5 + 8 * len) * 8 * 65536) (2 ^ d.rate p) else cdiv ((1 + cdiv len 2) * 528 * 65536) (10 * 2 ^ d.rate p)

/-- Messages that wait on a ring port, with the TB at which each came, and when the port's lanes are free, in 2^-16 ns of TB. -/
def Dev.ringQueue (d : Dev) (p : Nat) : List (Nat × List Nat) := d.net.outq.getD (p - 18) []
def Dev.setQueue (d : Dev) (p : Nat) (q : List (Nat × List Nat)) : Dev := { d with net := { d.net with outq := setAt d.net.outq (p - 18) q } }
def Dev.ringBusy (d : Dev) (p : Nat) : Nat := d.net.busy.getD (p - 18) 0
def Dev.setBusy (d : Dev) (p t : Nat) : Dev := { d with net := { d.net with busy := setAt d.net.busy (p - 18) t } }

/-- The place of a message's TYPE in the order of R352: PW, BEAT, MISMATCH, ARBITER, STOP_REQ, all others. -/
def ringRank (words : List Nat) : Nat :=
  match bitsOf (words.headD 0) 0 8 with
  | 2 => 0
  | 3 => 1
  | 7 => 2
  | 8 => 3
  | 4 => 4
  | _ => 5

/-- A message takes its place in a queue: after those of its own priority and of higher ones (R352). -/
def byRank (m : Nat × List Nat) : List (Nat × List Nat) → List (Nat × List Nat)
  | [] => [m]
  | x :: t => if ringRank x.2 ≤ ringRank m.2 then x :: byRank m t else m :: x :: t

/-- Residence in 1/32 ns: the wait in the queue and what handling takes, which is open; at most 1 us (R352). -/
def residence (wait handling : Nat) : Nat := min 32000 (32 * wait + handling)

/-- What a message says of its departure `wait` ns after it was queued: AGE of an own PW, PATH of a forwarded one, the residence of a
DELAY response (R351 to R353). -/
def departing (words : List Nat) (wait handling : Nat) : List Nat :=
  let w0 := words.headD 0
  match bitsOf w0 0 8, bitsOf w0 18 4 with
  | 2, 0 =>
    let w2 := words.getD 2 0
    setAt words 2 (w2 - w2 % 2 ^ 32 + min 0xFFFFFFFF (w2 % 2 ^ 32 + wait))
  | 2, _ => setAt words 3 ((words.getD 3 0 + residence wait handling) % 2 ^ 32)
  | 12, _ => if bitOf (words.getD 1 0) 0 then setAt words 2 (residence wait handling) else words
  | _, _ => words

/-- A message queued at TB `at_` leaves at `start`: a frame of kind 4 (R350). The departure of a DELAY request is stamped (R353). -/
def Dev.ringGo (d : Dev) (p at_ start : Nat) (words : List Nat) : Dev :=
  let (f, d) := d.draw 15
  let ws := departing words (start / 65536 - at_) f
  let d := (d.modPort p fun x => { x with lastTx := d.tb }).send (.lanes p (stripe 2 4 (ws ++ [ringCrc ws])))
  let d := d.setBusy p (start + d.frameTime p (ws.length + 1))
  if bitsOf (ws.headD 0) 0 8 = 12 ∧ !bitOf (ws.getD 1 0) 0 then
    { d with net := { d.net with asked := d.net.asked ++ [(p, bitsOf (ws.headD 0) 32 16, start / 2048 + f % 32)] } }
  else d

/-- The messages that could leave on a ring port before now have left, one behind the other. -/
def Dev.ringDrainN : Nat → Dev → Nat → Dev
  | 0, d, _ => d
  | n + 1, d, p =>
    match d.ringQueue p with
    | [] => d
    | m :: t => if d.ringBusy p ≤ d.tb * 65536 then ((d.setQueue p t).ringGo p m.1 (d.ringBusy p) m.2).ringDrainN n p else d

/-- The same; on a port on which no frame can leave nothing waits (R265, R352). -/
def Dev.ringDrain (d : Dev) (p : Nat) : Dev :=
  if d.portSends p then d.ringDrainN (d.ringQueue p).length p else d.setQueue p []

/-- Send a message on one ring port, if frames can leave on it (R265, R352): at once, or by its priority once a frame that is leaving has
ended and the transmitter, if it slept, has trained (R260). -/
def Dev.ringOut (d : Dev) (p : Nat) (words : List Nat) : Dev :=
  let d := d.ringDrain p
  if !d.portSends p then d
  else
    let d := d.wakeTx p
    let free := max (d.ringBusy p) ((d.port p).trainTo * 65536)
    if d.ringQueue p = [] ∧ free ≤ d.tb * 65536 then d.ringGo p d.tb (d.tb * 65536) words
    else (d.setBusy p free).setQueue p (byRank (d.tb, words) (d.ringQueue p))

/-- The unit has a duplex partner (R344, R359), and the partner's node. -/
def Dev.duplexed (d : Dev) : Bool := d.on Reg.RING_CFG.EN && d.on Reg.RING_CFG.PARTNER
def Dev.partnerNode (d : Dev) : Nat := Nat.xor d.node 1

/-- The unit is ACTIVE: with a partner only from entry to READY on (R34, R359). -/
def Dev.actsActive (d : Dev) : Bool := d.active && (!d.duplexed || d.mode.printing)

/-- Word 0 of a message of this node (R350). -/
def Dev.ringWord0 (d : Dev) (type dst : Nat) (bcast : Bool) (dir : Nat) : Nat :=
  type + d.node * 2 ^ 8 + dst * 2 ^ 12 + b2n bcast * 2 ^ 16 + dir * 2 ^ 17 + d.get Reg.RING_STAT.EPOCH * 2 ^ 22 + b2n d.actsActive * 2 ^ 26
    + d.net.seqs.getD type 0 * 2 ^ 32 + d.get Reg.RING_CFG.RING_ID * 2 ^ 48

/-- Send a message of a type on both ports, the EAST copy with DIR 0 and the WEST copy with DIR 1. -/
def Dev.ringSend (d : Dev) (type dst : Nat) (bcast : Bool) (payload : List Nat) : Dev :=
  if !d.on Reg.RING_CFG.EN || !d.mode.served then d
  else
    let d := (d.ringOut 18 (d.ringWord0 type dst bcast 0 :: payload)).ringOut 19 (d.ringWord0 type dst bcast 1 :: payload)
    { d with net := { d.net with seqs := modAt d.net.seqs type fun n => (n + 1) % 65536 } }

/-- Payload words of partner records, at most 64 to a message (R351). -/
def parts64 : Nat → List Nat → List (List Nat)
  | 0, ws => [ws]
  | n + 1, ws => if ws.length ≤ 64 then [ws] else ws.take 64 :: parts64 n (ws.drop 64)

/-- A partner record to the partner, with the line at which it takes effect: MIRROR 9, DECISION 10, SNAPSHOT 11; in several messages where
it has more than 64 words. Its words are the image's own (R361). -/
def Dev.partnerSend (d : Dev) (type tag line : Nat) (r : PartnerRec) : Dev :=
  if !d.duplexed then d
  else
    let ws := Config.recordWords tag line r
    let dst := d.partnerNode
    (parts64 ws.length ws).foldl (fun d part => d.ringSend type dst false part) d

/-- The same from an ACTIVE unit (R361). -/
def Dev.mirror (d : Dev) (type tag line : Nat) (r : PartnerRec) : Dev := if d.active then d.partnerSend type tag line r else d

/-- The node that a message to member 0 is for: unit B where the roster shows it alone ACTIVE, else unit A. -/
def Dev.masterNode (d : Dev) : Nat := b2n (bitsOf (d.get Reg.RING_ROSTER.ACTIVE) 0 2 == 2)

/-- A stop that a follower's active unit asks the master for (R351, R357): QUICK and the PSI input, or 7 for a policy stop. -/
def Dev.stopReq (d : Dev) (quick : Bool) (input : Nat) : Dev :=
  if d.active then d.ringSend 0x04 d.masterNode false [b2n quick + 2 * input] else d

/-! ## DMA channels (R108, R110 to R112, R124) -/

/-- The DMA channel that serves a ring (R108). -/
def Dev.channelOf (d : Dev) (n : Nat) : Nat :=
  match d.get (Reg.HOST_RING_CFG_n.KIND n) with
  | 0 => 3
  | 1 => 4 + n % 4
  | 2 => 2
  | 3 => 1
  | 4 => 8
  | _ => 9 + n % 4

/-- Bytes that a channel has moved (DMA_CH_BYTES_n, wrapping). -/
def Dev.moved (d : Dev) (ch bytes : Nat) : Dev :=
  d.put (Reg.DMA_CH_BYTES_n.BYTES ch) (d.get (Reg.DMA_CH_BYTES_n.BYTES ch) + bytes)

/-- Bytes moved by the channel of a ring. -/
def Dev.movedRing (d : Dev) (n bytes : Nat) : Dev := d.moved (d.channelOf n) bytes

/-- Requests to host memory may be issued: Bus Master Enable is set and the function is in D0 (R75, R76). -/
def Dev.canRequest (d : Dev) : Bool := d.host.busMaster && !d.host.d3hot

/-- A channel is stopped. -/
def Dev.chStopped (d : Dev) (ch : Nat) : Bool := decide (d.get (Reg.DMA_CH_STAT_n.STATE ch) = 3)

def WrKind.isFail : WrKind → Bool
  | .fail _ _ => true
  | _ => false

def WrKind.isData : WrKind → Bool
  | .data _ => true
  | _ => false

/-- A channel is about to stop: the write-back of its failed descriptor is not over (R122). -/
def Dev.chFailing (d : Dev) (ch : Nat) : Bool := d.host.writes.any fun w => w.ch == ch && w.kind.isFail

def Dev.chan (d : Dev) (ch : Nat) : Chan := d.dma.chans.getD ch ⟨none, [], 0⟩

def Dev.modChan (d : Dev) (ch : Nat) (f : Chan → Chan) : Dev :=
  { d with dma := { d.dma with chans := modAt d.dma.chans ch f } }

/-- Reads of a channel without an answer: the doorbell read on channel 0, the reads of a list, and those of a transfer that has failed. -/
def Chan.tags (c : Chan) : Nat :=
  c.stale.length + (match c.run with
    | some r => if r.words.all (fun w => !bitOf (w.getD 0 0) 30) then r.open_.length else 0
    | none => 0)

def Dev.tagsOf (d : Dev) (ch : Nat) : Nat := (d.chan ch).tags + (if ch = 0 then b2n d.host.dbBusy else 0)

/-- Every tag in use. -/
def Dev.tagsUsed (d : Dev) : Nat := ((List.range 16).map d.tagsOf).foldl (· + ·) 0

/-- Tags that a channel can draw: 16 of its own on channels 0 and 3, else from the shared 736 (R112). -/
def Dev.freeTags (d : Dev) (ch : Nat) : Nat :=
  if ch = 0 ∨ ch = 3 then 16 - d.tagsOf ch
  else 736 - (((List.range 16).filter fun c => c != 0 && c != 3).map d.tagsOf).foldl (· + ·) 0

/-- DMA_TAGS.PEAK is the highest number of tags seen in use. -/
def Dev.peak (d : Dev) (n : Nat) : Dev := if d.get Reg.DMA_TAGS.PEAK < n then d.put Reg.DMA_TAGS.PEAK n else d

/-- The reads of a ring's channel: one request for each burst, answered in the step that takes what they bring (R111, R115). -/
def Dev.reads (d : Dev) (ch addr len : Nat) : Dev :=
  let bs := farBursts addr len d.dma.maxRead
  let d := { d with out := d.out ++ bs.map fun (b : Nat × Nat × Nat) => Output.hostRead ch b.1 b.2.2 }
  d.peak (d.tagsUsed + min bs.length (d.freeTags ch))

/-! ## Interrupts (R96) -/

def Dev.ringSt (d : Dev) (n : Nat) : RingSt := d.host.rings.getD n RingSt.reset

def Dev.modRing (d : Dev) (n : Nat) (f : RingSt → RingSt) : Dev :=
  { d with host := { d.host with rings := modAt d.host.rings n f } }

/-- The channel that sends a vector's message: channel 1 for vector 0, else that of the lowest enabled ring with the vector (R108, R109). -/
def Dev.vecChannel (d : Dev) (v : Nat) : Nat :=
  if v = 0 then 1
  else match (List.range 32).find? fun n => d.on (Reg.HOST_RING_CFG_n.EN n) && decide (d.get (Reg.HOST_RING_CFG_n.VEC n) = v) with
    | some n => d.channelOf n
    | none => 1

/-- A vector's message can leave a channel now: it is not masked, and the channel may issue requests (R76, R96, R124). -/
def Dev.vecOpen (d : Dev) (v ch : Nat) : Bool := !bitOf d.host.msixMask v && d.canRequest && !d.chStopped ch

/-- Send a vector's message on a channel, or set its pending bit. -/
def Dev.raiseOn (d : Dev) (v ch : Nat) : Dev :=
  if d.vecOpen v ch then
    let (lo, hi, x) := d.host.msixTable.getD v (0, 0, 0)
    d.send (.msix ch v (lo + 2 ^ 32 * hi) x)
  else { d with host := { d.host with msixPend := setBit d.host.msixPend v true } }

def Dev.raiseVec (d : Dev) (v : Nat) : Dev := d.raiseOn v (d.vecChannel v)

/-- Send every message that pends and can now leave. -/
def Dev.sendPending (d : Dev) : Dev :=
  (List.range 32).foldl (fun d v =>
    if bitOf d.host.msixPend v && d.vecOpen v (d.vecChannel v) then
      ({ d with host := { d.host with msixPend := setBit d.host.msixPend v false } }).raiseVec v
    else d) d

/-- Signal on a ring's vector: one message covers every completion not yet signalled on that vector. -/
def Dev.signalRing (d : Dev) (n : Nat) : Dev :=
  let v := d.get (Reg.HOST_RING_CFG_n.VEC n)
  let rs := (List.range d.host.rings.length).zip d.host.rings |>.map fun (i, r) =>
    if d.get (Reg.HOST_RING_CFG_n.VEC i) = v ∧ d.on (Reg.HOST_RING_CFG_n.EN i) then { r with unsig := 0 } else r
  ({ d with host := { d.host with rings := rs } }).raiseOn v (d.channelOf n)

/-- One more completion on a ring; it signals at once, or by COAL_CNT (R96). -/
def Dev.noteCompletion (d : Dev) (n : Nat) (atOnce : Bool) : Dev :=
  let d := d.modRing n fun r => { r with unsig := r.unsig + 1, oldest := if r.unsig = 0 then d.tb else r.oldest }
  let c := d.get (Reg.HOST_RING_COAL_n.COAL_CNT n)
  if atOnce || (decide (c ≠ 0) && decide (c ≤ (d.ringSt n).unsig)) then d.signalRing n else d

/-! ## Writes to host memory (R87, R109, R110, R116) -/

/-- The write that a channel would issue next, if what is before it lets it go: data follow one another, every other write waits until
those before it have their response. Word 0 of a transfer descriptor and of one that failed are issued by the rows that go on from them. -/
def nextWr (ch : Nat) : Bool → List Wr → Option Wr
  | _, [] => none
  | first, w :: t =>
    if w.ch ≠ ch then nextWr ch first t
    else if w.sent then nextWr ch false t
    else match w.kind with
      | .data _ => some w
      | .fields | .last _ | .block => if first then some w else none
      | .next | .fail _ _ => none

/-- A channel has a write that it may issue. -/
def Dev.writeReady (d : Dev) (ch : Nat) : Bool := d.canRequest && !d.chStopped ch && (nextWr ch true d.host.writes).isSome

/-- The first write of a channel that is not issued counts as issued. -/
def markSent (ch : Nat) : List Wr → List Wr
  | [] => []
  | w :: t => if w.ch = ch ∧ !w.sent then { w with sent := true } :: t else w :: markSent ch t

/-- Issue a write. Word 0 of a ring descriptor lets its completion count for the ring's vector (R96). -/
def Dev.issueWr (d : Dev) (ch : Nat) (w : Wr) : Dev :=
  let d := { d with host := { d.host with writes := markSent ch d.host.writes } }
  let d := (d.send (.hostWrite ch w.addr w.bytes w.ep)).moved ch w.bytes.length
  match w.kind with
  | .last urgent | .fail _ urgent => d.noteCompletion w.ring urgent
  | _ => d

/-- The arbiter grants writes while a channel has one ready (R110). -/
def Dev.pump : Nat → Dev → Dev
  | 0, d => d
  | fuel + 1, d =>
    match grant d.writeReady with
    | none => d
    | some ch =>
      match nextWr ch true d.host.writes with
      | none => d
      | some w => Dev.pump fuel (d.issueWr ch w)

/-- Writes join their channels, and the arbiter grants what is ready. -/
def Dev.pushWrites (d : Dev) (ws : List Wr) : Dev :=
  let d := { d with host := { d.host with writes := d.host.writes ++ ws } }
  Dev.pump (d.host.writes.length) d

/-- Write back a descriptor as R87 orders: each run of returned words, then word 0 with OWN = 0. -/
def Dev.writeBack (d : Dev) (ch ring idx addr : Nat) (fields : List (Nat × List Nat)) (w0 : Nat) (kind : WrKind) : Dev :=
  d.pushWrites (fields.map (fun f => ⟨ch, ring, idx, addr + f.1, f.2, false, .fields, false⟩)
    ++ [⟨ch, ring, idx, addr, leBytes 4 w0, false, kind, false⟩])

/-- Words 14 and 15 of a completion (R79). -/
def statusBytes (code detail sflags stamp : Nat) : List Nat := leBytes 4 (code + 2 ^ 8 * sflags + 2 ^ 16 * detail) ++ leBytes 4 stamp

/-- Word 0 of a completed descriptor: OWN is 0 (R79, R88). -/
def word0 (op flags seq : Nat) : Nat := op * 2 ^ 24 + flags * 2 ^ 16 + seq

/-! ## Rings -/

/-- The enabled ring of a kind, lowest number first. -/
def Dev.ringOfKind (d : Dev) (k : Nat) : Option Nat :=
  (List.range 32).find? fun n => d.on (Reg.HOST_RING_CFG_n.EN n) && decide (d.get (Reg.HOST_RING_CFG_n.KIND n) = k)

/-- Descriptors published and not yet taken (R78). -/
def Dev.published (d : Dev) (n : Nat) : Nat :=
  (d.get (Reg.HOST_RING_CONS_n.PROD n) + 65536 - d.get (Reg.HOST_RING_CONS_n.CONS n)) % 65536

/-- A channel may issue the reads of a ring: requests are allowed, no stop is due, no tag of a failed transfer is outstanding, and a tag is
free (R76, R112, R122, R125). -/
def Dev.chCanRead (d : Dev) (ch : Nat) : Bool :=
  d.canRequest && !d.chFailing ch && (d.chan ch).stale.isEmpty && decide (d.freeTags ch ≠ 0)

/-- A ring can be served: enabled, not stopped, a descriptor published, not waiting on OWN (R85), and its channel can read. -/
def Dev.ringReady (d : Dev) (n : Nat) : Bool :=
  d.on (Reg.HOST_RING_CFG_n.EN n) && !d.on (Reg.HOST_RING_STAT_n.STOPPED n) && decide (d.published n ≠ 0)
    && decide ((d.ringSt n).ownRetry = 0) && d.chCanRead (d.channelOf n)

/-- The host address of descriptor `idx` of a ring (R78). -/
def Dev.descAddr (d : Dev) (n idx : Nat) : Nat :=
  d.get2 (Reg.HOST_RING_BASE_LO_n.BASE_LO n) (Reg.HOST_RING_BASE_HI_n.BASE_HI n) + 64 * (idx % 2 ^ d.get (Reg.HOST_RING_CFG_n.LOG2SIZE n))

/-- Take the next descriptor of a ring: it is fetched, and the ring moves on (R78). -/
def Dev.advance (d : Dev) (n : Nat) : Dev :=
  let d := d.reads (d.channelOf n) (d.descAddr n (d.get (Reg.HOST_RING_CONS_n.CONS n))) 64
  ((d.put (Reg.HOST_RING_CONS_n.CONS n) (d.get (Reg.HOST_RING_CONS_n.CONS n) + 1)).movedRing n 64).modRing n fun r => { r with fetchAt := d.tb }

/-! ## Events (R94 to R98) -/

/-- The severities of R94. -/
def sevInfo : Nat := 0
def sevWarn : Nat := 1
def sevVerdict : Nat := 2
def sevFault : Nat := 3
def sevFatal : Nat := 4

/-- What the device does with an Event descriptor that is not a plain empty one: status and DETAIL where it is refused (R8, R90, R91). -/
def evtBad (x : Desc) : Option (Nat × Nat) :=
  let op := bitsOf (x.words.getD 0 0).toNat 24 7
  if op ≠ 0x40 then some (if [0x00, 0x01, 0x02, 0x03, 0x04, 0x05, 0x06, 0x08, 0x09, 0x0A, 0x0C, 0x0D, 0x0E, 0x0F, 0x10, 0x20, 0x28, 0x48, 0x50].contains op
    then 0x03 else 0x02, 0)
  else if bitsOf (x.words.getD 0 0).toNat 18 6 ≠ 0 then some (0x01, 0)
  else match [1, 2, 3, 4, 5, 6, 7, 8, 9, 10, 11, 12, 13].find? fun i => decide ((x.words.getD i 0).toNat ≠ 0) with
    | some i => some (0x01, i)
    | none => none

/-- The next descriptor of the Event ring where the host has not published a plain empty one. -/
def Dev.evHead (d : Dev) (n : Nat) : Option Desc := kvGet d.host.evDescs (d.get (Reg.HOST_RING_CONS_n.CONS n))

/-- Why the next Event descriptor is refused. -/
def Dev.evHeadBad (d : Dev) (n : Nat) : Option (Nat × Nat) := (d.evHead n).bind evtBad

/-- The Event ring that can be served, in the states that serve it (R31: SAFE has the Event ring only). -/
def Dev.evRing (d : Dev) : Option Nat :=
  if d.mode.served || d.mode == .safe then
    match d.ringOfKind 3 with
    | some n => if d.ringReady n then some n else none
    | none => none
  else none

/-- The Event ring with a descriptor that the device owns and can fill. -/
def Dev.evFree (d : Dev) : Option Nat :=
  match d.evRing with
  | some n => if (d.evHeadBad n).isSome then none else some n
  | none => none

/-- The 64 bytes of an event in its descriptor (R94). -/
def evtWords (e : Evt) : List Nat :=
  [word0 0x40 (b2n e.lost + 2 * b2n e.urgent) e.seq, e.pw % 2 ^ 32, e.pw / 2 ^ 32 % 65536, e.code % 65536 + e.sev % 8 * 2 ^ 16, e.loc % 2 ^ 32, e.loc / 2 ^ 32]
    ++ ((List.range 8).map fun i => e.args.getD i 0 % 2 ^ 32) ++ [0, e.stamp]

/-- A descriptor of the Event ring is used up: it is fetched and counted. -/
def Dev.takeEvt (d : Dev) (n : Nat) : Dev :=
  let idx := d.get (Reg.HOST_RING_CONS_n.CONS n)
  let d := (d.advance n).modRing n fun r => { r with done := (r.done + 1) % 65536 }
  { d with host := { d.host with evDescs := kvDel d.host.evDescs idx } }

/-- Write an event into the next Event ring descriptor (R94). -/
def Dev.writeEvt (d : Dev) (n : Nat) (e : Evt) : Dev :=
  let idx := d.get (Reg.HOST_RING_CONS_n.CONS n)
  let irq := (d.evHead n).any fun x => bitOf (x.words.getD 0 0).toNat 16
  let at_ := d.descAddr n idx
  let d := (d.takeEvt n).send (.event idx e)
  let ws := evtWords e
  d.writeBack (d.channelOf n) n idx at_ [(4, (ws.drop 1).flatMap (leBytes 4))] (ws.headD 0) (.last (e.urgent || irq))

/-- Event descriptors that are refused complete as the Event ring reaches them; SEQ is the event sequence that comes next (R80, R90). -/
def Dev.dropBadEvts : Nat → Dev → Dev
  | 0, d => d
  | fuel + 1, d =>
    match d.evRing with
    | none => d
    | some n =>
      match d.evHead n, d.evHeadBad n with
      | some x, some (code, detail) =>
        let idx := d.get (Reg.HOST_RING_CONS_n.CONS n)
        let at_ := d.descAddr n idx
        let op := bitsOf (x.words.getD 0 0).toNat 24 7
        let d := ((d.takeEvt n).bump (Reg.HOST_RING_STAT_n.ERRORS n)).send (.completion n idx op d.host.evSeq code detail 0 d.stamp [])
        Dev.dropBadEvts fuel (d.writeBack (d.channelOf n) n idx at_ [(56, statusBytes code detail 0 d.stamp)] (word0 op 0 d.host.evSeq) (.last true))
      | _, _ => d

/-- A new event with the next event sequence (R94). -/
def Dev.newEvt (d : Dev) (code sev : Nat) (args : List Nat) (loc : Nat) (reject : Bool) : Evt × Dev :=
  (⟨code, sev, d.host.evSeq, d.pos.pw, loc, args, d.stamp, false, decide (3 ≤ sev) || reject⟩,
   { d with host := { d.host with evSeq := (d.host.evSeq + 1) % 65536 } })

/-- EVENTS_LOST is the first event written after a run of dropped events, with LOST set (R95, R98). -/
def Dev.flushLost (d : Dev) (n : Nat) : Dev :=
  if d.host.dropRun = 0 then d
  else
    let (e, d) := d.newEvt 0x1003 sevWarn [d.host.dropRun, d.host.dropFirst] 0 false
    let d := { d with host := { d.host with dropRun := 0 } }
    (d.recordEvt e false).writeEvt n { e with lost := true }

/-- HOST_BEHIND, where due, follows EVENTS_LOST (R98). -/
def Dev.flushBehind (d : Dev) : Dev :=
  match d.evFree with
  | none => d
  | some n =>
    if d.host.behindDue then
      let (e, d) := d.newEvt 0x1004 sevFault [d.host.evQueue.length] 0 false
      let d := { d with host := { d.host with behindDue := false } }
      (d.recordEvt e false).writeEvt n e
    else d

/-- Then the queued events leave in order while descriptors last. -/
def Dev.flushQueue : Nat → Dev → Dev
  | 0, d => d
  | k + 1, d =>
    match d.evFree, d.host.evQueue with
    | some n, e :: t =>
      Dev.flushQueue k (({ d with host := { d.host with evQueue := t } }).writeEvt n e)
    | _, _ => d

/-- Serve the Event ring with what waits. -/
def Dev.flushEvents (d : Dev) : Dev :=
  let d := Dev.dropBadEvts 65536 d
  match d.evFree with
  | none => d
  | some n => Dev.flushQueue 1024 (d.flushLost n).flushBehind

/-- A stop of the web as by STOP: at the profile's deceleration, unless one is in progress (R303, R309). -/
def Dev.stopWeb (d : Dev) : Dev :=
  if d.follower then d.stopReq false 7
  else match d.linen.stop with
  | some _ => d
  | none => { d with linen := { d.linen with stop := some ⟨d.linen.prof.decel, false, false, []⟩ } }

/-- The policy action QUICK_STOP: A_G and J_G (R309). -/
def Dev.quickStop (d : Dev) : Dev :=
  let dec := d.get Reg.LINEN_GOV_DEC.A_G * 16
  if d.follower then d.stopReq true 7
  else match d.linen.stop with
  | some w => { d with linen := { d.linen with stop := some { w with quick := true, decel := dec } } }
  | none => { d with linen := { d.linen with stop := some ⟨dec, true, false, []⟩ } }

/-- A policy action: 0 CONTINUE, 1 STOP, 2 QUICK_STOP (R322). -/
def Dev.policyStop (d : Dev) (action : Nat) : Dev :=
  match action with
  | 0 => d
  | 1 => d.stopWeb
  | _ => d.quickStop

/-- An event that finds no owned descriptor: the queue takes VERDICT, FAULT and FATAL while it has room; every other event is
dropped and counted (R98). The event that fills the queue makes HOST_BEHIND due and stops the web. -/
def Dev.holdEvt (d : Dev) (e : Evt) : Dev :=
  if 2 ≤ e.sev ∧ d.host.evQueue.length < 1024 then
    let d := (d.recordEvt e false)
    let d := { d with host := { d.host with evQueue := d.host.evQueue ++ [e] } }
    if d.host.evQueue.length = 1024 then ({ d with host := { d.host with behindDue := true } }).stopWeb else d
  else
    let d := (d.recordEvt e true).bump Reg.HOST_EVT_LOST.LOST
    { d with host := { d.host with dropFirst := (if d.host.dropRun = 0 then e.seq else d.host.dropFirst), dropRun := d.host.dropRun + 1 } }

/-- The events that SAFE still posts: GLB, DB_READ_FAIL, and the sensor, clock and memory groups (R476). -/
def safeEvent (code : Nat) : Bool := decide (code / 4096 = 0) || code == 0x1002 || decide (code / 4096 = 6) || decide (code / 4096 = 12)

/-- Produce an event: into the Event ring, into the queue, or dropped; recorded in each case (R94, R98, R489). -/
def Dev.emit (d : Dev) (code sev : Nat) (args : List Nat) (loc : Nat) (reject : Bool) : Dev :=
  if d.mode = .safe ∧ !safeEvent code then d
  else
  let d := d.flushEvents
  let (e, d) := d.newEvt code sev args loc reject
  match d.evFree, d.host.evQueue with
  | some n, [] => (d.recordEvt e false).writeEvt n e
  | _, _ => d.holdEvt e

/-- REC_FIRST_FULL is posted when the record that does not fit closes the first area (R488, R506). -/
def Dev.firstFull (before d : Dev) : Dev :=
  if d.on Reg.REC_STAT.FIRST_FULL && !before.on Reg.REC_STAT.FIRST_FULL then
    d.emit 0xE001 sevInfo [(d.get Reg.REC_SEQ.SEQ + 65535 - 1) % 65536, d.get Reg.REC_FIRST_HEAD.HEAD] 0 false
  else d

/-- Post an event with a location code; FATAL events also signal vector 0 (R96). -/
def Dev.postAt (d : Dev) (code sev : Nat) (args : List Nat) (loc : Nat) : Dev :=
  let e := d.firstFull (d.emit code sev args loc false)
  if sev = sevFatal then e.raiseVec 0 else e

/-- Post an event. -/
def Dev.post (d : Dev) (code sev : Nat) (args : List Nat) : Dev := d.postAt code sev args 0

/-- Post a verdict event; one for a REJECT is URGENT (R97). -/
def Dev.postVerdict (d : Dev) (code : Nat) (args : List Nat) (reject : Bool) : Dev :=
  d.firstFull (d.emit code sevVerdict args 0 reject)

/-- Write a record that is no event. -/
def Dev.recordNow (d : Dev) (type : Nat) (body : List Nat) : Dev := d.firstFull (d.record type body)

/-! ## Location codes (R24) -/

/-- The packed form of a location code of this device: package is the ring node number. -/
def Dev.loc (d : Dev) (die cluster engine tile macro_ cell : Nat) : Nat :=
  (if d.on Reg.RING_CFG.EN then d.node else 0) * 2 ^ 44 + die * 2 ^ 40 + cluster * 2 ^ 36
    + engine * 2 ^ 28 + tile * 2 ^ 20 + macro_ * 2 ^ 8 + cell

/-- How many engines each cluster of die 0 has (R25). -/
def engineCounts : List Nat := [7, 3, 66, 20, 14, 2]

/-- The engines of a cluster that R25 numbers. -/
def enginesOf (cluster : Nat) : Nat := engineCounts.getD cluster 1

/-- A location that the spec leaves open, or that the hardware reports, held to the ranges of R23 and the engines of R25: a code that they
allow stays as it is. -/
def Dev.heldLoc (d : Dev) (v : Nat) : Nat :=
  if bitsOf v 40 4 = 1 then d.loc 1 0 (bitsOf v 28 8 % 16) (bitsOf v 20 8 % 2) (bitsOf v 8 12 % 32) (bitsOf v 0 8 % 73)
  else
    let c := bitsOf v 36 4 % 6
    d.loc 0 c (bitsOf v 28 8 % enginesOf c) (bitsOf v 20 8) (bitsOf v 8 12) (bitsOf v 0 8 % 73)

/-! ## Capture records (R495, R500) -/

/-- A record into the capture stream: dropped when the 8 MiB buffer is full (R500). -/
def Dev.capture (d : Dev) (type : Nat) (body : List Nat) : Dev :=
  if d.recd.cap != .running then d
  else
    let body := padTo (cdiv body.length 8 * 8) body
    let rec_ := [type, 0] ++ leBytes 2 ((body.length + 8) / 8) ++ leBytes 4 d.stamp ++ body
    if d.recd.capBytes + rec_.length ≤ 8388608 ∧ d.recd.gap = none then
      let d := { d with recd := { d.recd with
        capBuf := d.recd.capBuf ++ [rec_]
        capBytes := d.recd.capBytes + rec_.length
        capRecords := d.recd.capRecords + 1
        capDecoded := d.recd.capDecoded + rec_.length } }
      let kib := cdiv d.recd.capBytes 1024
      let d := d.put Reg.REC_CAP_BUF.KIB kib
      if d.get Reg.REC_CAP_BUF.PEAK < kib then d.put Reg.REC_CAP_BUF.PEAK kib else d
    else
      let first := d.recd.gap = none
      let g := match d.recd.gap with
        | none => (1, d.stamp, d.stamp)
        | some (n, a, _) => (n + 1, a, d.stamp)
      let d := { d with recd := { d.recd with gap := some g } }
      let d := d.put Reg.REC_CAP_STAT.BROKEN 1
      if first then
        let d := d.bump Reg.REC_CAP_CNT.GAPS
        if d.on Reg.REC_CAP_STAT.STRICT then d.stopWeb else d
      else d

/-! ## Completions (R87 to R89) -/

/-- SFLAGS.GOVERNED of a STOP or SET_SPEED (R313). -/
def Dev.govFlag (d : Dev) (op : Nat) : Nat := if op = 0x09 ∨ op = 0x0A then 2 * d.get Reg.LINEN_STAT.GOVERNED else 0

/-- Complete a descriptor of a host-to-device ring now; `held` is SFLAGS.DECEL_HELD. -/
def Dev.completeNow (d : Dev) (t : Ticket) (code detail held : Nat) : Dev :=
  let sflags := held + d.govFlag t.op
  let d := { d with host := { d.host with taken := d.host.taken.filter fun u => !(u.ring == t.ring && u.idx == t.idx) } }
  let d := if code = 0 then d else d.bump (Reg.HOST_RING_STAT_n.ERRORS t.ring)
  let d := d.send (.completion t.ring t.idx t.op t.seq code detail sflags d.stamp [])
  let d := d.writeBack (d.channelOf t.ring) t.ring t.idx (d.descAddr t.ring t.idx) [(56, statusBytes code detail sflags d.stamp)]
    (word0 t.op t.flags t.seq) (.last (bitOf t.flags 0 || decide (code ≠ 0)))
  let d := if d.on Reg.REC_RPL_CFG.EN && [0x02, 0x03, 0x20, 0x28].contains t.op then
      { d with recd := { d.recd with rplDescs := d.recd.rplDescs ++ [(t.op, t.tag, t.ident, t.crc)] } } else d
  if t.op = 0 then d
  else d.capture 4 ([t.ring, t.op, code, t.tag] ++ leBytes 2 t.seq ++ leBytes 2 detail ++ leBytes 4 t.len ++ leBytes 4 t.crc ++ leBytes 4 t.ident)

/-- JOB_STAGE, SPLICE_AT and JOB_CLOSE: their status on the ACTIVE unit is the status on its partner (R361). -/
def Ticket.shared (t : Ticket) : Bool := t.op == 0x04 || t.op == 0x05 || t.op == 0x06

/-- Complete a descriptor of a host-to-device ring. A unit that is not ACTIVE completes a shared command with the status that the active
reports; until that comes the command waits. -/
def Dev.completeF (d : Dev) (t : Ticket) (code detail held : Nat) : Dev :=
  if d.duplexed && t.shared && d.mode.printing then
    if d.active then (d.completeNow t code detail held).partnerSend 9 0 0 (.status t.op t.tag code detail)
    else match d.net.told.find? fun x => x.1 == t.op && x.2.1 == t.tag with
      | some x =>
        ({ d with net := { d.net with told := d.net.told.filter fun y => y != x } }).completeNow t x.2.2.1 x.2.2.2 held
      | none => { d with net := { d.net with untold := d.net.untold ++ [(t, code, detail, held)] } }
  else d.completeNow t code detail held

def Dev.complete (d : Dev) (t : Ticket) (code detail : Nat) : Dev := d.completeF t code detail 0

/-- Complete descriptor `idx` of a device-to-host ring, taken before, with the words it returns. Its SEQ is the count of descriptors
completed on the ring before it (R80: DESIGN CHOICE, log entry 141), and its FLAGS are 0 (log entry 142). -/
def Dev.completeBuf (d : Dev) (ring idx op : Nat) (irq : Bool) (code detail : Nat) (words : List Nat) : Dev :=
  let seq := (d.ringSt ring).done
  let d := d.modRing ring fun r => { r with done := (r.done + 1) % 65536 }
  let d := if code = 0 then d else d.bump (Reg.HOST_RING_STAT_n.ERRORS ring)
  let d := d.send (.completion ring idx op seq code detail 0 d.stamp words)
  d.writeBack (d.channelOf ring) ring idx (d.descAddr ring idx)
    ((if words = [] then [] else [(16, words.flatMap (leBytes 4))]) ++ [(56, statusBytes code detail 0 d.stamp)]) (word0 op 0 seq) (.last (irq || decide (code ≠ 0)))

/-- Stop a ring with a cause and post RING_STOPPED (R98, R100): the Command ring's stop in RUN stops the web. -/
def Dev.stopRing (d : Dev) (n cause : Nat) : Dev :=
  let d := (d.put (Reg.HOST_RING_STAT_n.STOPPED n) 1).put (Reg.HOST_RING_STAT_n.CAUSE n) cause
  let d := d.post 0x1001 sevFault [n, cause, d.get (Reg.HOST_RING_CONS_n.CONS n)]
  if d.get (Reg.HOST_RING_CFG_n.KIND n) = 0 ∧ d.mode = .run then d.stopWeb else d

/-! ## Findings against frames (R409, R412, R413) -/

/-- The verdicts. -/
def vPass : Nat := 0
def vSuspect : Nat := 1
def vReject : Nat := 2

/-- The causes of R424, by bit. -/
def cLate : Nat := 0
def cNakFinal : Nat := 1
def cUnverified : Nat := 2
def cMismatch : Nat := 3
def cPoisoned : Nat := 4
def cHalted : Nat := 5
def cHeadReported : Nat := 6
def cCheckCorrupt : Nat := 7
def cCheckFail : Nat := 8
def cCodeField : Nat := 9
def cLightArea : Nat := 10
def cUncompensated : Nat := 11
def cDegraded : Nat := 12
def cPosition : Nat := 13
def cCompare : Nat := 14
def cFollower : Nat := 15
def cTakeover : Nat := 16

def newFrame (tag frame : Nat) : FrameRec := ⟨tag, frame, 0, 0, none, 0, 0, false, false, 0, none, 0, false, none⟩

/-- The record of a frame, a fresh one if it has none yet. -/
def Dev.frame (d : Dev) (tag frame : Nat) : FrameRec :=
  (d.chk.frames.find? fun r => r.tag == tag && r.frame == frame).getD (newFrame tag frame)

/-- Change the record of a frame. -/
def Dev.modFrame (d : Dev) (tag frame : Nat) (f : FrameRec → FrameRec) : Dev :=
  if d.chk.frames.any fun r => r.tag == tag && r.frame == frame then
    { d with chk := { d.chk with frames := d.chk.frames.map fun r => if r.tag == tag && r.frame == frame then f r else r } }
  else { d with chk := { d.chk with frames := d.chk.frames ++ [f (newFrame tag frame)] } }

/-- Whether a verdict marks its frame (R417). -/
def Dev.marks (d : Dev) (verdict : Nat) : Bool :=
  d.on Reg.CHK_CFG.MARK_EN && (verdict == vReject || (verdict == vSuspect && d.on Reg.CHK_CFG.MARK_SUSPECT))

/-- The reject-mark slot of a frame is still to act: it is in the calendar, or its frame has yet to start (R417). -/
def Dev.markWaits (d : Dev) (tag frame : Nat) : Bool :=
  (d.pos.cal.any fun x => match x.2.act with
    | .mark t f last => t == tag && f == frame && !last
    | _ => false) || (d.job? tag).any fun j => j.phase == .live && decide (pwDiff d.pos.pw (j.frameStart frame) < 0)

/-- A finding against a frame. After the verdict is posted it can only raise it: VERDICT_AMEND, and MARK_MISSED where the slot has
acted and would have put out another level (R412). In SAFE no finding is taken (R411); a standby posts none (R416). -/
def Dev.finding (d : Dev) (tag frame verdict cause : Nat) (line link : Option Nat) : Dev :=
  if d.mode = .safe then d
  else
    let old := d.frame tag frame
    if old.posted && decide (verdict ≤ old.verdict) then d
    else
      let causes := setBit old.causes cause true
      let new := { old with
        verdict := max old.verdict verdict, causes := causes,
        firstLine := (match line, old.firstLine with
          | some a, some b => some (min a b)
          | some a, none => some a
          | none, b => b),
        links := (match link with | some k => setBit old.links k true | none => old.links) }
      let d := d.modFrame tag frame fun _ => new
      if old.posted && d.active && !d.on Reg.REC_RPL_CFG.EN then
        let d := d.bump Reg.CHK_CNT2.AMENDED
        let d := d.postVerdict 0xD002 [tag % 256, frame, new.verdict + 4 * old.verdict, causes - old.causes, b2n (d.on Reg.CHK_CFG.MARK_EN && old.marked.isNone && d.markWaits tag frame)] (new.verdict == vReject)
        let d := d.capture 14 ([tag % 256, new.verdict, 0, 0] ++ leBytes 4 frame ++ leBytes 4 causes)
        match old.marked with
        | some (m, pw) =>
          if d.marks new.verdict ≠ m then
            (d.bump Reg.CHK_CNT2.MISSED).post 0xD003 sevFault [tag % 256, frame, new.verdict, pw % 2 ^ 32]
          else d
        | none => d
      else d

/-- A finding on line `line` of a job: none for a gutter line (R409). -/
def Dev.lineFinding (d : Dev) (j : Job) (line verdict cause : Nat) (link : Option Nat) : Dev :=
  if line % j.repeat_ < j.frameLines then
    d.finding j.tag (line / j.repeat_) verdict cause (some (line % j.repeat_)) link
  else d

/-- A whole-frame finding against each of a list of frames. -/
def Dev.findings (d : Dev) (fs : List (Nat × Nat)) (verdict cause : Nat) : Dev :=
  fs.foldl (fun d (t, f) => d.finding t f verdict cause none none) d

/-- Frames with a line sent but not fired at this instant (R54). -/
def Dev.framesUnfired (d : Dev) : List (Nat × Nat) :=
  (d.chk.frames.filter fun r => r.tfFirst.isSome && decide (d.tb < r.tfLast)).map fun r => (r.tag, r.frame)

/-- Frames with a line fired since an instant (R54). -/
def Dev.framesFiredSince (d : Dev) (t : Nat) : List (Nat × Nat) :=
  (d.chk.frames.filter fun r => match r.tfFirst with
    | some a => decide (a ≤ d.tb) && decide (t ≤ r.tfLast)
    | none => false).map fun r => (r.tag, r.frame)

/-! ## PSO outputs -/

/-- Put an output at a level; a change is sent (R67, R70). -/
def Dev.setPso (d : Dev) (n : Nat) (level : Bool) : Dev :=
  if bitOf d.pos.pso n = level then d
  else ({ d with pos := { d.pos with pso := setBit d.pos.pso n level } }).send (.pso n level)

/-- An output that belongs to a camera trigger or to the reject mark (R71). -/
def Dev.psoTaken (d : Dev) (out : Nat) : Bool :=
  ((List.range 2).any fun n => d.on (Reg.CAM_CFG_n.EN n) && decide (d.get (Reg.CAM_CFG_n.TRIG_PSO n) = out))
    || (d.on Reg.CHK_CFG.MARK_EN && decide (d.get Reg.CHK_CFG.MARK_PSO = out))

/-- The flags of a PW record (R495). -/
def Dev.pwFlags (d : Dev) : Nat :=
  d.get Reg.POS_STATUS.HELD + 2 * d.get Reg.POS_STATUS.REG_LOST + 4 * d.get Reg.POS_STATUS.AT_REST + 8 * d.get Reg.POS_STATUS.VALID
    + 16 * d.get Reg.POS_STATUS.POS_LOST

/-- FRAC of a broadcast: rem / D as a 16-bit fraction (R351). -/
def Dev.frac (d : Dev) : Nat := d.pos.rem * 65536 / max 1 d.pos.d

/-- A PW record (R495). -/
def Dev.pwRecord (d : Dev) : Dev :=
  d.capture 6 (leBytes 6 d.pos.pw ++ leBytes 2 d.frac ++ [d.pwFlags, 0, 0, 0] ++ leBytes 4 (d.get Reg.POS_VEL.VEL))

/-! ## The device's own CRC units (R420, R421) -/

/-- A check of unit `u` has ended: its registers hold the code, the running and the final value; with a value to compare, that one and
whether it failed. -/
def Dev.unitRan (d : Dev) (u poly running result : Nat) (expect : Option Nat) : Dev :=
  let d := ((d.put (Reg.CHK_CRC_STAT_u.POLY u) poly).put (Reg.CHK_CRC_STAT_u.DONE u) 1).bump (Reg.CHK_CRC_STAT_u.RUNS u)
  let d := (d.put2 (Reg.CHK_CRC_RUN_LO_u.RUNNING u) (Reg.CHK_CRC_RUN_HI_u.RUNNING u) running).put2
    (Reg.CHK_CRC_RES_LO_u.RESULT u) (Reg.CHK_CRC_RES_HI_u.RESULT u) result
  match expect with
  | none => d
  | some x =>
    let d := d.put2 (Reg.CHK_CRC_EXP_LO_u.EXPECT u) (Reg.CHK_CRC_EXP_HI_u.EXPECT u) x
    if result = x then d else (d.put (Reg.CHK_CRC_STAT_u.MISMATCH u) 1).bump (Reg.CHK_CRC_ERR_u.MISMATCHES u)

/-- A CRC-32C of unit `u`, by its final value. -/
def Dev.unitCrc (d : Dev) (u crc : Nat) (expect : Option Nat) : Dev := d.unitRan u 0 (Nat.xor crc 0xFFFFFFFF) crc expect

/-- The data of a descriptor against its CRC field: by unit 0 or 1, which of them the spec leaves open. -/
def Dev.dataCrc (d : Dev) (crc expect : Nat) : Dev :=
  let (u, d) := d.draw 1
  d.unitCrc u crc (some expect)

/-! ## MRAM records (R389) -/

/-- The newer of two copies: the valid one, or of two valid ones that with the higher SEQ modulo 2^32. -/
def mramSecond {α : Type} (l : List (Option (Nat × α))) : Bool :=
  match l.getD 0 none, l.getD 1 none with
  | some (p, _), some (q, _) => decide (2 ^ 31 ≤ (p + 2 ^ 32 - q) % 2 ^ 32)
  | none, some _ => true
  | _, none => false

/-- The record that a reader takes. -/
def mramRead {α : Type} (l : List (Option (Nat × α))) : Option α := (l.getD (b2n (mramSecond l)) none).map (·.2)

/-- The SEQ of the record that a reader takes. -/
def mramSeq {α : Type} (l : List (Option (Nat × α))) : Nat := ((l.getD (b2n (mramSecond l)) none).map (·.1)).getD 0

/-- A record as bytes: SEQ, contents (R389). -/
def mramBytes {α : Type} (l : List (Option (Nat × α))) (bytes : α → List Nat) : List Nat :=
  leBytes 4 (mramSeq l) ++ ((mramRead l).map bytes).getD []

/-- Unit 2 computes the check of the newest record of a region (R421). -/
def Dev.mramChecked {α : Type} (d : Dev) (l : List (Option (Nat × α))) (bytes : α → List Nat) : Dev :=
  d.unitCrc 2 (crc32c (mramBytes l bytes)) none

/-- A write goes to the copy with the lower SEQ, with SEQ one higher than the other. -/
def mramWrite {α : Type} (l : List (Option (Nat × α))) (v : α) : List (Option (Nat × α)) :=
  match l.getD (b2n (mramSecond l)) none with
  | some (seq, x) =>
    let new := some ((seq + 1) % 2 ^ 32, v)
    if mramSecond l then [new, some (seq, x)] else [some (seq, x), new]
  | none => [some (0, v), none]

/-! ## The DRAM stack is asked (R404) -/

/-- tREFI in ns (R401). -/
def Dev.trefi (d : Dev) : Nat := if d.on Reg.MEM_DRAM_STAT.HOT then 1950 else 3900

/-- Leave self-refresh: the refresh slots go on at their times. -/
def Dev.dramWake (d : Dev) : Dev :=
  if d.on Reg.MEM_DRAM_STAT.SELF_REF then
    let t := d.trefi
    let slots := d.ecc.slotAt.map fun s => if s ≤ d.tb then s + ((d.tb - s) / t + 1) * t else s
    { (d.put Reg.MEM_DRAM_STAT.SELF_REF 0) with ecc := { d.ecc with slotAt := slots } }
  else d

/-- A request other than a scrub read. -/
def Dev.dramReq (d : Dev) : Dev :=
  let d := d.dramWake
  { d with ecc := { d.ecc with lastReq := d.tb } }

/-- The ring is BROKEN while port 18 or 19 is not UP; RING_BROKEN at each change (R354). -/
def Dev.ringPortChange (d : Dev) (p : Nat) : Dev :=
  if !d.on Reg.RING_CFG.EN then d
  else
    let broken := !(d.portIsUp 18 && d.portIsUp 19)
    if broken = d.on Reg.RING_STAT.BROKEN then d
    else (d.put Reg.RING_STAT.BROKEN (b2n broken)).post 0x7002 sevWarn [p, b2n (!broken)]

/-- Data hold a poisoned granule no longer: new data are written (R377). -/
def Dev.clearPoison (d : Dev) (p : Datum → Bool) : Dev :=
  { d with ecc := { d.ecc with poisoned := d.ecc.poisoned.filter (fun x => !p x), once := d.ecc.once.filter fun x => !p x } }

/-- The place of a DRAM address in the stack: pseudo-channel, bank, row (R392). -/
def dramChan (addr : Nat) : Nat := bitsOf addr 8 5
def dramBank (addr : Nat) : Nat := bitsOf addr 15 5
def dramRow (addr : Nat) : Nat := bitsOf addr 20 14

/-- Its location code. -/
def Dev.dramLoc (d : Dev) (addr cell : Nat) : Nat := d.loc 1 0 (dramChan addr / 2) (dramChan addr % 2) (dramBank addr) cell

/-- The engine of cluster and number that owns the SRAM of a datum (R25); none for a datum in DRAM. -/
def sramOwner (x : Datum) : Option (Nat × Nat) :=
  match x with
  | .layout _ _ _ | .record _ _ _ | .composed _ _ => some (1, 0)
  | .glyph _ _ => some (1, 2)
  | .curve _ _ _ => some (2, 0)
  | .matrix _ _ _ | .ramp _ _ _ | .kernel _ _ | .level _ _ _ => some (2, 0)
  | .errorRow stripe _ _ => some (2, 1 + min 63 stripe)
  | .nozzle _ _ | .stitch _ _ | .align _ _ => some (2, 65)
  | .calHist _ _ => some (0, 3)
  | .linen => some (4, 6)
  | .lineStore n _ _ _ => some (3, min 15 n)
  | .engine | .other => some (5, 0)
  | .content _ _ _ | .plane _ _ _ | .saveSlot _ | .capture _ | .image _ _ | .device _ => none

/-- Where a poisoned datum stands: device address and location code. Of one that came in poisoned the spec names no place: free, at its
owner (log entry 163). -/
def Dev.datumPlace (d : Dev) (x : Datum) : (Nat × Nat) × Dev :=
  match (d.ecc.places.find? (·.1 == x)).map (·.2), x with
  | some p, _ => (p, d)
  | none, .device a => ((a, d.dramLoc a 0), d)
  | none, _ =>
    match sramOwner x with
    | none => let (a, d) := d.draw 34; ((a, d.dramLoc a 0), d)
    | some (c, e) =>
      let (a, d) := d.draw 26
      ((0x1000000000 + a, d.loc 0 c e 0 (a / 16384) 0), d)

/-- An engine reads data that decode as UEs: each is counted and posted (R375, R390). -/
def Dev.ueRead (d : Dev) (l : List Datum) : Dev :=
  l.foldl (fun d x =>
    let ((addr, loc), d) := d.datumPlace x
    ((d.bump Reg.MEM_UE_CNT.NEW).put2 Reg.MEM_LAST_LO.LOC_LO Reg.MEM_LAST_HI.LOC_HI loc).postAt 0xC002 sevWarn
      [0, addr % 2 ^ 32, addr / 2 ^ 32] loc) d

/-- The data that a read may meet poisoned. -/
def Dev.badData (d : Dev) : List Datum := d.ecc.poisoned ++ d.ecc.once

/-- Poison that a read of the data that satisfy `p` meets: stored, or for one read (R377, R394). -/
def Dev.isBad (d : Dev) (p : Datum → Bool) : Bool := d.ecc.poisoned.any p || d.ecc.once.any p

/-! ## Steps -/

/-- What a step leaves of the device: TB is `dt` on (R16) and stands at 0 in reset, and a change of state is one that R31 allows. A change of the flags of a
PW record while a capture runs is recorded (R495). -/
def Dev.settle (before : Dev) (dt : Nat) (after : Dev) : Dev :=
  let after := if before.recd.cap == .running && decide (before.pwFlags ≠ after.pwFlags) then after.pwRecord else after
  let after := if after.on Reg.POS_STATUS.VALID && !before.on Reg.POS_STATUS.VALID then
    { after with pos := { after.pos with validAt := tbPlus before.tb dt } } else after
  { after with tb := if before.mode = .off ∨ after.mode = .off then 0 else tbPlus before.tb dt, mode := if modeEdge before.mode after.mode then after.mode else before.mode }

/-- A command that does not touch device memory. -/
def State.act (s : State) (dt : Nat) (f : Dev → Dev) : Host.Outcome State Fault Refusal :=
  .next { s with dev := s.dev.settle dt (f (s.dev.tick dt)) }

/-- Device memory as an access finds it: the writes of save slots before it are done. -/
def State.stored (s : State) : List Host.Cell := s.dev.cal.stores.foldl (fun m x => memPut m x.1 (x.2.map (BitVec.ofNat 8))) s.mem

/-- No write of a save slot is open. -/
def Dev.storesDone (d : Dev) : Dev := { d with cal := { d.cal with stores := [] } }

/-- A command that may touch device memory. -/
def State.actMem (s : State) (dt : Nat) (f : Dev → List Host.Cell → Dev × List Host.Cell) : Host.Outcome State Fault Refusal :=
  let r := f (s.dev.tick dt).storesDone s.stored
  .next { s with dev := s.dev.settle dt r.1, mem := r.2 }

end Sys2Proof.Machine
end

