-- ==== Sys2Proof/Machine/Operands.lean ====
section
/-! DEFINITION. Descriptors: their fields (R79, R91), the checks every descriptor passes when it is taken (R8, R80, R81, R89,
R90), and the checks of PARAM (R91, R533) and of fetched data. -/
namespace Sys2Proof


/-- Word `i` of a descriptor as a number (R79). -/
def Desc.w (x : Desc) (i : Nat) : Nat := (x.words.getD i 0).toNat

/-- Bits `[lo + w - 1 : lo]` of word `i`. -/
def Desc.f (x : Desc) (i lo w : Nat) : Nat := bitsOf (x.w i) lo w

def Desc.own (x : Desc) : Bool := bitOf (x.w 0) 31
def Desc.op (x : Desc) : Nat := x.f 0 24 7
def Desc.flags (x : Desc) : Nat := x.f 0 16 8
def Desc.irq (x : Desc) : Bool := bitOf (x.w 0) 16
def Desc.fence (x : Desc) : Bool := bitOf (x.w 0) 17
def Desc.seq (x : Desc) : Nat := x.f 0 0 16
def Desc.addr (x : Desc) : Nat := x.w 1 + 2 ^ 32 * x.w 2
def Desc.len (x : Desc) : Nat := x.w 3

end Sys2Proof

namespace Sys2Proof.Machine

/-! ## Status codes (R89) -/

def stOk : Nat := 0x00
def stReserved : Nat := 0x01
def stBadOpcode : Nat := 0x02
def stBadRing : Nat := 0x03
def stSequence : Nat := 0x04
def stBadLength : Nat := 0x05
def stBadAddress : Nat := 0x06
def stBadParam : Nat := 0x07
def stRefused : Nat := 0x08
def stNoJob : Nat := 0x09
def stJobBusy : Nat := 0x0A
def stNotStaged : Nat := 0x0B
def stTableInUse : Nat := 0x0C
def stTableBad : Nat := 0x0D
def stCrc : Nat := 0x0E
def stStoreFull : Nat := 0x0F
def stSpliceLate : Nat := 0x10
def stSpliceNotFrame : Nat := 0x11
def stJobLate : Nat := 0x12
def stRecordOrder : Nat := 0x13
def stCamLate : Nat := 0x14
def stTargetLocked : Nat := 0x15
def stRegLost : Nat := 0x16
def stExtStop : Nat := 0x17
def stNoRing : Nat := 0x18
def stFlushed : Nat := 0x19
def stCalFull : Nat := 0x1A
def stWriteError : Nat := 0x20
def stNotOwned : Nat := 0x21
def stTimeout : Nat := 0x22
def stReadError : Nat := 0x23
def stPoisoned : Nat := 0x24

/-! ## The opcode table (R90) -/

/-- Where an opcode is valid: ring kinds, states. -/
structure OpRow where
  code : Nat
  kinds : List Nat
  states : List Mode
  deriving DecidableEq, Repr

def allServed : List Mode := [.setup, .ready, .run, .hold]
def readyRunHold : List Mode := [.ready, .run, .hold]

/-- R90, host-to-device opcodes. -/
def opTable : List OpRow :=
  [⟨0x00, [0, 1, 2], allServed⟩, ⟨0x01, [0], readyRunHold⟩, ⟨0x02, [0], readyRunHold⟩, ⟨0x03, [0], allServed⟩,
   ⟨0x04, [0], readyRunHold⟩, ⟨0x05, [0], [.run, .hold]⟩, ⟨0x06, [0], readyRunHold⟩, ⟨0x08, [0], readyRunHold⟩,
   ⟨0x09, [0], readyRunHold⟩, ⟨0x0A, [0], [.run]⟩, ⟨0x0C, [0], [.run, .hold]⟩, ⟨0x0D, [0], readyRunHold⟩,
   ⟨0x0E, [0], readyRunHold⟩, ⟨0x0F, [0], allServed⟩, ⟨0x10, [0], allServed⟩, ⟨0x20, [1], allServed⟩,
   ⟨0x28, [2], readyRunHold⟩]

/-- The device-to-host opcodes (R90). -/
def d2hOpcodes : List Nat := [0x40, 0x48, 0x50]

/-- The bits of word `i` that an opcode's fields use (R91); the others are reserved. -/
def fieldBits (op i : Nat) : Nat :=
  let full := 0xFFFFFFFF
  let row : List Nat := match op with
    | 0x01 => [0, 0, 0, 0x1FB7FF, 0x1FFFF, 0xFFFF, full, 0xFFFFFF, 0xFFFFFF, full, 0xFFFF, full]
    | 0x02 => [full, full, full, 0xFFF, full]
    | 0x03 => [full, full, full, 0xFFFFFF, full, full]
    | 0x04 => [0, 0, 0, 0xFF, 0x801FFFFF, 0x801FFFFF, 0x801FFFFF, 0x801FFFFF]
    | 0x05 => [0, 0, 0, full, 0xFFFF, 0xFF]
    | 0x06 => [0, 0, 0, 0xFF, full]
    | 0x08 => [0, 0, 0, full, 0x1FFFF, full, full, full, full]
    | 0x09 => [0, 0, 0, full]
    | 0x0A => [0, 0, 0, full, full, full]
    | 0x0C => [0, 0, 0, 0xFFFF]
    | 0x0D => [0, 0, 0, 3, 0x1F]
    | 0x0F => [0, 0, 0, 0xFFFF, 0xFF, full, full, full, full, 1]
    | 0x10 => [0, 0, 0, 0x1F, 0xFFFF]
    | 0x20 => [full, full, full, 0xFFFFFF, 3]
    | 0x28 => [full, full, full, 0xFFF, full, full]
    | _ => []
  row.getD (i - 1) 0

/-- The first word of a descriptor that holds a reserved bit (R8, R79): FLAGS [23:18] of word 0, then words 1 to 13. -/
def reservedWord (op : Nat) (x : Desc) : Option Nat :=
  if x.f 0 18 6 ≠ 0 then some 0
  else ((List.range 13).map (· + 1)).find? fun i => decide (Nat.land (x.w i) (Nat.xor 0xFFFFFFFF (fieldBits op i)) ≠ 0)

/-- Opcodes that use ADDR and LEN (R81). -/
def usesAddr (op : Nat) : Bool := op == 0x02 || op == 0x03 || op == 0x20 || op == 0x28

/-- What a capture DESC record calls the identity of a descriptor (R495). -/
def identityOf (op : Nat) (x : Desc) : Nat :=
  match op with
  | 0x02 => x.f 4 8 4
  | 0x03 => x.f 4 0 16
  | 0x20 => x.f 4 8 16
  | 0x28 => x.w 5
  | _ => 0

def crcFieldOf (op : Nat) (x : Desc) : Nat :=
  match op with
  | 0x02 => x.w 5
  | 0x03 => x.w 6
  | 0x28 => x.w 6
  | _ => 0

def tagFieldOf (op : Nat) (x : Desc) : Nat :=
  match op with
  | 0x03 => x.f 4 16 8
  | 0x05 => x.f 6 0 8
  | 0x0F => x.f 5 0 8
  | 0x01 | 0x02 | 0x04 | 0x06 | 0x20 | 0x28 => x.f 4 0 8
  | _ => 0

/-- What came of taking a descriptor. -/
inductive Take where
  /-- It is not taken now: no step of the machine. -/
  | no
  /-- It was taken and completed with an error. -/
  | done (d : Dev)
  /-- It was taken; its own checks come next. -/
  | go (d : Dev) (t : Ticket)
  deriving DecidableEq, Repr

/-- A descriptor of an earlier number on this ring is not completed: FENCE waits for it (R79). -/
def Dev.earlierOpen (d : Dev) (ring : Nat) : Bool := d.host.taken.any fun t => t.ring == ring

/-! ## The order of R86 -/

/-- The place of a ring in the order in which new work is taken: Command, Record, Content by ring number, then the device-to-host rings. -/
def Dev.turnKey (d : Dev) (ring : Nat) : Nat :=
  match d.get (Reg.HOST_RING_CFG_n.KIND ring) with
  | 0 => 0
  | 2 => 1
  | 1 => 32 + ring
  | _ => 96

/-- The next descriptor of a ring was not published before the latest doorbell read. -/
def Dev.newWork (d : Dev) (ring : Nat) : Bool :=
  let k := ((d.ringSt ring).old + 65536 - d.get (Reg.HOST_RING_CONS_n.CONS ring)) % 65536
  decide (k = 0) || decide (d.published ring < k)

/-- A ring's next descriptor may be taken now: it is older work, or nothing of a later place in the order has been taken since the doorbell
read. A descriptor with FENCE and what waited behind one, and Record rings, which wait for room in the record buffer, come when they can. -/
def Dev.inTurn (d : Dev) (ring : Nat) (fence : Bool) : Bool :=
  !d.newWork ring || fence || (d.ringSt ring).loose || decide (d.get (Reg.HOST_RING_CFG_n.KIND ring) = 2) || decide (d.host.turn ≤ d.turnKey ring)

/-- Take the next descriptor of a ring, and note how far the order has come. -/
def Dev.taking (d : Dev) (ring : Nat) (fence : Bool) : Dev :=
  let turn := if d.newWork ring && !fence && !(d.ringSt ring).loose then max d.host.turn (d.turnKey ring) else d.host.turn
  let d := (d.advance ring).modRing ring fun r => { r with loose := r.loose || fence }
  { d with host := { d.host with turn := turn } }

/-- The checks after the sequence. -/
def Dev.takeChecked (d : Dev) (t : Ticket) (x : Desc) (rowOp : Option OpRow) (kind : Nat) : Take :=
  let d := d.modRing t.ring fun r => { r with expSeq := some ((x.seq + 1) % 65536) }
  match rowOp with
  | none => .done (d.complete t (if d2hOpcodes.contains x.op then stBadRing else stBadOpcode) 0)
  | some row =>
    if !row.kinds.contains kind then .done (d.complete t stBadRing 0)
    else if !row.states.contains d.mode || (d.follower && (x.op == 0x08 || x.op == 0x09 || x.op == 0x0A)) then
      .done (d.complete t stRefused d.mode.code)
    else match reservedWord x.op x with
      | some w => .done (d.complete t stReserved w)
      | none =>
        if usesAddr x.op && decide (x.addr % 8 ≠ 0) then .done (d.complete t stBadAddress 0)
        else .go d t

/-- Take the descriptor at the head of a ring for opcode `op`: ring served, descriptor owned, FENCE met, its turn (R86). Where several checks
fail the first of these gives the status (DESIGN CHOICE, log entry 143): sequence (R80), opcode and ring (R90), state and role (R90),
reserved fields (R8), address (R81). -/
def Dev.take (d : Dev) (ring : Nat) (x : Desc) (op : Nat) : Take :=
  let kind := d.get (Reg.HOST_RING_CFG_n.KIND ring)
  let rowOp := opTable.find? fun r => r.code == x.op
  if !d.mode.served || !d.ringReady ring || !x.own || 32 ≤ ring || 2 < kind || (x.fence && d.earlierOpen ring)
      || !d.inTurn ring x.fence || (x.op != op && rowOp.isSome) then .no
  else
    let t : Ticket := ⟨ring, d.get (Reg.HOST_RING_CONS_n.CONS ring), x.op, x.seq, x.flags, tagFieldOf x.op x, (if usesAddr x.op then x.len else 0),
      crcFieldOf x.op x, identityOf x.op x⟩
    let exp := (d.ringSt ring).expSeq
    let d := d.taking ring x.fence
    let d := { d with host := { d.host with taken := d.host.taken ++ [t] } }
    match exp with
    | some e =>
      if e ≠ x.seq then .done ((d.complete t stSequence e).stopRing ring 2)
      else Dev.takeChecked d t x rowOp kind
    | none => Dev.takeChecked d t x rowOp kind

/-! ## PARAM (R91, R533) -/

/-- The PARAM IDs that a chapter defines. -/
def definedParam (id : Nat) : Bool :=
  [0x2001, 0x3001, 0x3002, 0x4001, 0x5001, 0x5002, 0x5010, 0x5014, 0x5018, 0x501C, 0x6000, 0x6080, 0x6094, 0x6801, 0x7001, 0x8001, 0x9001, 0xB3F0, 0xB3F1,
   0xB308, 0xB30C, 0xB310, 0xB314, 0xB318, 0xA080, 0xC001, 0xC002, 0xC003, 0xD001, 0xE001, 0xE002, 0xF001, 0xF002].contains id

/-- The ID of a PARAM descriptor. -/
def paramId (x : Desc) : Nat := x.f 4 0 16

/-- AT_FRAME of a PARAM. -/
def atFrame (x : Desc) : Bool := bitOf (x.w 10) 0

/-- Take a PARAM whose ID satisfies `mine`, in the states its chapter gives, with TAG 0 where its rule requires it. -/
def Dev.takeParam (d : Dev) (ring : Nat) (x : Desc) (mine : Nat → Bool) (states : List Mode) (tag0 : Bool) : Take :=
  if x.op == 0x0F && !mine (paramId x) && definedParam (paramId x) then .no
  else match d.take ring x 0x0F with
    | .go d t =>
      if !mine (paramId x) then .done (d.complete t stBadParam 4)
      else if !states.contains d.mode then .done (d.complete t stRefused d.mode.code)
      else if tag0 && decide (x.f 5 0 8 ≠ 0) then .done (d.complete t stBadParam 5)
      else if !tag0 && decide (x.f 5 0 8 ≠ 0) && (d.job? (x.f 5 0 8)).isNone then .done (d.complete t stNoJob 0)
      else .go d t
    | r => r

/-- The first VALUE word, 6 to 9, with a bit outside the masks (R533). -/
def valueExtra (x : Desc) (masks : List Nat) : Option Nat :=
  [6, 7, 8, 9].find? fun i => decide (Nat.land (x.w i) (Nat.xor 0xFFFFFFFF (masks.getD (i - 6) 0)) ≠ 0)

/-- What a meaning does with a descriptor it may or may not take. -/
def Dev.onTake (d : Dev) (r : Take) (f : Dev → Ticket → Dev) : Dev :=
  match r with
  | .no => d
  | .done d' => d'
  | .go d' t => f d' t

/-- A PARAM by its row. With AT_FRAME and a job live it is kept, and applies at line 0 of the next frame (R91): the step that moves PW
there applies it. -/
def Dev.onParam (d : Dev) (ring : Nat) (x : Desc) (mine : Nat → Bool) (states : List Mode) (tag0 : Bool) (f : Dev → Ticket → Dev) : Dev :=
  d.onTake (d.takeParam ring x mine states tag0) fun d t =>
    match d.live? with
    | some j =>
      if atFrame x then
        let p := j.frameStart (match j.lineAt d.pos.pw with | some l => l / j.repeat_ + 1 | none => 0)
        { d with host := { d.host with deferred := d.host.deferred ++ [(t, x, p)] } }
      else f d t
    | none => f d t

/-! ## Fetched data -/

/-- The bytes a fetch brought, as numbers, or the status code of its failure; a wrong length counts as a read error. -/
def fetched (f : Fetch) (len : Nat) : Except Nat (List Nat) :=
  match f with
  | .data bs => if bs.length = len then .ok (natBytes bs) else .error stReadError
  | .struck bs _ => if bs.length = len then .ok (natBytes bs) else .error stReadError
  | .failed c _ => .error (if c = stTimeout ∨ c = stPoisoned then c else stReadError)

/-- The byte offset at which a fetch failed. -/
def failedAt (f : Fetch) : Nat :=
  match f with
  | .failed _ off => off
  | _ => 0

/-- The offset of a granule that transport parity has poisoned. -/
def struckAt (f : Fetch) : Option Nat :=
  match f with
  | .struck _ o => some (o / 8 * 8)
  | _ => none

end Sys2Proof.Machine
end

