-- ==== Sys2Proof/Machine/Verdicts.lean ====
section
/-! DEFINITION. When a frame's verdict is final (R410), and the device's own changes of state at rest (R31, R303). -/
namespace Sys2Proof.Machine

/-- The head rows of link `n` that its set-up gives it: ROWS + 1 rows of an enabled link. -/
def Dev.rowsOf (d : Dev) (n : Nat) : Nat :=
  if d.on (Reg.LINK_CFG_n.EN n) then d.get (Reg.LINK_CFG_n.ROWS n) + 1 else 0

/-- The rows of all enabled links. -/
def Dev.rowCount (d : Dev) : Nat := ((List.range 16).map d.rowsOf).foldl (· + ·) 0

/-- A frame's verdict is final: every line of it settled on every row, its code fields painted and compared, its image lines
composed, every follower's VERDICT in (R410). -/
def Dev.frameFinal (d : Dev) (j : Job) (r : FrameRec) : Bool :=
  r.composed && r.painted && ((List.range 8).all fun m => !bitOf r.awaits m || bitOf r.awaits (8 + m)) && decide (j.frameLines * d.rowCount ≤ r.settled)

/-- A verdict is final and every earlier one is posted: the next to post (R410). -/
def Dev.verdictFinal (d : Dev) (tag frame : Nat) : Bool :=
  let r := d.frame tag frame
  r.posted || (match d.job? tag with
    | some j => d.frameFinal j r
    | none => false)

/-! ## The web at rest, and what follows from it -/

/-- No MOVE or stop in progress, the commanded speed 0, AT_REST (R303). -/
def Dev.webAtRest (d : Dev) : Bool :=
  d.linen.target.isNone && d.linen.stop.isNone && decide (d.linen.v = 0) && d.on Reg.POS_STATUS.AT_REST

/-- The web axis moves: a MOVE or a stop is in progress (R303). -/
def Dev.webMoves (d : Dev) : Bool := d.linen.target.isSome || d.linen.stop.isSome

/-- A stop ends once the commanded speed is 0 and the web is at rest: its MOVE ends there, STOP commands complete (R303, R309). -/
def Dev.endStop (d : Dev) : Dev :=
  match d.linen.stop with
  | none => d
  | some w =>
    if d.linen.v = 0 ∧ d.on Reg.POS_STATUS.AT_REST then
      let d := { d with linen := { d.linen with stop := none, target := none, final := false, a := 0 } }
      let d := d.put Reg.LINEN_STAT.PHASE 0
      w.tickets.foldl (fun d t => d.completeF t stOk 0 (b2n w.held)) d
    else d

/-- Enter a device state; STATE_CHANGE is posted (R31, R95). -/
def Dev.goto (d : Dev) (m : Mode) : Dev :=
  if d.mode = m then d
  else
    let old := d.mode.code
    let d := { d with mode := m }
    (d.post 0x0001 sevInfo [m.code, old, if m = .safe then d.get Reg.GLB_STATE.SAFE_CAUSE else 0]).mirror 9 0 0 (.mode m.code)

/-- RUN to HOLD at rest after a stop, and RUN or HOLD to READY at rest with no job open (R31). `stopped` says that a stop has just ended. -/
def Dev.restCheck (d : Dev) : Dev :=
  let stopped := d.linen.stop.isSome
  let d := d.endStop
  let stopped := stopped && d.linen.stop.isNone
  if !d.webAtRest then d
  else
    let d := if d.mode = .run ∧ stopped then d.goto .hold else d
    if (d.mode = .run ∨ d.mode = .hold) ∧ d.jobs = [] then d.goto .ready else d

end Sys2Proof.Machine
end

