-- ==== Sys2Proof/Machine/Banks.lean ====
section
/-! DEFINITION. The banks of the per-job tables (R93, R184 to R187) and of the device-wide tables (R210). -/
namespace Sys2Proof.Machine

/-! ## Per-job tables: kind k = KIND - 2, 0 curves, 1 matrices, 2 ramps, 3 kernel, 4 level-to-drop -/

/-! ## Contents of the per-job tables (R184, R189, R193, R194) -/

/-- CURVE[c][i]: as loaded, or the default. -/
def TwlBank.curve (b : TwlBank) (c i : Nat) : Nat :=
  match kvGet b.curves c with
  | some l => l.getD i 0
  | none => 16 * i + i / 256

/-- A byte of the diffusion kernel table; the default is all zero. -/
def TwlBank.kernelByte (b : TwlBank) (o : Nat) : Nat := b.kernel.getD o 0

/-- MODE[c] is THRESHOLD. -/
def TwlBank.threshold (b : TwlBank) (c : Nat) : Bool := b.kernelByte (4 * c) == 1

/-- SERP[c]. -/
def TwlBank.serp (b : TwlBank) (c : Nat) : Bool := bitOf (b.kernelByte (4 * c + 2)) 0

/-- V[k] of a channel for NL levels. -/
def TwlBank.level (b : TwlBank) (nl c k : Nat) : Nat :=
  match kvGet b.levels c with
  | some (v, _) => v.getD k 0
  | none => if k < nl then k * 65535 / (nl - 1) else 0

/-- CODE[k] of a channel. -/
def TwlBank.code (b : TwlBank) (c k : Nat) : Nat :=
  match kvGet b.levels c with
  | some (_, g) => g.getD k 0
  | none => k

/-- B and S of ramp `q`, boundary `j`; a ramp that no load has written holds no stated value. -/
def TwlBank.ramp (b : TwlBank) (q j : Nat) : Nat × Nat :=
  match b.ramps.bind fun r => kvGet r (16 * q + j) with
  | some x => x
  | none => (Config.unloadedRamp q j % 65536, Config.unloadedRamp q j / 65536 % 65536)

/-- NL of a job: 2, 4 or 16 levels (R183). -/
def Job.levels (j : Job) : Nat := 2 ^ (2 ^ j.depth)

/-- The first channel in THRESHOLD mode without its matrix or the ramps (R195). -/
def TwlBank.lacks (b : TwlBank) (channels : Nat) : Option Nat :=
  (List.range channels).find? fun c => b.threshold c && ((kvGet b.matrices c).isNone || b.ramps.isNone)

/-- Take one kind of a bank from another. -/
def TwlBank.take (b src : TwlBank) : Nat → TwlBank
  | 0 => { b with curves := src.curves }
  | 1 => { b with matrices := src.matrices }
  | 2 => { b with ramps := src.ramps }
  | 3 => { b with kernel := src.kernel }
  | _ => { b with levels := src.levels }

/-- The tables of a mask of banks: kind k comes from bank 1 where bit k is set. -/
def Dev.twlMask (d : Dev) (mask : Nat) : TwlBank :=
  (List.range 5).foldl (fun b k => if bitOf mask k then b.take d.twl.bank1 k else b) d.twl.bank0

/-- The tables that a job holds. -/
def Dev.twlOf (d : Dev) (j : Job) : TwlBank := d.twlMask j.bank

/-- Put one kind of a job's tables, or with `other` of its inactive bank. -/
def Dev.putTwl (d : Dev) (j : Job) (other : Bool) (k : Nat) (src : TwlBank) : Dev :=
  if bitOf j.bank k != other then { d with twl := { d.twl with bank1 := d.twl.bank1.take src k } }
  else { d with twl := { d.twl with bank0 := d.twl.bank0.take src k } }

/-! ## Poison follows the copies of a bank (R29) -/

/-- KIND and bank of a datum in a double-banked table. -/
def bankOf : Datum → Option (Nat × Nat)
  | .nozzle b _ => some (1, b)
  | .curve b _ _ => some (2, b)
  | .matrix b _ _ => some (3, b)
  | .ramp b _ _ => some (4, b)
  | .kernel b _ => some (5, b)
  | .level b _ _ => some (6, b)
  | .stitch b _ => some (7, b)
  | .align b _ => some (11, b)
  | _ => none

/-- The same datum in another bank. -/
def inBank (b : Nat) : Datum → Datum
  | .nozzle _ i => .nozzle b i
  | .curve _ c i => .curve b c i
  | .matrix _ c i => .matrix b c i
  | .ramp _ q j => .ramp b q j
  | .kernel _ i => .kernel b i
  | .level _ c k => .level b c k
  | .stitch _ s => .stitch b s
  | .align _ n => .align b n
  | x => x

/-- A bank of a KIND becomes a copy of bank `src`: its poison is that of the source. -/
def Dev.copyMarks (d : Dev) (kind src : Nat) : Dev :=
  let kept := d.ecc.poisoned.filter fun x => bankOf x != some (kind, 1 - src)
  { d with ecc := { d.ecc with poisoned := kept ++ (kept.filter fun x => bankOf x == some (kind, src)).map (inBank (1 - src)) } }

/-- Fill kinds of a job's inactive bank with a copy of its own. -/
def Dev.copyKinds (d : Dev) (j : Job) (kinds : Nat) : Dev :=
  let own := d.twlOf j
  (maskList kinds 5).foldl (fun d k => (d.putTwl j true k own).copyMarks (k + 2) (b2n (bitOf j.bank k))) d

/-- Fill every kind of a job's inactive bank with a copy of its own (R185, R186). -/
def Dev.copyInactive (d : Dev) (j : Job) : Dev := d.copyKinds j 31

/-- A job other than `tag` that holds a bank: not in ENDING (R185). -/
def Dev.otherHolder (d : Dev) (tag : Nat) : Option Job := d.jobs.find? fun j => j.tag != tag && j.phase != .ending

/-- A job gives its bank up: it becomes the inactive bank of the other job, a copy of that job's. -/
def Dev.freeBank (d : Dev) (tag : Nat) : Dev :=
  match d.otherHolder tag with
  | some o => d.copyInactive o
  | none => d

/-- A new job takes the inactive bank, set to the defaults; with no other holder it holds both (R184, R185). -/
def Dev.takeBank (d : Dev) (tag : Nat) : Nat × Dev :=
  match d.otherHolder tag with
  | some o =>
    let mask := 31 - o.bank % 32
    (mask, (List.range 5).foldl (fun d k => d.putTwl o true k TwlBank.reset) d)
  | none => (d.get Reg.PIPE_TWL_BANK.ACTIVE, { d with twl := { d.twl with bank0 := TwlBank.reset, bank1 := TwlBank.reset, pending := 0 } })

/-- The bank in force of a device-wide table kind: bit 0 nozzle table, 1 stitch set, 2 alignment set (R210). -/
def Dev.gzBank (d : Dev) (bit : Nat) : GzBank := if bitOf (d.get Reg.PIPE_GZ_BANK.ACTIVE) bit then d.gz.bank1 else d.gz.bank0

/-- The inactive bank. -/
def Dev.gzIdle (d : Dev) (bit : Nat) : GzBank := if bitOf (d.get Reg.PIPE_GZ_BANK.ACTIVE) bit then d.gz.bank0 else d.gz.bank1

/-- Take one kind of a device-wide bank from another. -/
def GzBank.take (b src : GzBank) : Nat → GzBank
  | 0 => { b with nozzles := src.nozzles }
  | 1 => { b with stitches := src.stitches }
  | _ => { b with align := src.align }

/-- Change the inactive bank of a kind. -/
def Dev.modIdle (d : Dev) (bit : Nat) (f : GzBank → GzBank) : Dev :=
  if bitOf (d.get Reg.PIPE_GZ_BANK.ACTIVE) bit then { d with gz := { d.gz with bank0 := f d.gz.bank0 } }
  else { d with gz := { d.gz with bank1 := f d.gz.bank1 } }

/-! ## Jobs that wait for a switch (R185) -/

/-- The job is created with its bank; the command completes. A SYNCING unit takes FRAMES and scaling from the active (R369). -/
def Dev.createJob (d : Dev) (t : Ticket) (x : Desc) : Dev :=
  let tag := x.f 4 0 8
  let (bank, d) := d.takeBank tag
  let d := { d with twl := { d.twl with begun := d.twl.begun.filter fun b => b.1 != tag } }
  let org := x.w 10 + 2 ^ 32 * x.f 11 0 16
  let none_ := decide (x.w 7 = 0)
  let m := if d.duplexed && d.duplex == .syncing then d.net.jobs.find? fun j => j.1 == tag else none
  let j : Job := {
    tag := tag, phase := .opened, channels := x.f 4 8 3 + 1, depth := x.f 4 12 2, recordRing := x.f 4 16 5, frameLines := x.w 5
    gutterLines := x.w 6, lpiNum := if none_ then 1200 else x.f 7 0 16, lpiDen := if none_ then 1 else x.f 7 16 16
    scaleN := (m.map (·.2.2.2.1)).getD (x.w 8), scaleD := (m.map (·.2.2.2.2.1)).getD (x.w 9), origin := if bitOf (x.w 4) 15 then pwAdd d.pos.pw org else org
    frames := (m.map (·.2.2.1)).getD (x.w 12), j0 := 0, endFrame := none, spliceAt := none, stageOrder := 0, nextRecord := 0, markNext := 0, closers := [], bank := bank }
  (({ d with jobs := d.jobs ++ [j] }).complete t stOk 0).mirror 9 0 0 (.job tag 0 j.frames j.scaleN j.scaleD false)

/-- JOB_OPEN commands that waited for a switch are carried out. -/
def Dev.openWaiting (d : Dev) : Dev :=
  let w := d.twl.waiting
  w.foldl (fun d (t, x) => d.createJob t x) { d with twl := { d.twl with waiting := [] } }

/-- With no job live, loads that no switch will take any more are dropped with the bank, and what waited for the switch goes on. -/
def Dev.dropPending (d : Dev) : Dev :=
  if d.live?.isSome then d else ({ d with twl := { d.twl with pending := 0 } }).openWaiting

/-! ## Tables as bytes (R495, R496): the form in which a load brings them -/

/-- A signed field of `n` bytes. -/
def leInt (n : Nat) (v : Int) : List Nat := leBytes n (fieldOf (8 * n) v)

/-- One stitch as its 576 bytes (R213). -/
def stitchBytes (x : Stitch) : List Nat :=
  [x.type, x.ch, x.ov - 1, 0] ++ leBytes 4 x.x0 ++ leBytes 4 x.gx0 ++ List.replicate 52 0 ++ (x.share.map (leBytes 2)).flatten

def noStitch : Stitch := ⟨0, 0, 1, 0, 0, List.replicate 256 0⟩

/-- A bank of the device-wide tables: KIND 0x01, 0x07 by instance, 0x0B. -/
def nozzleBytes (b : GzBank) : List Nat := ((List.range 264192).map fun i => leBytes 8 ((kvGet b.nozzles i).getD 0)).flatten
def stitchSetBytes (b : GzBank) (i : Nat) : List Nat := stitchBytes ((kvGet b.stitches i).getD noStitch)
def alignBytes (b : GzBank) : List Nat :=
  ((List.range 64).map fun n =>
    let (fo, xo) := (kvGet b.align n).getD (0, 0)
    leInt 4 fo ++ leInt 2 xo ++ [0, 0]).flatten

/-- A matrix as loaded (R196). -/
def matrixBytes (m : Matrix) : List Nat :=
  let l := [m.mw - 1, m.mh - 1, m.px, m.py] ++ List.replicate 12 0 ++ (m.entries.map (leBytes 2)).flatten
  padTo (cdiv l.length 8 * 8) l

/-- A cam table as loaded (R315). -/
def camTableBytes (c : CamTable) : List Nat :=
  leBytes 2 (c.ys.length - 1) ++ [b2n c.cubic, b2n c.cyclic] ++ leBytes 4 c.iv ++ List.replicate 8 0 ++ (c.ys.map (leInt 8)).flatten

/-- Every instance in force of a per-job KIND, of a job. -/
def Dev.jobTableBytes (d : Dev) (j : Job) (kind : Nat) : List Nat :=
  let b := d.twlOf j
  let per (f : Nat → List Nat) : List Nat := ((List.range j.channels).map f).flatten
  match kind with
  | 2 => per fun c => ((List.range 4096).map fun i => leBytes 2 (b.curve c i)).flatten
  | 3 => per fun c => match kvGet b.matrices c with
    | some m => matrixBytes m
    | none => []
  | 4 => if b.ramps.isNone then [] else
    ((List.range 15).map fun q => ((List.range 15).map fun i => leBytes 2 (b.ramp q (i + 1)).1 ++ leBytes 2 (b.ramp q (i + 1)).2).flatten ++ [0, 0, 0, 0]).flatten
  | 5 => (List.range 40).map b.kernelByte
  | _ => per fun c => ((List.range 16).map fun k => leBytes 2 (b.level j.levels c k) ++ [if k < j.levels then b.code c k else 0, 0]).flatten

/-- CRC-32C over every instance in force of a KIND; per-job kinds are those of a job, none without one. -/
def Dev.tableCrc (d : Dev) (j : Option Job) (kind : Nat) : Nat :=
  crc32c (match kind with
    | 1 => nozzleBytes (d.gzBank 0)
    | 7 => ((List.range 16).map fun i => stitchSetBytes (d.gzBank 1) i).flatten
    | 8 => (d.linen.cams.map fun (_, c) => camTableBytes c).flatten
    | 9 => d.gz.policy ++ d.link.policy ++ d.linen.policy ++ d.sense.policy
    | 10 => (j.bind fun j => (d.dmk.glyphs.find? fun g => g.tag == j.tag).map (·.bytes)).getD []
    | 11 => alignBytes (d.gzBank 2)
    | k => match j with
      | some j => d.jobTableBytes j k
      | none => [])

/-- The SWITCH record of a capture: a job goes live (bit 0), banks of KINDs switch (bit k) at a line of a job (R495). -/
def Dev.switchRecord (d : Dev) (tag line mask : Nat) : Dev :=
  if d.recd.cap != .running || mask == 0 then d
  else
    let j := d.job? tag
    let frame := match j with
      | some j => line / max 1 j.repeat_
      | none => 0
    let crcs := ((List.range 12).filter fun k => decide (1 ≤ k) && bitOf mask k).map fun k => leBytes 4 (d.tableCrc j k)
    d.capture 5 ([tag, 0] ++ leBytes 2 mask ++ leBytes 5 line ++ [0, 0, 0] ++ leBytes 4 frame ++ crcs.flatten)

end Sys2Proof.Machine
end

