-- ==== Sys2Proof/Machine/Nozzles.lean ====
section
/-! DEFINITION. The nozzle table (R207, R208), compensation partners (R215), degraded rows (R230), and the switch of the device-wide
tables (R210, R229, R235, R237). -/
namespace Sys2Proof.Machine

/-! ## Entries (R208) -/

/-- Replace a field of an entry. -/
def neSet (e lo w v : Nat) : Nat := e - bitsOf e lo w * 2 ^ lo + v % 2 ^ w * 2 ^ lo

def neSlot (e : Nat) : Nat := bitsOf e 0 14
def neRow (e : Nat) : Nat := bitsOf e 14 2
def neLink (e : Nat) : Nat := bitsOf e 16 4
def neGain (e : Nat) : Nat := bitsOf e 20 16
def neState (e : Nat) : Nat := bitsOf e 36 2
def neBad (e : Nat) : Nat := bitsOf e 38 3
def neGood (e : Nat) : Nat := bitsOf e 41 4
def neWeak (e : Nat) : Nat := bitsOf e 45 2
def nePartL (e : Nat) : Nat := bitsOf e 47 2
def nePartR (e : Nat) : Nat := bitsOf e 49 2
def neOvr (e : Nat) : Bool := bitOf e 51
def neBoost (e : Nat) : Nat := bitsOf e 52 12

def nsOk : Nat := 0
def nsWeak : Nat := 1
def nsFailed : Nat := 2
def nsDisabled : Nat := 3

/-- OK or WEAK: the nozzle prints. -/
def nePrints (e : Nat) : Bool := decide (neState e ≤ 1)

/-- PART_L and PART_R of an entry. -/
def nePart (e l r : Nat) : Nat := neSet (neSet e 47 2 l) 49 2 r

/-- All three counters. -/
def neCounts (e bad good weak : Nat) : Nat := neSet (neSet (neSet e 38 3 bad) 41 4 good) 45 2 weak

/-- An entry of a bank; one not listed is 0. -/
def GzBank.entry (b : GzBank) (i : Nat) : Nat := (kvGet b.nozzles i).getD 0

/-- Write an entry. -/
def GzBank.setEntry (b : GzBank) (i e : Nat) : GzBank :=
  { b with nozzles := if e = 0 then kvDel b.nozzles i else kvPut b.nozzles i e }

def Dev.ntCh (d : Dev) : Nat := d.get Reg.PIPE_GZ_CFG.CH_M1 + 1
def Dev.ntW (d : Dev) : Nat := d.get Reg.PIPE_GZ_NTW.NT_W

/-- The first shadow entry. -/
def shadow0 : Nat := 262144

/-- A shadow entry's stitch and overlap column. -/
def shadowOf (i : Nat) : Nat × Nat := ((i - shadow0) / 128, (i - shadow0) % 128)

/-- An entry is in use beside a stitch set (R207). -/
def Dev.entryUsed (d : Dev) (stitches : List (Nat × Stitch)) (i : Nat) : Bool :=
  if i < shadow0 then decide (i < d.ntCh * d.ntW)
  else
    let (s, j) := shadowOf i
    match kvGet stitches s with
    | some x => x.type == 1 && decide (j < x.ov)
    | none => false

/-- The number of entries in use. -/
def Dev.usedCount (d : Dev) (stitches : List (Nat × Stitch)) : Nat :=
  d.ntCh * d.ntW + stitches.foldl (fun n (_, x) => if x.type = 1 then n + x.ov else n) 0

/-- Channel and column of an entry in use; a shadow entry's are those of its stitch. -/
def placeOf (ntw : Nat) (stitches : List (Nat × Stitch)) (i : Nat) : Nat × Nat :=
  if i < shadow0 then (i / max 1 ntw, i % max 1 ntw)
  else
    let (s, j) := shadowOf i
    match kvGet stitches s with
    | some x => (x.ch, x.x0 + j)
    | none => (0, 0)

/-! ## Partners (R215) -/

/-- The smallest distance from 1 to 3 to a printing main entry on one side; 0 if there is none. -/
def Dev.partner (d : Dev) (nz : List (Nat × Nat)) (i : Nat) (left : Bool) : Nat :=
  let x := i % max 1 d.ntW
  match [1, 2, 3].find? fun k => if left then decide (k ≤ x) && nePrints ((kvGet nz (i - k)).getD 0)
      else decide (x + k < d.ntW) && nePrints ((kvGet nz (i + k)).getD 0) with
  | some k => k
  | none => 0

/-- Partners of every main entry with OVR = 0. -/
def Dev.setPartners (d : Dev) (nz : List (Nat × Nat)) : List (Nat × Nat) :=
  let new := nz.map fun (i, e) =>
    if shadow0 ≤ i || neOvr e || !d.entryUsed [] i then (i, e)
    else if nePrints e then (i, nePart e 0 0)
    else (i, nePart e (d.partner nz i true) (d.partner nz i false))
  new.filter fun (_, e) => e != 0

/-! ## Degraded rows (R230) -/

/-- For each head row, key 4 x link + row: entries in use that map to it, and those that are FAILED. -/
def Dev.rowCounts (d : Dev) (n : Nat) : Nat × Nat :=
  let st := (d.gzBank 1).stitches
  let listed := (d.gzBank 0).nozzles.filter fun (i, _) => d.entryUsed st i
  let mine := listed.filter fun (_, e) => decide (4 * neLink e + neRow e = n)
  let blank := if n = 0 then d.usedCount st - listed.length else 0
  (mine.length + blank, (mine.filter fun (_, e) => neState e == nsFailed).length)

/-- PIPE_GZ_DEGR follows the degraded rows. -/
def Dev.degradedLinks (d : Dev) : Dev :=
  d.put Reg.PIPE_GZ_DEGR.LINKS (d.gz.degraded.foldl (fun m g => setBit m g.link true) 0)

/-- One head row after a change of states. -/
def Dev.degradeRow (d : Dev) (tag frame n : Nat) : Dev :=
  let (all, failed) := d.rowCounts n
  let bad := decide (d.get Reg.PIPE_GZ_DEGRADE.MAX_FAIL * all < 1000 * failed)
  let was := d.gz.degraded.any fun g => decide (4 * g.link + g.row = n)
  let link := n / 4
  let row := n % 4
  if bad && !was then
    let act := d.gz.policy.getD (4 * link) 0
    let g : Degraded := ⟨link, row, act, tag, frame⟩
    let d := (({ d with gz := { d.gz with degraded := d.gz.degraded ++ [g] } }).degradedLinks).post 0xB031 sevWarn [link, row, failed, all, act]
    if act = 3 then d.stopWeb else d
  else if !bad && was then
    (({ d with gz := { d.gz with degraded := d.gz.degraded.filter fun g => decide (4 * g.link + g.row ≠ n) } }).degradedLinks).post
      0xB032 sevInfo [link, row, failed, all]
  else d

/-- FAILED and WEAK counts, and every row, after a switch that changes a state. -/
def Dev.degradeAll (d : Dev) (tag frame : Nat) : Dev := (List.range 64).foldl (fun d n => d.degradeRow tag frame n) d

/-- PIPE_GZ_FAILED and PIPE_GZ_WEAK. -/
def Dev.countStates (d : Dev) : Dev :=
  let st := (d.gzBank 1).stitches
  let listed := (d.gzBank 0).nozzles.filter fun (i, _) => d.entryUsed st i
  let n (s : Nat) : Nat := (listed.filter fun (_, e) => neState e == s).length
  (d.put Reg.PIPE_GZ_FAILED.FAILED (n nsFailed)).put Reg.PIPE_GZ_WEAK.WEAK (n nsWeak)

/-! ## Decisions as events (R229, R238) -/

/-- NOZZLE_DECISION: entry, old state, the entry as decided with the counters that decided it, the frame of effect. -/
def Dev.decisionEvent (d : Dev) (i old new : Nat) (counts : Nat × Nat × Nat) (flags frame : Nat) (parts : Nat × Nat) : Dev :=
  d.post 0xB030 sevInfo [i, old + 4 * new + flags, counts.1 + 2 ^ 8 * counts.2.1 + 2 ^ 16 * counts.2.2, frame, parts.1 + 4 * parts.2]

def ndSuppressed : Nat := 16
def ndSuperseded : Nat := 32
def ndHost : Nat := 64

/-! ## The switch point (R210, R235, R237) -/

/-- Write the alignment set to the older of its two MRAM records (R235). -/
def Dev.alignToMram (d : Dev) : Dev :=
  let mram := mramWrite d.gz.mram (d.gzBank 2).align
  ({ d with gz := { d.gz with mram := mram } }).mramChecked mram fun a => alignBytes { GzBank.reset with align := a }

/-- PIPE_GZ_XREM_m: the remainder of each row (R233). -/
def Dev.alignRem (d : Dev) : Dev :=
  (List.range 64).foldl (fun e n =>
    let xo := ((kvGet (e.gzBank 2).align n).getD (0, 0)).2
    e.put ⟨0xB0340 + 4 * (n / 8), 4 * (n % 8), 4, 0⟩ (fieldOf 4 (xo - 16 * ((xo + 8) / 16)))) d

/-- The whole-nozzle shift of row n = 4 x link + row (R233). -/
def Dev.shiftOf (d : Dev) (n : Nat) : Int := (((kvGet (d.gzBank 2).align n).getD (0, 0)).2 + 8) / 16

/-- Put a policy table in force: INSTANCE 0x20 Gauze, 0x21 links, 0x22 Linen, 0x23 mains. -/
def Dev.setPolicy (d : Dev) (inst : Nat) (bs : List Nat) : Dev :=
  match inst with
  | 0x20 =>
    let stops := d.gz.degraded.any fun g => g.action != 3 && bs.getD (4 * g.link) 0 == 3
    let d := { d with gz := { d.gz with policy := bs, degraded := d.gz.degraded.map fun g => { g with action := bs.getD (4 * g.link) 0 } } }
    if stops then d.stopWeb else d
  | 0x21 => { d with link := { d.link with policy := bs } }
  | 0x22 => { d with linen := { d.linen with policy := bs } }
  | _ => { d with sense := { d.sense with policy := bs } }

/-- An LK register takes a value at the switch point (R237). -/
def Dev.putWord (d : Dev) (off value : Nat) : Dev :=
  match off with
  | 0xB0308 => (((d.put Reg.PIPE_GZ_DECIDE.K_FAIL value).put Reg.PIPE_GZ_DECIDE.K_OK (value / 2 ^ 4)).put Reg.PIPE_GZ_DECIDE.K_WEAK (value / 2 ^ 8)).put
      Reg.PIPE_GZ_DECIDE.WEAK_ADD (value / 2 ^ 16)
  | 0xB030C => ((d.put Reg.PIPE_GZ_COMP.W1 value).put Reg.PIPE_GZ_COMP.W2 (value / 2 ^ 8)).put Reg.PIPE_GZ_COMP.W3 (value / 2 ^ 16)
  | 0xB0310 => d.put Reg.PIPE_GZ_DEGRADE.MAX_FAIL value
  | 0xB0314 => (((d.put Reg.PIPE_GZ_LADDER.EVERY value).put Reg.PIPE_GZ_LADDER.P (value / 2 ^ 8)).put Reg.PIPE_GZ_LADDER.LD (value / 2 ^ 16)).put
      Reg.PIPE_GZ_LADDER.G_OFS (value / 2 ^ 24)
  | 0xB0318 => d.put Reg.PIPE_GZ_LINKS.MASK value
  | _ => ((d.put Reg.CAM_ANALYSIS.BAD_PCT value).put Reg.CAM_ANALYSIS.WEAK_PCT (value / 2 ^ 8)).put Reg.CAM_ANALYSIS.DEV_MAX (value / 2 ^ 16)

/-- Entries whose state differs between two nozzle tables. -/
def statesDiffer (a b : List (Nat × Nat)) : Bool :=
  a.any (fun (i, e) => neState e != neState ((kvGet b i).getD 0)) || b.any fun (i, e) => neState e != neState ((kvGet a i).getD 0)

/-- The nozzle-table part of a switch, before the banks change over: partners, then the decisions that a load supersedes and the changes
of state that the host made. -/
def Dev.beforeNozzleSwitch (d : Dev) (frame : Nat) : Dev :=
  let old := (d.gzBank 0).nozzles
  let new := d.setPartners (d.gzIdle 0).nozzles
  let d := d.modIdle 0 fun b => { b with nozzles := new }
  let d := (d.gz.decided.filter fun x => d.gz.loaded.contains x.entry).foldl (fun d x =>
    d.decisionEvent x.entry x.old x.new (x.bad, x.good, x.weak) ndSuperseded frame (x.partL, x.partR)) d
  let d := d.gz.hostSet.foldl (fun d i =>
    let a := neState ((kvGet old i).getD 0)
    let e := (kvGet new i).getD 0
    if neState e = a then d else
      d.decisionEvent i a (neState e) (neBad e, neGood e, neWeak e) ndHost frame (nePartL e, nePartR e)) d
  { d with gz := { d.gz with loaded := [], hostSet := [], decided := [] } }

/-- The banks of every kind with a complete change switch, the values that waited are in force; the KINDs switched, as bits. -/
def Dev.gzSwitch (d : Dev) (tag frame : Nat) : Dev × Nat :=
  let p := d.gz.pending
  let d := d.gz.regs.foldl (fun d (o, v) => d.putWord o v) { d with gz := { d.gz with regs := [], pending := 0 } }
  let d := d.gz.policyNext.foldl (fun d (i, bs) => d.setPolicy i bs) { d with gz := { d.gz with policyNext := [] } }
  if p % 8 = 0 then (d, 0)
  else
    let nz := bitOf p 0
    let old := (d.gzBank 0).nozzles
    let d := if nz then d.beforeNozzleSwitch frame else d
    let act := d.get Reg.PIPE_GZ_BANK.ACTIVE
    let d := (d.put Reg.PIPE_GZ_BANK.ACTIVE (Nat.xor act (p % 8))).put Reg.PIPE_GZ_BANK.FRAME frame
    let d := ([0, 1, 2].filter (bitOf p)).foldl (fun d k =>
      let src := d.gzBank k
      (d.modIdle k fun b => b.take src k).copyMarks ([1, 7, 11].getD k 0) (b2n (bitOf (d.get Reg.PIPE_GZ_BANK.ACTIVE) k))) d
    let d := if nz || bitOf p 1 then d.countStates else d
    let d := if nz && statesDiffer old (d.gzBank 0).nozzles then d.degradeAll tag frame else d
    let d := if bitOf p 2 then d.alignToMram.alignRem else d
    (d, 2 * b2n nz + 2 ^ 7 * b2n (bitOf p 1) + 2 ^ 11 * b2n (bitOf p 2))

/-- A change is complete: with no job live the switch comes at once. -/
def Dev.gzDue (d : Dev) : Dev :=
  if d.live?.isSome then d
  else
    let (d, mask) := d.gzSwitch 0 0
    d.switchRecord 0 0 mask

/-- The live job's first frame whose line 0 Twill has not begun. -/
def Dev.freshFrame (d : Dev) : Nat :=
  match d.live?, d.twl.begun with
  | some j, some (t, l) =>
    if t = j.tag then l / j.repeat_ + 1
    else match d.job? t with
      | some k => if k.spliceAt.isSome then l / k.repeat_ + 1 else 0
      | none => 0
  | _, _ => 0

/-- The job and the frame at which a change that is complete now takes effect: that frame, or frame 0 of the job that a pending SPLICE_AT
puts there or before; where Twill is in that job already, its next frame (R210). Job 0 with no job live. -/
def Dev.switchPoint (d : Dev) : Nat × Nat :=
  match d.live? with
  | none => (0, 0)
  | some j =>
    let f := d.freshFrame
    let due (k : Job) : Bool := k.tag != j.tag && k.spliceAt.any fun p => decide (pwDiff p (j.frameStart f) ≤ 0)
    match d.jobs.find? due with
    | none => (j.tag, f)
    | some k => (k.tag, match d.twl.begun with
      | some (t, l) => if t = k.tag then l / k.repeat_ + 1 else 0
      | none => 0)

/-- The frame at which a change that is complete now takes effect. -/
def Dev.switchFrame (d : Dev) : Nat := d.switchPoint.2

/-- The line at which a change that is complete now takes effect, and its job; tag 0 with no job live. -/
def Dev.switchLine (d : Dev) : Nat × Nat :=
  (d.switchPoint.1, match d.job? d.switchPoint.1 with
    | some j => d.switchPoint.2 * j.repeat_
    | none => 0)

end Sys2Proof.Machine
end

