-- ==== Sys2Proof/Machine/Calico.lean ====
section
/-! DEFINITION. Calico (R127 to R151): block headers, the decoder, stream contexts, and the compressor. -/
namespace Sys2Proof.Machine

/-! ## Block headers (R130, R131, R138) -/

def calIllegal : Nat := 0x30
def calDistance : Nat := 0x31
def calLength : Nat := 0x32
def calInput : Nat := 0x33
def calCheck : Nat := 0x34

def hdrType (h : List Nat) : Nat := h.getD 0 0
def hdrFlags (h : List Nat) : Nat := h.getD 1 0
def hdrOut (h : List Nat) : Nat := if hdrType h = 4 then 0 else leAt h 2 2 + 1
def hdrIn (h : List Nat) : Nat := leAt h 4 4
def hdrCheck (h : List Nat) : Nat := leAt h 8 4
def hdrCount (h : List Nat) : Nat := leAt h 12 4

/-- Payload and pad up to the next multiple of 8 (R130). -/
def padded (n : Nat) : Nat := cdiv n 8 * 8

/-- A header within the limits of R131. -/
def hdrOk (h : List Nat) : Bool :=
  match hdrType h with
  | 1 => hdrFlags h % 2 = 0 && decide (hdrFlags h < 4) && decide (hdrCount h = 0) && decide (hdrIn h % 2 = 0)
    && decide (2 ≤ hdrIn h) && decide (hdrIn h ≤ 262146)
  | 2 => decide (hdrFlags h < 4) && decide (hdrCount h = 0) && decide (hdrIn h = hdrOut h)
  | 3 => hdrFlags h % 2 = 0 && decide (hdrFlags h < 4) && decide (hdrIn h = 0)
  | 4 => decide (hdrFlags h = 0) && decide (leAt h 2 2 = 0) && decide (hdrIn h = 0)
  | _ => false

/-- The header walk of R138 over a buffer: the status of the first failing check. -/
def headerWalk : Nat → List Nat → Bool → Option Nat
  | 0, _, _ => some calInput
  | fuel + 1, bs, last =>
    if bs = [] then (if last then some calInput else none)
    else if bs.length < 16 then some calInput
    else
      let n := hdrIn bs
      let rest := bs.drop 16
      if !hdrOk (bs.take 16) then some calIllegal
      else if rest.length < padded n then some calInput
      else if (rest.drop n).take (padded n - n) |>.any (· ≠ 0) then some calIllegal
      else
        let tail := rest.drop (padded n)
        if hdrType bs = 4 then
          (if !last then some calIllegal else if tail = [] then none else some calIllegal)
        else headerWalk fuel tail last

/-! ## The decoder (R132 to R136, R141) -/

/-- The running CRC-32C from its start (R136). -/
def crcStart : Nat := (crcCode 0).init

def Dec.start (ident : Nat) : Dec := ⟨ident, 0, 0, 0, 0, 0, 0, crcStart, crcStart, 0, 0, 0, [], [], [], 0, 0⟩

/-- A failure: code, payload offset as CALICO_ERROR has it, BLOCK_OUT, poison, block sequence. -/
structure DecErr where
  code : Nat
  offset : Nat
  blockOut : Nat
  poison : Bool
  seq : Nat
  deriving DecidableEq, Repr

/-- What a decode reads: whether the stream's bytes from an offset, or its output bytes from one in history, carry poison, and whether a
history mark may occur. -/
structure Reads where
  bad : Nat → Nat → Bool
  badPast : Nat → Nat → Bool
  marks : Bool

def Reads.clean : Reads := ⟨fun _ _ => false, fun _ _ => false, true⟩

def Dec.fail (x : Dec) (code offset : Nat) (poison : Bool) : DecErr := ⟨code, offset, x.blockOut, poison, x.seq⟩

/-- Output bytes: every one enters history (R134) and both running checks (R136). -/
def Dec.emit (x : Dec) (bs : List Nat) : Dec :=
  { x with total := x.total + bs.length, blockOut := x.blockOut + bs.length, hist := min 65536 (x.hist + bs.length)
           blockCrc := crcRun (crcCode 0) x.blockCrc bs, streamCrc := crcRun (crcCode 0) x.streamCrc bs
           past := (bs.reverse ++ x.past).take 65536, rev := bs.reverse ++ x.rev }

/-- `n` input bytes are used up. -/
def Dec.used (x : Dec) (n : Nat) : Dec := { x with pos := x.pos + n, blockIn := x.blockIn + n }

/-- `len` bytes copied one at a time from distance `dist`, in front of history (R133). -/
def copyMatch : Nat → Nat → List Nat → List Nat
  | 0, _, past => past
  | n + 1, dist, past => copyMatch n dist (past.getD (dist - 1) 0 :: past)

/-- The prefix of a block check (R136). -/
def checkPrefix (ident seq : Nat) : List Nat := leBytes 4 ident ++ leBytes 4 seq

/-- The check of the END block: prefix, then the whole output of the stream, whose running CRC alone and length are at hand. The CRC
register is linear: the prefix takes the place of the start by as many zero bytes (R136). -/
def endCheck (ident seq crc total : Nat) : Nat :=
  let c := crcCode 0
  crcFinal c (Nat.xor (crcRun c (Nat.xor (crcRun c crcStart (checkPrefix ident seq)) crcStart) (List.replicate total 0)) crc)

/-- A block is done: the next header follows its pad. -/
def Dec.close (x : Dec) : Dec :=
  let h := x.header
  { x with
    pos := x.pos + (padded (hdrIn h) - hdrIn h), seq := x.seq + 1, blockOut := 0, blockIn := 0, pend := 0, left := 0, arg := 0, header := []
    blocks := x.blocks + 1, fallbacks := x.fallbacks + hdrFlags h % 2 * b2n (hdrType h = 2) }

/-- The decoder reads a header: a poisoned byte of it is found before any code; END is checked at once (R141). -/
def Dec.openBlock (r : Reads) (x : Dec) (h : List Nat) : Except DecErr (Dec × Bool) :=
  let x := { x with blockOut := 0, blockIn := 0 }
  if r.bad x.pos 16 then .error (x.fail calCheck 0xFFFFFFFE true)
  else if !hdrOk h then .error (x.fail calIllegal 0xFFFFFFFE false)
  else if hdrType h = 4 then
    if hdrCount h ≠ x.seq ∨ endCheck x.ident x.seq x.streamCrc x.total ≠ hdrCheck h then .error (x.fail calCheck 0xFFFFFFFF false)
    else .ok ({ x with pos := x.pos + 16, blocks := x.blocks + 1 }, true)
  else .ok ({ x with
    pos := x.pos + 16, header := h, hist := if bitOf (hdrFlags h) 1 then 0 else x.hist
    blockCrc := crcRun (crcCode 0) crcStart (checkPrefix x.ident x.seq) }, false)

/-- The next code of a COMPRESSED block, from the rest of its payload: the tests of R141 in their order. -/
def Dec.code (r : Reads) (x : Dec) (bs : List Nat) : Except DecErr Dec :=
  let fail (c : Nat) (poison : Bool) : Except DecErr Dec := .error (x.fail c x.blockIn poison)
  let room := hdrOut x.header - x.blockOut
  let rest := bs.drop 2
  let w := leAt bs 0 2
  let low := w % 16384
  -- a code with `n` more bytes, `take` of them used up now, that gives `len` bytes
  let go (n take len pend arg : Nat) (past : Bool) : Except DecErr Dec :=
    if room < len then fail calLength false
    else if r.bad x.pos (2 + n) || past then fail calCheck true
    else .ok { x.used (2 + take) with pend := pend, left := len, arg := arg }
  let copy (n len dist : Nat) : Except DecErr Dec :=
    if x.hist < dist then fail calDistance false else go n n len 2 dist (r.badPast (x.total - dist) (min len dist))
  if bs.length < 2 then fail calInput false
  else match w / 16384 with
    | 0 =>
      let count := low + 1
      let n := count + count % 2
      if rest.length < n then fail calInput false
      else if count % 2 = 1 ∧ rest.getD count 0 ≠ 0 then fail calIllegal false
      else go n 0 count 1 0 false
    | 1 => copy 0 (low / 256 + 3) (low % 256 + 1)
    | 2 => if rest.length < 2 then fail calInput false else copy 2 (low + 3) (leAt rest 0 2 + 1)
    | _ =>
      let arg := low % 4096
      match low / 4096 with
      | 0 =>
        if rest.length < 2 then fail calInput false
        else if rest.getD 1 0 ≠ 0 then fail calIllegal false
        else go 2 2 (arg + 1) 3 (rest.getD 0 0) false
      | 1 =>
        if arg ≠ 0 ∨ rest ≠ [] ∨ room ≠ 0 then fail calIllegal false
        else if r.bad x.pos 2 then fail calCheck true
        else .ok (x.used 2).close
      | 2 =>
        if arg ≠ 0 ∨ !r.marks then fail calIllegal false
        else if r.bad x.pos 2 then fail calCheck true
        else .ok { x.used 2 with hist := 0 }
      | _ => fail calIllegal false

/-- The next `k` output bytes of the code, or of the RAW or FILL block, in progress. -/
def Dec.produce (x : Dec) (k : Nat) (bs : List Nat) : Dec :=
  match hdrType x.header with
  | 1 =>
    let left := x.left - k
    let x' := match x.pend with
      | 1 => (x.emit (bs.take k)).used (k + if left = 0 then (x.blockIn + k) % 2 else 0)
      | 2 => x.emit ((copyMatch k x.arg x.past).take k).reverse
      | _ => x.emit (List.replicate k x.arg)
    { x' with left := left, pend := if left = 0 then 0 else x.pend }
  | 2 => (x.emit (bs.take k)).used k
  | _ => x.emit ((List.range k).map fun i => x.header.getD (12 + (x.blockOut + i) % 4) 0)

/-- After a block's last output byte its check is tested (R141); a RAW or FILL block ends there. -/
def Dec.checked (x : Dec) : Except DecErr Dec :=
  if x.blockOut ≠ hdrOut x.header then .ok x
  else if crcFinal (crcCode 0) x.blockCrc ≠ hdrCheck x.header then .error (x.fail calCheck 0xFFFFFFFF false)
  else .ok (if hdrType x.header = 1 then x else x.close)

/-- The next thing a decode does with the input before it, and at most `most` bytes of output: none where a block is not all there, else
the decode and whether END has been checked. A RAW block that holds poison fails with the offset of a check at block end (log entry
156). -/
def Dec.advance (r : Reads) (most : Option Nat) (x : Dec) (bs : List Nat) : Except DecErr (Option (Dec × Bool)) :=
  if x.header = [] then
    if bs.length < 16 ∨ (bs.drop 16).length < padded (hdrIn bs) then .ok none else (x.openBlock r (bs.take 16)).map some
  else
    let payload := bs.take (hdrIn x.header - x.blockIn)
    let left := if hdrType x.header = 1 then x.left else hdrOut x.header - x.blockOut
    if hdrType x.header = 1 ∧ x.left = 0 then (x.code r payload).map fun y => some (y, false)
    else if hdrType x.header = 2 ∧ r.bad x.pos left then .error ⟨calCheck, 0xFFFFFFFF, hdrOut x.header, true, x.seq⟩
    else (x.produce ((most.map (min left)).getD left) payload).checked.map fun y => some (y, false)

/-- A decode carried on through the input before it, to END, to an error, to the end of the whole blocks there, or until it has given
`upto` bytes of output. -/
def Dec.run (r : Reads) (upto : Option Nat) : Nat → Dec → List Nat → Except (DecErr × Dec) (Dec × List Nat × Bool)
  | 0, x, bs => .ok (x, bs, false)
  | fuel + 1, x, bs =>
    if upto = some x.total then .ok (x, bs, false)
    else match x.advance r (upto.map (· - x.total)) bs with
      | .error e => .error (e, x)
      | .ok none => .ok (x, bs, false)
      | .ok (some (y, ended)) =>
        let rest := bs.drop (y.pos - x.pos)
        if ended then .ok (y, rest, true) else Dec.run r upto fuel y rest

/-- Bounds the work in `n` input bytes: a header or a code, and its output. -/
def decFuel (n : Nat) : Nat := 2 * n + 8

/-! ## The content store (R137, R152) -/

def Dev.stream? (d : Dev) (tag id : Nat) : Option Stream := d.cal.streams.find? fun s => s.tag == tag && s.id == id

/-- The bytes of a stream, buffers joined (R137). -/
def Stream.bytes (s : Stream) : List Nat := (s.bufs.map (·.bytes)).flatten

/-- The streams of a job in ascending STREAM order. -/
def Dev.streamsOf (d : Dev) (tag : Nat) : List Stream := (d.cal.streams.filter fun s => s.tag == tag).mergeSort fun a b => decide (a.id ≤ b.id)

/-- Place of an offset of a stream: which page of the stream, and where in it. Every buffer begins a page. -/
def pageOf : List Buffer → Nat → Nat → Nat × Nat
  | [], n, o => (n + o / 65536, o % 65536)
  | b :: t, n, o => if o < b.bytes.length then (n + o / 65536, o % 65536) else pageOf t (n + b.pages) (o - b.bytes.length)

/-- The content store address of a byte of a stream (R148, R152). -/
def Dev.contentAddr (d : Dev) (ident pos : Nat) : Nat :=
  let bufs := ((d.stream? (ident / 65536) (ident % 65536)).map (·.bufs)).getD []
  let (page, o) := pageOf bufs 0 pos
  d.get2 Reg.PIPE_DMK_CS_LO.BASE_LO Reg.PIPE_DMK_CS_HI.BASE_HI + 65536 * Config.contentPage (ident / 65536) (ident % 65536) page + o

/-- A datum of a content stream's decode: its input or its history. -/
def calDatum (ident : Nat) : Datum → Bool
  | .content t i _ => t * 65536 + i == ident
  | .calHist i _ => i == ident
  | _ => false

/-- What the decode of a stream reads. -/
def Dev.decReads (d : Dev) (ident : Nat) : Reads where
  bad o n := d.isBad fun p => match p with
    | .content t i a => t * 65536 + i == ident && decide (a < o + n) && decide (o < a + 8)
    | _ => false
  badPast o n := d.isBad fun p => match p with
    | .calHist i a => i == ident && decide (a < o + n) && decide (o < a + 8)
    | _ => false
  marks := true

/-- The input of a decode from where it stands. -/
def Dev.decInput (d : Dev) (x : Dec) : List Nat := (((d.stream? (x.ident / 65536) (x.ident % 65536)).map Stream.bytes).getD []).drop x.pos

/-- A decode carried to its END block, or to its failure: a stream whose input ends before END fails there (R138 refuses one). -/
def Dev.decodeOut (d : Dev) (x : Dec) : Except (DecErr × Dec) Dec :=
  let bs := d.decInput x
  match x.run (d.decReads x.ident) none (decFuel bs.length) bs with
  | .error e => .error e
  | .ok (y, _, true) => .ok y
  | .ok (y, _, false) => .error (y.fail calInput y.blockIn false, y)

/-- A decode carried some way on: `n` picks how far, between where it stands and its last output byte before END or its failure. -/
def Dev.decodeSome (d : Dev) (x : Dec) (n : Nat) : Dec :=
  let bs := d.decInput x
  let r := d.decReads x.ident
  let last := match d.decodeOut x with
    | .ok y => y.total
    | .error (_, y) => y.total
  match x.run r (some (x.total + n % (last - x.total + 1))) (decFuel bs.length) bs with
  | .ok (y, _, _) => y
  | .error (_, y) => y

/-- PIPE_CAL_BLOCKS and PIPE_CAL_FALLBACK follow a decode. -/
def Dev.countBlocks (d : Dev) (x : Dec) : Dev :=
  (d.put Reg.PIPE_CAL_BLOCKS.BLOCKS (d.get Reg.PIPE_CAL_BLOCKS.BLOCKS + x.blocks)).bumpBy Reg.PIPE_CAL_FALLBACK.FB_IN x.fallbacks

def Dec.counted (x : Dec) : Dec := { x with blocks := 0, fallbacks := 0 }

/-! ## Contexts (R143 to R148) -/

/-- PIPE_CAL_CTX_n.STATE. -/
def Ctx.code : Ctx → Nat
  | .free => 0
  | .decode _ => 1
  | .compress _ => 2

/-- The identifier of the stream that a context holds; 0 for none. -/
def Ctx.ident : Ctx → Nat
  | .free => 0
  | .decode x => x.ident
  | .compress i => i

/-- Change a context; PIPE_CAL_CTX_n follows. -/
def Dev.setCtx (d : Dev) (c : Nat) (x : Ctx) : Dev :=
  let d := { d with cal := { d.cal with ctxs := setAt d.cal.ctxs c x } }
  (d.put (Reg.PIPE_CAL_CTX_n.STATE c) x.code).put (Reg.PIPE_CAL_CTX_n.STREAM c) x.ident

def Dev.ctx (d : Dev) (c : Nat) : Ctx := d.cal.ctxs.getD c .free

/-- The location of a context: its unit is an engine of Ingest, the context its tile (R25, R143). -/
def Dev.ctxLoc (d : Dev) (c : Nat) : Nat := d.loc 0 0 (3 + c / 4) (c % 4) 0 0

/-- CALICO_SAVE (R151). -/
def Dev.saveEvent (d : Dev) (ident slot kind out c : Nat) : Dev :=
  d.postAt 0xB002 sevInfo [ident, slot, kind, out % 2 ^ 32, 0, c] (d.ctxLoc c)

/-- CALICO_ERROR (R151). -/
def Dev.calicoError (d : Dev) (ident seq off out code ctx : Nat) (poison : Bool) : Dev :=
  d.postAt 0xB001 sevWarn [ident, seq, off, out, code + 256 * b2n poison, ctx] (d.ctxLoc ctx)

/-- The streams of begun stagings whose decode has not started, oldest JOB_STAGE first. -/
def Dev.unstarted (d : Dev) : List Nat :=
  let begun := d.cal.staging.filter (·.begun)
  let held := d.cal.ctxs.filterMap fun x => match x with
    | .decode y => some y.ident
    | _ => none
  let gone := held ++ d.cal.saved.map (·.dec.ident) ++ (begun.map fun g => g.done.map (·.ident)).flatten
  ((begun.map fun g => (d.streamsOf g.tag).map fun s => g.tag * 65536 + s.id).flatten).filter fun i => !gone.contains i

/-- Streams take the free contexts, the lowest first, unless a saved decode waits (R139, R147). -/
def Dev.startDecodes (d : Dev) : Dev :=
  if d.cal.saved ≠ [] then d
  else
    let free := (List.range 16).filter fun c => d.ctx c == .free
    (free.zip d.unstarted).foldl (fun d (c, i) => d.dramReq.setCtx c (.decode (Dec.start i))) d

/-- A context is free: a stream that waits for one takes it. -/
def Dev.freeCtx (d : Dev) (c : Nat) : Dev := (d.setCtx c .free).startDecodes

/-- The state record of a save (R148). HIST_HEAD is where the byte after the last one lies in a history of 65,536 bytes that the stream
fills from 0 on. -/
def Dec.record (x : Dec) (inAddr : Nat) : List Nat :=
  let body := padTo 252 (leBytes 4 x.ident ++ leBytes 4 x.seq ++ leBytes 8 x.total ++ leBytes 8 inAddr ++ leBytes 4 x.blockOut
    ++ leBytes 4 x.blockIn ++ leBytes 4 x.hist ++ leBytes 4 (x.total % 65536) ++ leBytes 4 x.blockCrc ++ leBytes 4 x.streamCrc
    ++ leBytes 4 (2 ^ 30 * x.pend + x.left) ++ leBytes 4 x.arg ++ padTo 16 x.header)
  body ++ leBytes 4 (crc32c body)

/-- STATE_CRC of a record holds (R148). -/
def recordOk (bs : List Nat) : Bool := crc32c (bs.take 252) == leAt bs 252 4

/-- Slot `s` of the save area (R146). -/
def Dev.slotAddr (d : Dev) (s : Nat) : Nat := d.get2 Reg.PIPE_CAL_SAVE_LO.BASE_LO Reg.PIPE_CAL_SAVE_HI.BASE_HI + 0x20000 * s

/-- A datum in a slot of the save area. -/
def Dev.slotDatum (d : Dev) (s : Nat) : Datum → Bool
  | .saveSlot n => n == s
  | .device a => decide (a < d.slotAddr s + 0x20000) && decide (d.slotAddr s < a + 8)
  | _ => false

/-- The lowest free slot of the save area. -/
def Dev.saveSlot (d : Dev) : Nat :=
  ((List.range 8).find? fun s => !(d.cal.saved.any fun v => v.slot == s)).getD 0

/-- Save the decode that runs in a context: its history, oldest byte first, and its state record go to the lowest free slot (R146). How far
it has come is not fixed. Poison in its history goes to the slot with it. -/
def Dev.saveCtx (d : Dev) (c : Nat) : Dev :=
  match d.ctx c with
  | .decode x =>
    let (n, d) := d.draw 64
    let y := d.decodeSome x n
    let d := d.dramReq.countBlocks y
    let slot := d.saveSlot
    let a := d.slotAddr slot
    let history := (y.past.take y.hist).reverse
    let hist (p : Datum) : Bool := match p with
      | .calHist i _ => i == y.ident
      | _ => false
    let spoiled := (d.decReads y.ident).badPast (y.total - y.hist) y.hist
    let d := (d.clearPoison (d.slotDatum slot)).clearPoison hist
    let d := if spoiled then { d with ecc := { d.ecc with poisoned := d.ecc.poisoned ++ [.saveSlot slot] } } else d
    let d := ({ d with cal := { d.cal with
      saved := d.cal.saved ++ [(⟨slot, y.counted⟩ : Saved)]
      stores := d.cal.stores ++ [(a, history), (a + 0x10000, y.record (d.contentAddr y.ident y.pos))] } }).bump Reg.PIPE_CAL_SAVES.SAVES
    (d.saveEvent y.ident slot 1 y.total c).setCtx c .free
  | _ => d

/-- The context that a compressor takes (R144, R145): capture takes 15; an image the highest free one, else the highest that no
compressor holds. -/
def Dev.compCtx (d : Dev) (capture : Bool) : Option Nat :=
  let down := (List.range 16).reverse
  let isFree (c : Nat) : Bool := d.ctx c == .free
  let isComp (c : Nat) : Bool := match d.ctx c with
    | .compress _ => true
    | _ => false
  if capture && !isComp 15 then some 15
  else match down.find? isFree with
    | some c => some c
    | none => down.find? (fun c => !isComp c)

/-- A compressor starts on a stream. -/
def Dev.startComp (d : Dev) (ident dest : Nat) : Dev :=
  let d := match d.compCtx (dest == 255) with
    | some c => (d.saveCtx c).setCtx c (.compress ident)
    | none => d
  let c : Comp := ⟨ident, dest, 0, [], 0, crcStart, 0, [], 0, false, false, [], false⟩
  { d with cal := { d.cal with comps := d.cal.comps ++ [c] } }

/-- A compressor is done with: its context is free. -/
def Dev.endComp (d : Dev) (dest : Nat) : Dev :=
  match d.cal.comps.find? fun c => c.dest == dest with
  | none => d
  | some x =>
    let d := { d with cal := { d.cal with comps := d.cal.comps.filter fun c => c.dest != dest } }
    match (List.range 16).find? fun c => d.ctx c == .compress x.ident with
    | some c => d.freeCtx c
    | none => d

/-! ## The compressor (R149, R150) -/

def Dev.comp? (d : Dev) (dest : Nat) : Option Comp := d.cal.comps.find? fun c => c.dest == dest

def Dev.modComp (d : Dev) (dest : Nat) (f : Comp → Comp) : Dev :=
  { d with cal := { d.cal with comps := d.cal.comps.map fun c => if c.dest == dest then f c else c } }

/-- The bytes of a block: header, payload, pad (R130). -/
def blockBytes (type flags out check last : Nat) (payload : List Nat) : List Nat :=
  [type, flags] ++ leBytes 2 (out - 1) ++ leBytes 4 payload.length ++ leBytes 4 check ++ leBytes 4 last ++ padTo (padded payload.length) payload

/-- What a decoder with the compressor's history makes of a payload for its open block, with no history mark in it (R149). -/
def Comp.decodes (c : Comp) (reset : Bool) (body : List Nat) : Bool :=
  let h := (blockBytes 1 (2 * b2n reset) c.block.length (crc32c (checkPrefix c.ident c.seq ++ c.block)) 0 body).take 16
  let x : Dec := { Dec.start c.ident with seq := c.seq, total := c.total, hist := c.hist, past := c.past }
  match x.run { Reads.clean with marks := false } none (decFuel (16 + padded body.length)) (h ++ padTo (padded body.length) body) with
  | .ok (y, _, _) => y.seq == c.seq + 1 && y.rev == c.block.reverse
  | .error _ => false

/-- Close the open block (R149). The choice of codes is not specified: any payload that decodes to the block. Where it is no shorter than
the output the block is RAW. -/
def Dev.closeBlock (d : Dev) (dest : Nat) : Dev :=
  match d.comp? dest with
  | none => d
  | some c =>
    if c.block = [] then d
    else
      let every := d.get Reg.PIPE_CAL_CFG.RESET_EVERY
      let reset := c.seq = 0 ∨ (every ≠ 0 ∧ c.seq % every = 0) ∨ c.resetNext
      let body := (Config.compress c.ident c.seq c.block).map (· % 256)
      let raw := decide (c.block.length ≤ body.length) || !c.decodes reset body
      let check := crc32c (checkPrefix c.ident c.seq ++ c.block)
      let bytes := blockBytes (if raw then 2 else 1) (b2n raw + 2 * b2n reset) c.block.length check 0 (if raw then c.block else body)
      let d := (if raw then d.bump Reg.PIPE_CAL_FALLBACK.FB_OUT else d).unitCrc 3 check none
      d.modComp dest fun c => { c with
        seq := c.seq + 1, block := [], crc := crcRun (crcCode 0) c.crc c.block, total := c.total + c.block.length
        past := (c.block.reverse ++ c.past).take 65536, hist := min 65536 ((if reset then 0 else c.hist) + c.block.length)
        poison := false, resetNext := c.poison, ready := c.ready ++ [(bytes, c.poison, false)] }

/-- The END block (R130, R136). -/
def Dev.closeStream (d : Dev) (dest : Nat) : Dev :=
  let d := d.closeBlock dest
  match d.comp? dest with
  | none => d
  | some c =>
    let check := endCheck c.ident c.seq c.crc c.total
    let bytes := blockBytes 4 0 1 check c.seq []
    (d.unitCrc 3 check none).modComp dest fun c => { c with ready := c.ready ++ [(bytes, false, true)], ended := true }

/-- Output bytes enter the compressor's block, which closes at 65,536 bytes; `bad` are the offsets of the poisoned granules among them
(R150). -/
def Dev.feed (dest : Nat) : Nat → List Nat → List Nat → Dev → Dev
  | 0, _, _, d => d
  | fuel + 1, bs, bad, d =>
    match d.comp? dest with
    | none => d
    | some c =>
      if bs = [] then d
      else
        let room := 65536 - c.block.length
        let d := d.modComp dest fun c => { c with
          block := c.block ++ bs.take room, firstAt := if c.block = [] then d.tb else c.firstAt, poison := c.poison || bad.any (· < room) }
        let d := if room ≤ bs.length then d.closeBlock dest else d
        Dev.feed dest fuel (bs.drop room) ((bad.filter (room ≤ ·)).map (· - room)) d

/-! ## Filling buffers (R498, R224) -/

/-- The open buffer of a ring that fills now. -/
def Dev.openBuf? (d : Dev) (ring : Nat) : Option OpenBuf := d.cal.open_.find? fun b => b.ring == ring && b.closed.isNone

/-- Change the buffer of a ring that fills now. -/
def modFirstBuf (ring : Nat) (f : OpenBuf → OpenBuf) : List OpenBuf → List OpenBuf
  | [] => []
  | b :: t => if b.ring = ring ∧ b.closed.isNone then f b :: t else b :: modFirstBuf ring f t

/-- A buffer's data are written: every write of it has its response (R116). -/
def Dev.bufWritten (d : Dev) (b : OpenBuf) : Bool := !d.host.writes.any fun w => w.ring == b.ring && w.idx == b.idx && w.kind.isData

/-- Closed buffers of a ring complete in order, each once its data are written. -/
def Dev.reapBufs (ring : Nat) : Nat → Dev → Dev
  | 0, d => d
  | fuel + 1, d =>
    match d.cal.open_.find? fun b => b.ring == ring with
    | none => d
    | some b =>
      match b.closed with
      | none => d
      | some (ident, flags) =>
        if d.bufWritten b then
          let d := { d with cal := { d.cal with open_ := d.cal.open_.erase b } }
          Dev.reapBufs ring fuel (d.completeBuf ring b.idx b.op b.irq (if b.poison then stPoisoned else stOk) 0 [ident, b.filled, flags])
        else d

/-- Close the open buffer of a ring: it completes with word 4 the identifier, word 5 the bytes written, word 6 the flags, once every write
of it has its response (R116). -/
def Dev.closeBuf (d : Dev) (ring ident flags : Nat) : Dev :=
  let d := { d with cal := { d.cal with open_ := modFirstBuf ring (fun b => { b with closed := some (ident, flags) }) d.cal.open_ } }
  Dev.reapBufs ring d.cal.open_.length d

/-- Write bytes of a stream into a buffer, in bursts (R111). -/
def Dev.writeData (d : Dev) (b : OpenBuf) (bytes : List Nat) (ep : Bool) : Dev :=
  let a := b.addr + b.filled
  d.pushWrites ((farBursts a bytes.length d.dma.maxPayload).map fun (far, k, n) =>
    ⟨d.channelOf b.ring, b.ring, b.idx, far, (bytes.drop (8 * k)).take n, ep, .data ((b.filled / 8 + k) % 65536), false⟩)

/-- A ring's channel can take data: it is not stopped or about to stop (R124). -/
def Dev.canFill (d : Dev) (ring : Nat) : Bool := d.canRequest && !d.chStopped (d.channelOf ring) && !d.chFailing (d.channelOf ring)

/-- Move stream bytes into the open buffers of a ring while there are both. `more` gives the flags of a completion by whether END is in
it. The result says whether END went out. -/
def Dev.fill (ring dest : Nat) (flags : Bool → Nat) : Nat → Dev → Dev
  | 0, d => d
  | fuel + 1, d =>
    match d.openBuf? ring, d.comp? dest with
    | some b, some c =>
      match c.ready with
      | [] => d
      | (bytes, poison, last) :: t =>
        if !d.canFill ring then d
        else
        let room := b.len - b.filled
        let now := bytes.take room
        let d := d.writeData b now poison
        let d := { d with cal := { d.cal with open_ := modFirstBuf ring (fun b => { b with
          filled := b.filled + now.length, poison := b.poison || poison, firstAt := if b.filled = 0 then d.tb else b.firstAt }) d.cal.open_ } }
        let left := bytes.drop room
        let d := d.modComp dest fun c => { c with ready := if left = [] then t else (left, poison, last) :: t }
        let endOut := last && decide (left = [])
        if endOut then (d.closeBuf ring c.ident (flags true)).modComp dest fun c => { c with ended := true }
        else if b.filled + now.length = b.len then Dev.fill ring dest flags fuel (d.closeBuf ring c.ident (flags false))
        else Dev.fill ring dest flags fuel d
    | _, _ => d

end Sys2Proof.Machine
end

