-- ==== Sys2Proof/Machine/Capture.lean ====
section
/-! DEFINITION. The capture stream on its way to the host (R494 to R501): the on-chip buffer, END, descriptors and gaps. -/
namespace Sys2Proof.Machine

/-- The compressor of the capture stream. -/
def capDest : Nat := 255

/-- REC_CAP_BUF follows the buffer. -/
def Dev.capLevel (d : Dev) : Dev := d.put Reg.REC_CAP_BUF.KIB (cdiv d.recd.capBytes 1024)

/-- A record written whether or not the buffer is full: GAP and END (R500, R501). -/
def Dev.capForce (d : Dev) (type : Nat) (body : List Nat) : Dev :=
  let body := padTo (padded body.length) body
  let rec_ := [type, 0] ++ leBytes 2 ((body.length + 8) / 8) ++ leBytes 4 d.stamp ++ body
  ({ d with recd := { d.recd with
    capBuf := d.recd.capBuf ++ [rec_], capBytes := d.recd.capBytes + rec_.length
    capRecords := d.recd.capRecords + 1, capDecoded := d.recd.capDecoded + rec_.length } }).capLevel

/-- CAPTURE_GAP: what the gap has dropped. It is posted as the gap ends, when its number and its last stamp are known (DEDUCED, log entry
117). -/
def Dev.gapEvent (d : Dev) : Dev :=
  match d.recd.gap with
  | none => d
  | some (n, a, b) => d.post 0x100C sevWarn [0x80000000 + d.get Reg.REC_CAP_STAT.COUNT, n, a, b]

/-- The GAP record; the next block resets history (R500). -/
def Dev.capGapEnd (d : Dev) : Dev :=
  match d.recd.gap with
  | none => d
  | some (n, a, b) =>
    let d := { d.gapEvent with recd := { d.gapEvent.recd with gap := none } }
    (d.capForce 15 (leBytes 4 n ++ leBytes 4 a ++ leBytes 4 b)).modComp capDest fun c => { c with resetNext := true }

/-- Capture descriptors complete with END in [0] and BROKEN in [1] of word 6 (R498). -/
def Dev.capFlags (d : Dev) (last : Bool) : Nat := b2n last + 2 * d.get Reg.REC_CAP_STAT.BROKEN

/-- Whether the END block has gone out. -/
def Dev.capEndOut (d : Dev) : Bool :=
  match d.comp? capDest with
  | some c => c.ended && c.ready.isEmpty
  | none => false

/-- The stream has ended with END in a completed descriptor: CAPTURE_OFF completes, or CAPTURE_ENDED is posted (R501). -/
def Dev.capFinish (d : Dev) : Dev :=
  if d.recd.cap == .ending && d.capEndOut then
    let d := d.endComp capDest
    let why := d.recd.endReason
    let off := d.recd.capOff
    let d := { d with recd := { d.recd with cap := .idle, capOff := none } }
    let d := if why = 0 then d else d.post 0xE003 sevWarn [0x80000000 + d.get Reg.REC_CAP_STAT.COUNT, why]
    match off with
    | some t => d.complete t stOk 0
    | none => d
  else d

/-- The poisoned granules of the oldest `n` bytes in the buffer, by their offset in them; they leave it (R150). -/
def Dev.capPoison (d : Dev) (n : Nat) : List Nat × Dev :=
  let base := d.recd.capDecoded - d.recd.capBytes
  let here (p : Datum) : Option Nat := match p with
    | .capture o => if base ≤ o ∧ o < base + n then some (o - base) else none
    | _ => none
  let e := d.ueRead (d.badData.filter fun p => (here p).isSome)
  (d.badData.filterMap here, e.clearPoison fun p => (here p).isSome)

/-- Records leave the buffer for the compressor while its blocks find room in descriptors; after END the stream closes. -/
def Dev.capPump : Nat → Dev → Dev
  | 0, d => d
  | fuel + 1, d =>
    let ring := d.recd.capRing
    let d := Dev.fill ring capDest d.capFlags 4096 d
    match d.comp? capDest with
    | none => d
    | some c =>
      if c.ready ≠ [] ∨ c.ended then d
      else match d.recd.capBuf with
        | r :: t =>
          let (bad, d) := d.dramReq.capPoison r.length
          let d := ({ d with recd := { d.recd with capBuf := t, capBytes := d.recd.capBytes - r.length } }).capLevel
          Dev.capPump fuel (Dev.feed capDest 2 r bad d)
        | [] =>
          if d.recd.cap == .ending then Dev.capPump fuel (d.closeStream capDest) else d

/-- Move what can move. -/
def Dev.capMove (d : Dev) : Dev := (Dev.capPump 1048576 d).capFinish

/-- No more records are taken; END with a reason enters the buffer (R501). -/
def Dev.capEnd (d : Dev) (reason : Nat) : Dev :=
  if d.recd.cap != .running then d
  else
    let d := (d.capGapEnd).put Reg.REC_CAP_STAT.RUNNING 0
    let n := d.recd.capRecords + 1
    let d := d.capForce 16 (leBytes 8 n ++ leBytes 8 (d.recd.capDecoded + 32) ++ [reason])
    { d with recd := { d.recd with cap := .ending, endReason := reason } }

/-- Entry to SAFE ends the capture with no END (R501). -/
def Dev.capDrop (d : Dev) : Dev :=
  let d := ((d.gapEvent.endComp capDest).clearPoison fun p => match p with
    | .capture _ => true
    | _ => false).put Reg.REC_CAP_STAT.RUNNING 0
  { d with recd := { d.recd with cap := .idle, capBuf := [], capBytes := 0, capOn := none, capOff := none, gap := none } }

/-- CAPTURE_OFF (R501). -/
def execCaptureOff (dt : Nat) (ring : Nat) (x : Desc) (s : State) : Host.Outcome State Fault Refusal :=
  s.act dt fun d =>
    d.onTake (d.take ring x 0x0E) fun d t =>
      if d.recd.cap != .running then d.complete t stRefused d.mode.code
      else
        let d := d.capEnd 0
        ({ d with recd := { d.recd with capOff := some t } }).capMove

/-- CAPTURE_DESC_TIMEOUT: DESC_MS after its first byte a capture descriptor completes (R498). -/
def execCaptureDescTimeout (dt : Nat) (s : State) : Host.Outcome State Fault Refusal :=
  s.act dt fun d =>
    match d.openBuf? d.recd.capRing, d.comp? capDest with
    | some b, some c =>
      if b.filled ≠ 0 ∧ d.get Reg.REC_CFG.DESC_MS * 1000000 ≤ d.since b.firstAt then
        (d.closeBuf d.recd.capRing c.ident (d.capFlags false)).capMove
      else d
    | _, _ => d

/-- CAPTURE_GAP_END: the buffer is at or below 4 MiB again (R500). -/
def execCaptureGapEnd (dt : Nat) (s : State) : Host.Outcome State Fault Refusal :=
  s.act dt fun d =>
    if d.recd.gap.isSome && decide (d.recd.capBytes ≤ 4194304) then d.capGapEnd.capMove else d

/-- CAPTURE_PW_SAMPLE: every 10 us of TB (R495). -/
def execCapturePwSample (dt : Nat) (s : State) : Host.Outcome State Fault Refusal :=
  s.act dt fun d =>
    if d.recd.cap == .running && decide (10000 ≤ d.since d.recd.pwAt) then
      let d := { d with recd := { d.recd with pwAt := d.tb } }
      d.pwRecord.capMove
    else d

end Sys2Proof.Machine
end

