-- ==== Sys2Proof/Machine/Codes.lean ====
section
/-! DEFINITION. The code painter (R174, R175): Data Matrix ECC 200 in ASCII encodation and Code 128. What "the standard" gives
(ISO/IEC 16022 and 15417: symbol sizes, Reed-Solomon code, placement, character patterns) is PRESUMED. -/
namespace Sys2Proof.Machine

def isDigit (b : Nat) : Bool := decide (48 ≤ b ∧ b ≤ 57)

/-! ## Data Matrix -/

/-- One Data Matrix symbol size: rows, columns, data regions down and across, data and error-correction codewords, blocks. -/
structure DmSize where
  rows : Nat
  cols : Nat
  vr : Nat
  hr : Nat
  data : Nat
  ec : Nat
  blocks : Nat
  deriving DecidableEq, Repr

/-- The 24 square sizes, SIZE 1 first (R174). -/
def dmSquares : List DmSize :=
  [⟨10, 10, 1, 1, 3, 5, 1⟩, ⟨12, 12, 1, 1, 5, 7, 1⟩, ⟨14, 14, 1, 1, 8, 10, 1⟩, ⟨16, 16, 1, 1, 12, 12, 1⟩, ⟨18, 18, 1, 1, 18, 14, 1⟩,
   ⟨20, 20, 1, 1, 22, 18, 1⟩, ⟨22, 22, 1, 1, 30, 20, 1⟩, ⟨24, 24, 1, 1, 36, 24, 1⟩, ⟨26, 26, 1, 1, 44, 28, 1⟩, ⟨32, 32, 2, 2, 62, 36, 1⟩,
   ⟨36, 36, 2, 2, 86, 42, 1⟩, ⟨40, 40, 2, 2, 114, 48, 1⟩]
  ++ [⟨44, 44, 2, 2, 144, 56, 1⟩, ⟨48, 48, 2, 2, 174, 68, 1⟩, ⟨52, 52, 2, 2, 204, 84, 2⟩, ⟨64, 64, 4, 4, 280, 112, 2⟩,
   ⟨72, 72, 4, 4, 368, 144, 4⟩, ⟨80, 80, 4, 4, 456, 192, 4⟩, ⟨88, 88, 4, 4, 576, 224, 4⟩, ⟨96, 96, 4, 4, 696, 272, 4⟩,
   ⟨104, 104, 4, 4, 816, 336, 6⟩, ⟨120, 120, 6, 6, 1050, 408, 6⟩, ⟨132, 132, 6, 6, 1304, 496, 8⟩, ⟨144, 144, 6, 6, 1558, 620, 10⟩]

/-- The 6 rectangular sizes. -/
def dmRects : List DmSize :=
  [⟨8, 18, 1, 1, 5, 7, 1⟩, ⟨8, 32, 1, 2, 10, 11, 1⟩, ⟨12, 26, 1, 1, 16, 14, 1⟩, ⟨12, 36, 1, 2, 22, 18, 1⟩, ⟨16, 36, 1, 2, 32, 24, 1⟩,
   ⟨16, 48, 1, 2, 49, 28, 1⟩]

/-- ASCII encodation of the data bytes (R174), by how many bytes are left. -/
def dmAscii (gs1 : Bool) : Nat → List Nat → List Nat
  | 0, _ => []
  | _ + 1, [] => []
  | k + 1, [b] => if gs1 && b == 0x1D then [232] else if b < 128 then [b + 1] else 235 :: (b - 127) :: dmAscii gs1 k []
  | k + 1, b :: c :: t =>
    if isDigit b && isDigit c then (130 + 10 * (b - 48) + (c - 48)) :: dmAscii gs1 k t
    else if gs1 && b == 0x1D then 232 :: dmAscii gs1 k (c :: t)
    else if b < 128 then (b + 1) :: dmAscii gs1 k (c :: t)
    else 235 :: (b - 127) :: dmAscii gs1 k (c :: t)

/-- The data codewords of a field before padding. -/
def dmData (gs1 : Bool) (bs : List Nat) : List Nat := (if gs1 then [232] else []) ++ dmAscii gs1 bs.length bs

/-- The symbol size of a field: SIZE, or with 0 the smallest of its shape that holds the codewords (R174). -/
def dmSize (rect : Bool) (size codewords : Nat) : Option DmSize :=
  let table := if rect then dmRects else dmSquares
  if size = 0 then table.find? fun s => decide (codewords ≤ s.data)
  else match table[size - 1]? with
    | some s => if codewords ≤ s.data then some s else none
    | none => none

/-- Padding to the symbol's data codewords: 129, then randomised pads by position. -/
def dmPad (n : Nat) (cw : List Nat) : List Nat :=
  cw ++ (List.range (n - cw.length)).map fun i =>
    if i = 0 then 129
    else
      let r := 129 + (149 * (cw.length + i + 1)) % 253 + 1
      if r ≤ 254 then r else r - 254

/-- Multiply by x in GF(256) of the polynomial 0x12D. -/
def gfDouble (a : Nat) : Nat := if a < 128 then 2 * a else Nat.xor (2 * a) 0x12D

/-- Product in GF(256), over the bits of the second factor. -/
def gfMul : Nat → Nat → Nat → Nat
  | 0, _, _ => 0
  | k + 1, a, b => Nat.xor (if b % 2 = 1 then a else 0) (gfMul k (gfDouble a) (b / 2))

/-- Multiply a polynomial, highest power first, by (x + r). -/
def polyTimes (p : List Nat) (r : Nat) : List Nat :=
  (List.range (p.length + 1)).map fun i => Nat.xor (p.getD i 0) (if i = 0 then 0 else gfMul 8 (p.getD (i - 1) 0) r)

/-- The generator polynomial of `n` error-correction codewords. -/
def rsGen : Nat → List Nat × Nat
  | 0 => ([1], 2)
  | n + 1 =>
    let (p, r) := rsGen n
    (polyTimes p r, gfDouble r)

/-- The remainder register after one data codeword. -/
def rsStep (g : List Nat) (reg : List Nat) (d : Nat) : List Nat :=
  let f := Nat.xor d (reg.headD 0)
  (List.range reg.length).map fun i => Nat.xor (reg.getD (i + 1) 0) (gfMul 8 f (g.getD (i + 1) 0))

/-- The error-correction codewords of one block. -/
def rsBlock (n : Nat) (data : List Nat) : List Nat :=
  let g := (rsGen n).1
  data.foldl (rsStep g) (List.replicate n 0)

/-- Every `step`-th element from `i`. -/
def everyNth (l : List Nat) (i step : Nat) : List Nat :=
  ((List.range l.length).filter fun k => decide (k % step = i)).map fun k => l.getD k 0

/-- All codewords of a symbol: data, then the interleaved error-correction codewords; the codeword at position p belongs to block
p mod blocks. -/
def dmCodewords (s : DmSize) (data : List Nat) : List Nat :=
  let n := s.ec / s.blocks
  let blocks := (List.range s.blocks).map fun b => rsBlock n (everyNth data b s.blocks)
  data ++ (List.range s.ec).map fun k =>
    let p := s.data + k
    let b := p % s.blocks
    let first := (List.range s.ec).find? (fun j => decide ((s.data + j) % s.blocks = b))
    (blocks.getD b []).getD ((k - first.getD 0) / s.blocks) 0

/-- The modules of the mapping matrix so far: which are set, which are dark, as bits row by row; the next codeword's number. -/
structure Placing where
  seen : Nat
  dark : Nat
  next : Nat
  deriving DecidableEq, Repr

/-- Place one bit at a row and a column that may lie outside on the left or above. -/
def placeBit (h w : Nat) (p : Placing) (row col : Int) (bit : Bool) : Placing :=
  let (row, col) := if row < 0 then (row + (h : Int), col + 4 - (((h + 4) % 8 : Nat) : Int)) else (row, col)
  let (row, col) := if col < 0 then (row + 4 - (((w + 4) % 8 : Nat) : Int), col + (w : Int)) else (row, col)
  let k := row.toNat * w + col.toNat
  { p with seen := setBit p.seen k true, dark := setBit p.dark k bit }

/-- Place the next codeword at eight modules, most significant bit first. -/
def placeWord (h w : Nat) (cw : List Nat) (p : Placing) (at_ : List (Int × Int)) : Placing :=
  let v := cw.getD p.next 0
  let p' := ((List.range 8).zip at_).foldl (fun p (i, (r, c)) => placeBit h w p r c (bitOf v (7 - i))) p
  { p' with next := p.next + 1 }

/-- The usual shape of a codeword, its last module at (row, col). -/
def utah (r c : Int) : List (Int × Int) :=
  [(r - 2, c - 2), (r - 2, c - 1), (r - 1, c - 2), (r - 1, c - 1), (r - 1, c), (r, c - 2), (r, c - 1), (r, c)]

/-- The four corner shapes. -/
def dmCorner (n : Nat) (h w : Int) : List (Int × Int) :=
  match n with
  | 1 => [(h - 1, 0), (h - 1, 1), (h - 1, 2), (0, w - 2), (0, w - 1), (1, w - 1), (2, w - 1), (3, w - 1)]
  | 2 => [(h - 3, 0), (h - 2, 0), (h - 1, 0), (0, w - 4), (0, w - 3), (0, w - 2), (0, w - 1), (1, w - 1)]
  | 3 => [(h - 3, 0), (h - 2, 0), (h - 1, 0), (0, w - 2), (0, w - 1), (1, w - 1), (2, w - 1), (3, w - 1)]
  | _ => [(h - 1, 0), (h - 1, w - 1), (0, w - 3), (0, w - 2), (0, w - 1), (1, w - 3), (1, w - 2), (1, w - 1)]

/-- One diagonal sweep, upward or downward, from a place: the placing and the place reached. -/
def dmSweep (h w : Nat) (cw : List Nat) (up : Bool) : Nat → Placing → Int → Int → Placing × Int × Int
  | 0, p, r, c => (p, r, c)
  | f + 1, p, r, c =>
    let inside := if up then decide (r < h) && decide (0 ≤ c) else decide (0 ≤ r) && decide (c < w)
    let p := if inside && !bitOf p.seen (r.toNat * w + c.toNat) then placeWord h w cw p (utah r c) else p
    let (r, c) := if up then (r - 2, c + 2) else (r + 2, c - 2)
    let go := if up then decide (0 ≤ r) && decide (c < w) else decide (r < h) && decide (0 ≤ c)
    if go then dmSweep h w cw up f p r c else (p, r, c)

/-- The whole placement: corner cases, an upward and a downward sweep, until both bounds are passed. -/
def dmPlaceFrom (h w : Nat) (cw : List Nat) : Nat → Placing → Int → Int → Placing
  | 0, p, _, _ => p
  | f + 1, p, r, c =>
    let p := if r = h ∧ c = 0 then placeWord h w cw p (dmCorner 1 h w) else p
    let p := if r = (h : Int) - 2 ∧ c = 0 ∧ w % 4 ≠ 0 then placeWord h w cw p (dmCorner 2 h w) else p
    let p := if r = (h : Int) - 2 ∧ c = 0 ∧ w % 8 = 4 then placeWord h w cw p (dmCorner 3 h w) else p
    let p := if r = (h : Int) + 4 ∧ c = 2 ∧ w % 8 = 0 then placeWord h w cw p (dmCorner 4 h w) else p
    let (p, r, c) := dmSweep h w cw true (h + w) p r c
    let (p, r, c) := dmSweep h w cw false (h + w) p (r + 1) (c + 3)
    let (r, c) := (r + 3, c + 1)
    if r < h ∨ c < w then dmPlaceFrom h w cw f p r c else p

/-- The dark modules of the mapping matrix, with the fixed pattern of an unused lower right corner. -/
def dmPlace (h w : Nat) (cw : List Nat) : Nat :=
  let p := dmPlaceFrom h w cw (h + w) ⟨0, 0, 0⟩ 4 0
  if bitOf p.seen (h * w - 1) then p.dark else setBit (setBit p.dark (h * w - 1) true) (h * w - w - 2) true

/-- Module (r, c) of the symbol: finder, clock track or data. -/
def dmModule (s : DmSize) (map : Nat) (r c : Nat) : Bool :=
  let rh := s.rows / s.vr - 2
  let rw := s.cols / s.hr - 2
  let lr := r % (rh + 2)
  let lc := c % (rw + 2)
  if lc = 0 ∨ lr = rh + 1 then true
  else if lr = 0 then lc % 2 = 0
  else if lc = rw + 1 then lr % 2 = 1
  else bitOf map ((r / (rh + 2) * rh + lr - 1) * (rw * s.hr) + (c / (rw + 2) * rw + lc - 1))

/-- A painted Data Matrix symbol: rows, columns, modules row by row. -/
def dmSymbol (s : DmSize) (gs1 : Bool) (bs : List Nat) : Nat × Nat × List Bool :=
  let cw := dmCodewords s (dmPad s.data (dmData gs1 bs))
  let map := dmPlace ((s.rows / s.vr - 2) * s.vr) ((s.cols / s.hr - 2) * s.hr) cw
  (s.rows, s.cols, (List.range (s.rows * s.cols)).map fun k => dmModule s map (k / s.cols) (k % s.cols))

/-! ## Code 128 -/

/-- The bar and space widths of symbol values 0 to 105, six digits each. -/
def c128Widths : List Nat :=
  [212222, 222122, 222221, 121223, 121322, 131222, 122213, 122312, 132212, 221213, 221312, 231212, 112232, 122132, 122231, 113222,
   123122, 123221, 223211, 221132, 221231, 213212, 223112, 312131, 311222, 321122, 321221, 312212, 322112, 322211, 212123, 212321,
   232121, 111323, 131123, 131321]
  ++ [112313, 132113, 132311, 211313, 231113, 231311, 112133, 112331, 132131, 113123, 113321, 133121, 313121, 211331, 231131, 213113,
   213311, 213131, 311123, 311321, 331121, 312113, 312311, 332111, 314111, 221411, 431111, 111224, 111422, 121124, 121421, 141122,
   141221, 112214, 112412, 122114]
  ++ [122411, 142112, 142211, 241211, 221114, 413111, 241112, 134111, 111242, 121142, 121241, 114212, 124112, 124211, 411212, 421112,
   421211, 212141, 214121, 412121, 111143, 111341, 131141, 114113, 114311, 411113, 411311, 113141, 114131, 311141, 411131, 211412,
   211214, 211232]

/-- Bars and spaces of a number of `n` width digits, a bar first. -/
def barsOf : Nat → Nat → List Bool
  | 0, _ => []
  | n + 1, v => barsOf n (v / 10) ++ List.replicate (v % 10) (decide (n % 2 = 0))

/-- The three code sets. -/
inductive CodeSet where
  | a | b | c
  deriving DecidableEq, Repr

/-- FNC1 in a field: 0x1D with GS1. -/
def isFnc1 (gs1 : Bool) (b : Nat) : Bool := gs1 && b == 0x1D

/-- The length of the digit run at the head of the data. -/
def digitRun : List Nat → Nat
  | [] => 0
  | b :: t => if isDigit b then digitRun t + 1 else 0

/-- A control byte comes before any byte of 0x60 to 0x7F. -/
def controlFirst (gs1 : Bool) : List Nat → Bool
  | [] => false
  | b :: t => if 0x60 ≤ b then false else if b < 0x20 && !isFnc1 gs1 b then true else controlFirst gs1 t

/-- The start rule of R175. -/
def startSet (gs1 : Bool) (bs : List Nat) : CodeSet :=
  let n := digitRun bs
  if 4 ≤ n ∨ (n = 2 ∧ bs.length = 2) then .c else if controlFirst gs1 bs then .a else .b

/-- A byte has a value in a set; FNC1 is in every set. -/
def fitsSet (gs1 : Bool) (s : CodeSet) (b : Nat) : Bool :=
  isFnc1 gs1 b || (match s with
    | .a => decide (b < 0x60)
    | .b => decide (0x20 ≤ b)
    | .c => false)

/-- The symbol value of a byte in set A or B. -/
def charValue (gs1 : Bool) (s : CodeSet) (b : Nat) : Nat :=
  if isFnc1 gs1 b then 102
  else match s with
    | .a => if b < 0x20 then b + 64 else b - 32
    | _ => b - 32

/-- The value that changes to a set. -/
def switchValue : CodeSet → Nat
  | .a => 101
  | .b => 100
  | .c => 99

def otherSet : CodeSet → CodeSet
  | .a => .b
  | _ => .a

/-- The symbol values after the start character (R175); the fuel bounds the values. -/
def c128Values (gs1 : Bool) : Nat → CodeSet → List Nat → List Nat
  | 0, _, _ => []
  | _ + 1, _, [] => []
  | f + 1, .c, b :: t =>
    match t with
    | c :: t' =>
      if isDigit b && isDigit c then (10 * (b - 48) + (c - 48)) :: c128Values gs1 f .c t'
      else switchValue (startSet gs1 (b :: t)) :: c128Values gs1 f (startSet gs1 (b :: t)) (b :: t)
    | [] => switchValue (startSet gs1 [b]) :: c128Values gs1 f (startSet gs1 [b]) [b]
  | f + 1, s, b :: t =>
    let n := digitRun (b :: t)
    if 6 ≤ n ∨ (4 ≤ n ∧ n = t.length + 1) then
      (if n % 2 = 1 then charValue gs1 s b :: switchValue .c :: c128Values gs1 f .c t
       else switchValue .c :: c128Values gs1 f .c (b :: t))
    else if fitsSet gs1 s b then charValue gs1 s b :: c128Values gs1 f s t
    else
      let o := otherSet s
      match t with
      | c :: _ =>
        if fitsSet gs1 s c then 98 :: charValue gs1 o b :: c128Values gs1 f s t
        else switchValue o :: charValue gs1 o b :: c128Values gs1 f o t
      | [] => [switchValue o, charValue gs1 o b]

/-- Start, data and check values of a field. -/
def c128All (gs1 : Bool) (bs : List Nat) : List Nat :=
  let s := startSet gs1 bs
  let start := match s with
    | .a => 103
    | .b => 104
    | .c => 105
  let vs := (if gs1 then [102] else []) ++ c128Values gs1 (3 * bs.length + 3) s bs
  let check := (start + (((List.range vs.length).zip vs).map fun (i, v) => (i + 1) * v).foldl (· + ·) 0) % 103
  start :: vs ++ [check]

/-- A painted Code 128 symbol: one row of modules, stop pattern last. -/
def c128Symbol (gs1 : Bool) (bs : List Nat) : Nat × Nat × List Bool :=
  let bars := ((c128All gs1 bs).map fun v => barsOf 6 (c128Widths.getD v 0)).flatten ++ barsOf 7 2331112
  (1, bars.length, bars)

/-! ## Fields of a layout -/

/-- Whether a field can be encoded, and the rows and columns of its symbol: SYM 0 square, 1 rectangular, 2 Code 128 (R164, R174, R175). -/
def codeGrid (sym size : Nat) (gs1 : Bool) (bs : List Nat) : Option (Nat × Nat) :=
  if sym = 2 then
    (if bs.any (fun b => decide (128 ≤ b)) then none else some (1, 11 * (c128All gs1 bs).length + 13))
  else (dmSize (sym = 1) size (dmData gs1 bs).length).map fun s => (s.rows, s.cols)

/-- The painted symbol of a field. -/
def codeSymbol (sym size : Nat) (gs1 : Bool) (bs : List Nat) : Option (Nat × Nat × List Bool) :=
  if sym = 2 then (if bs.any (fun b => decide (128 ≤ b)) then none else some (c128Symbol gs1 bs))
  else (dmSize (sym = 1) size (dmData gs1 bs).length).map fun s => dmSymbol s gs1 bs

end Sys2Proof.Machine
end

