-- ==== Sys2Proof/Machine/Windows.lean ====
section
/-! DEFINITION. Camera windows, trigger pulses, camera lines and images (R66, R221 to R224). -/
namespace Sys2Proof.Machine

/-- A camera is enabled. -/
def Dev.camOn (d : Dev) (n : Nat) : Bool := decide (n < 2) && d.on (Reg.CAM_CFG_n.EN n)

/-- PSO output `n` is the trigger output of an enabled camera (R223). -/
def Dev.trigPso (d : Dev) (n : Nat) : Bool := [0, 1].any fun c => d.camOn c && decide (d.get (Reg.CAM_CFG_n.TRIG_PSO c) = n)

/-- Change the windows that satisfy `p`. -/
def Dev.modWindows (d : Dev) (p : Window → Bool) (f : Window → Window) : Dev :=
  { d with gz := { d.gz with windows := d.gz.windows.map fun w => if p w then f w else w } }

/-- A window's triggers are all answered. -/
def Window.answered (w : Window) : Bool := w.triggers.all fun t => t.line.isSome

/-- The pixels of a trigger's line, or none if it is missing. -/
def Trigger.pixels (t : Trigger) : Option (List Nat) :=
  match t.line with
  | some [] => none
  | some l => some l
  | none => none

/-! ## Images (R224) -/

/-- The decoded image of a window: the header, then one line of NPIX bytes per trigger. -/
def Dev.imageOf (d : Dev) (w : Window) : List Nat :=
  let npix := d.get (Reg.CAM_NPIX_n.NPIX w.cam)
  [w.cam, w.reason, 0, 0] ++ leBytes 6 w.pwOpen ++ [0, 0] ++ leBytes 4 npix ++ leBytes 4 w.triggers.length
    ++ leBytes 4 (d.get (Reg.CAM_TRIG_n.TRIG_FC w.cam)) ++ List.replicate 8 0
    ++ (w.triggers.map fun t => match t.pixels with
      | some l => padTo npix l
      | none => List.replicate npix 0).flatten

/-- Blocks of a camera's image move into Image ring descriptors; after END the compressor is gone. -/
def Dev.imageMove (d : Dev) (cam : Nat) : Dev :=
  let ring := d.get (Reg.CAM_CFG_n.IMG_RING cam)
  let d := Dev.fill ring cam (fun last => b2n last) 4096 d
  match d.comp? cam with
  | some c => if c.ended && c.ready.isEmpty then d.endComp cam else d
  | none => d

/-- A window's image starts in a new descriptor; with none owned on the Image ring it is dropped and counted (R98). -/
def Dev.sendImage (d : Dev) (w : Window) : Dev :=
  let n := d.cal.imgCount.getD w.cam 0
  let d := { d with cal := { d.cal with imgCount := modAt d.cal.imgCount w.cam fun n => (n + 1) % 2 ^ 24 } }
  if (d.openBuf? (d.get (Reg.CAM_CFG_n.IMG_RING w.cam))).isNone || (d.comp? w.cam).isSome then d
  else
    let img := d.imageOf w
    let here (p : Datum) : Option Nat := match p with
      | .image c o => if c = w.cam then some o else none
      | _ => none
    let bad := d.badData.filterMap here
    let d := ((d.ueRead (d.badData.filter fun p => (here p).isSome)).dramReq.startComp ((0x90 + w.cam) * 2 ^ 24 + n) w.cam).clearPoison fun p => (here p).isSome
    ((Dev.feed w.cam (img.length + 1) img bad d).closeStream w.cam).imageMove w.cam

/-- A window that has been reported and analysed is done with. -/
def Dev.dropWindows (d : Dev) : Dev :=
  { d with gz := { d.gz with windows := d.gz.windows.filter fun w => !(w.reported && w.analysed) } }

/-- A closed window with every trigger answered: CAM_LINE_ERR where it had a fault (R222), and its image. -/
def Dev.settleWindow (d : Dev) (w : Window) : Dev :=
  if !w.closed || !w.answered || w.reported then d
  else
    let d := (d.modWindows (fun v => v.id == w.id) fun v => { v with reported := true }).dropWindows
    let d := if w.crcErr + w.missing + w.orphans + w.badLen = 0 then d else
      d.post 0xA001 sevInfo [w.cam, w.crcErr, w.missing, w.orphans, w.badLen, w.pwOpen % 2 ^ 32]
    if d.on (Reg.CAM_CFG_n.IMAGE w.cam) then d.sendImage w else d

/-- Settle what can be settled on a camera. -/
def Dev.settleWindows (d : Dev) (cam : Nat) : Dev :=
  (d.gz.windows.filter fun w => w.cam == cam).foldl Dev.settleWindow d

/-- A camera-window slot acts: the window with this identity opens or closes. -/
def Dev.windowAct (d : Dev) (cam : Nat) (open_ : Bool) (id : Nat) : Dev :=
  let mine (w : Window) : Bool := w.cam == cam && w.id == id
  if open_ then d.modWindows mine fun w => { w with opened := true, pwOpen := w.openPos }
  else (d.modWindows mine fun w => { w with closed := true, closedAt := d.tb }).settleWindows cam

/-- LADDER_SKIPPED is posted for what waits for a slot, or for none. -/
def Dev.postSkips (d : Dev) (slot : Option Nat) : Dev :=
  let mine := d.gz.skips.filter fun x => x.1 == slot
  let d := { d with gz := { d.gz with skips := d.gz.skips.filter fun x => x.1 != slot } }
  mine.foldl (fun d x => d.post 0xB034 sevInfo [x.2.1, x.2.2.1, x.2.2.2]) d

/-- A ladder slot retires: the lines carry their dashes already, and the events that waited for it are posted (R66). LADDER_DONE needs the
camera's lines, which come after it (log entry 57). -/
def Dev.ladderAct (d : Dev) (slot : Nat) : Dev := d.postSkips (some slot)

/-! ## Camera lines (R221, R222) -/

/-- The open trigger that is oldest on a camera: its window, and its place in it. -/
def Dev.openTrigger (d : Dev) (cam : Nat) : Option (Window × Nat × Trigger) :=
  (d.gz.windows.filter fun w => w.cam == cam).findSome? fun w =>
    (((List.range w.triggers.length).zip w.triggers).find? fun (_, t) => t.line.isNone).map fun (i, t) => (w, i, t)

/-- Answer a trigger: with pixels, or as missing. -/
def Dev.answerTrigger (d : Dev) (id i : Nat) (line : List Nat) : Dev :=
  d.modWindows (fun w => w.id == id) fun w => { w with
    triggers := modAt w.triggers i fun t => { t with line := some line }
    missing := if line = [] then w.missing + 1 else w.missing }

/-- The oldest open trigger is marked missing and counted. -/
def Dev.missTrigger (d : Dev) (cam : Nat) : Dev :=
  match d.openTrigger cam with
  | some (w, i, _) => (d.answerTrigger w.id i []).bump (Reg.CAM_CNT_n.MISSING cam)
  | none => d

/-- The window that a line fault is reported in: that of the oldest open trigger, else the one that is open. -/
def Dev.faultWindow (d : Dev) (cam : Nat) : Option Nat :=
  match d.openTrigger cam with
  | some (w, _, _) => some w.id
  | none => (d.gz.windows.find? fun w => w.cam == cam && w.opened && !w.closed).map (·.id)

/-- Count a line fault in its window. -/
def Dev.windowFault (d : Dev) (cam : Nat) (f : Window → Window) : Dev :=
  match d.faultWindow cam with
  | some id => d.modWindows (fun w => w.id == id) f
  | none => d

/-- CAMERA_LINE: the words of a camera line frame, its CRC word last. -/
def Dev.cameraLine (d : Dev) (cam : Nat) (words : List Nat) : Dev :=
  let body := words.dropLast
  let crc := crc32c (leBytes 4 cam ++ (body.map (leBytes 8)).flatten)
  let w0 := words.headD 0
  let npix := bitsOf w0 16 16 + 1
  let seq := bitsOf w0 0 16
  if bitsOf (words.getLastD 0) 0 32 ≠ crc then
    (d.bump (Reg.CAM_CNT_n.CRC_ERR cam)).windowFault cam fun w => { w with crcErr := w.crcErr + 1 }
  else if npix ≠ d.get (Reg.CAM_NPIX_n.NPIX cam) then
    (d.bump (Reg.CAM_CNT2_n.BAD_LEN cam)).windowFault cam fun w => { w with badLen := w.badLen + 1 }
  else
    let gap := match (d.gz.cams.getD cam ⟨none, none⟩).lastSeq with
      | some l => (seq + 65536 + 65535 - l) % 65536
      | none => 0
    let d := { d with gz := { d.gz with cams := modAt d.gz.cams cam fun c => { c with lastSeq := some seq } } }
    let d := (List.range gap).foldl (fun d _ => d.missTrigger cam) d
    match d.openTrigger cam with
    | some (w, i, _) =>
      let pixels := ((body.drop 1).map (leBytes 8)).flatten.take npix
      ((d.answerTrigger w.id i pixels).wrap (Reg.CAM_LINES_n.LINES cam)).settleWindows cam
    | none => ((d.bump (Reg.CAM_CNT2_n.ORPHAN cam)).windowFault cam fun w => { w with orphans := w.orphans + 1 }).settleWindows cam

/-- CAMERA_LINE_TIMEOUT: no line within CAM_TMO us of the oldest open trigger. -/
def execCameraLineTimeout (dt : Nat) (cam : Nat) (s : State) : Host.Outcome State Fault Refusal :=
  s.act dt fun d =>
    match d.openTrigger cam with
    | some (_, _, t) => if d.get Reg.CAM_TMO.TMO * 1000 ≤ d.since t.at_ then (d.missTrigger cam).settleWindows cam else d
    | none => d

end Sys2Proof.Machine
end

