-- ==== Sys2Proof/Machine/Calendar.lean ====
section
/-! DEFINITION. Prediction (R60, R61), the calendar of 4,096 slots (R65 to R71), reject marks (R417 to R419), and what happens
when PW reaches a position: splices and job ends (R101 to R105). -/
namespace Sys2Proof.Machine

/-! ## Prediction -/

/-- The exact distance from sample `b` to sample `a`: numerator and denominator in fine counts. -/
def sampleDist (a b : Sample) : Int × Nat :=
  (pwDiff a.pw b.pw * (a.den * b.den : Nat) + (a.rem * b.den : Nat) - (b.rem * a.den : Nat), a.den * b.den)

/-- The time from the base to a point `num / den` fine counts ahead of it, in 2^-16 ns; none if it is not reached (R61). -/
def reachIn (e : Estimate) (num : Int) (den : Nat) : Option Nat :=
  if num ≤ 0 then some 0
  else
    let disc := e.v * e.v + 2 * e.a * (2 ^ 120 : Nat) * num / (den : Int)
    if disc ≤ 0 then none
    else
      let s := e.v + (isqrt disc.toNat : Nat)
      if s ≤ 0 then none else some ((2 * num.toNat * 2 ^ 176) / (den * s.toNat))

/-- The instant at which PW reaches a position, TB in 2^-16 ns (R61). -/
def Dev.reach (d : Dev) (p : Nat) : Option Nat :=
  if !d.on Reg.POS_STATUS.VALID || d.on Reg.POS_STATUS.HELD || d.on Reg.POS_STATUS.REG_LOST then none
  else match d.pos.est with
    | none => none
    | some e => (reachIn e (pwDiff p e.base.pw * (e.base.den : Int) - (e.base.rem : Int)) e.base.den).map (· + e.base.t * 65536)

/-- A predicted instant is at or before now. -/
def Dev.reachedNow (d : Dev) (p : Nat) : Bool :=
  match d.reach p with
  | some t => decide (t ≤ d.tb * 65536)
  | none => false

/-- PW is at or beyond a position (R14). -/
def Dev.passed (d : Dev) (p : Nat) : Bool := decide (0 ≤ pwDiff d.pos.pw p)

/-! ## Slots -/

/-- The first slot and the number of slots of a class (R65). -/
def classRange : Nat → Nat × Nat
  | 0 => (0, 64)
  | 1 => (64, 256)
  | 2 => (320, 128)
  | 3 => (448, 2048)
  | 4 => (2496, 1024)
  | _ => (3520, 576)

/-- The class of a slot number. -/
def slotClass (n : Nat) : Nat :=
  if n < 64 then 0 else if n < 320 then 1 else if n < 448 then 2 else if n < 2496 then 3 else if n < 3520 then 4 else 5

/-- The lowest number from `lo` on that is not a key. -/
def lowestFree (l : List (Nat × Slot)) (lo : Nat) : Nat :=
  l.foldl (fun k (a, _) => if a = k then k + 1 else k) lo

/-- USED and PEAK of a class follow its slots. -/
def Dev.countClass (d : Dev) (c : Nat) : Dev :=
  let r := classRange c
  let used := (d.pos.cal.filter fun (a, _) => decide (r.1 ≤ a) && decide (a < r.1 + r.2)).length
  let d := d.put (Reg.POS_CAL_USED_c.USED c) used
  if d.get (Reg.POS_CAL_USED_c.PEAK c) < used then d.put (Reg.POS_CAL_USED_c.PEAK c) used else d

/-- Take the lowest free slot of a class; none if the class is full (R65). -/
def Dev.schedule (d : Dev) (c : Nat) (s : Slot) : Option Dev :=
  let r := classRange c
  let n := lowestFree (d.pos.cal.filter fun (a, _) => decide (r.1 ≤ a)) r.1
  if n < r.1 + r.2 then
    some (({ d with pos := { d.pos with cal := kvPut d.pos.cal n s } }).countClass c)
  else none

/-- Free a slot. -/
def Dev.freeSlot (d : Dev) (n : Nat) : Dev :=
  ({ d with pos := { d.pos with cal := kvDel d.pos.cal n } }).countClass (slotClass n)

/-- Free every slot whose action satisfies `p`. -/
def Dev.freeSlots (d : Dev) (p : SlotAct → Bool) : Dev :=
  let d := { d with pos := { d.pos with cal := d.pos.cal.filter fun (_, s) => !p s.act } }
  (List.range 6).foldl Dev.countClass d

/-- A class with no free slot: CAL_FULL, CALENDAR_FULL, and a stop for the reject marks (R69). -/
def Dev.calendarFull (d : Dev) (c pos : Nat) : Dev :=
  let d := d.put Reg.POS_FAULT.CAL_FULL 1
  let d := d.post 0x300A (if c = 4 then sevFault else sevWarn) [c, pos % 2 ^ 32, pos / 2 ^ 32]
  if c = 4 then d.stopWeb else d

/-- CAL_LATE (R68). -/
def Dev.calLate (d : Dev) (c pos : Nat) : Dev := d.post 0x3009 sevWarn [c, pos % 2 ^ 32, pos / 2 ^ 32]

/-! ## Reject marks (R417, R418) -/

/-- The level of MARK_PSO that means marked. -/
def Dev.markLevel (d : Dev) (marked : Bool) : Bool := if d.on Reg.CHK_CFG.MARK_POL then !marked else marked

/-- Only an ACTIVE unit drives MARK_PSO; the others hold it inactive (R419). -/
def Dev.driveMark (d : Dev) (marked : Bool) : Dev :=
  ({ d with chk := { d.chk with mark := marked } }).setPso (d.get Reg.CHK_CFG.MARK_PSO) (d.markLevel (marked && d.active))

/-- A reject-mark slot acts: it reads the frame's verdict; one that is not final counts as REJECT. -/
def Dev.markAct (d : Dev) (tag frame : Nat) (last : Bool) : Dev :=
  let pulse := d.on Reg.CHK_CFG.MARK_MODE
  if last then (if pulse && d.chk.pulseEnd.isSome then d else d.driveMark false)
  else
    let final := d.verdictFinal tag frame
    let verdict := if final then (d.frame tag frame).verdict else vReject
    let m := d.marks verdict
    let d := d.modFrame tag frame fun r => { r with marked := some (m, d.pos.pw) }
    let d := if pulse then
        (if m then ({ d with chk := { d.chk with pulseEnd := some (tbPlus d.tb (d.get Reg.CHK_CFG.PULSE_US * 1000)) } }).driveMark true
         else d)
      else d.driveMark m
    if final || !d.active then d
    else (d.bump Reg.CHK_CNT2.FAILSAFE).post 0xD004 sevWarn [tag % 256, frame, d.pos.pw % 2 ^ 32]

/-- What a slot does, other than a splice and a drive cam start. -/
def Dev.slotAct (d : Dev) (a : SlotAct) : Dev :=
  match a with
  | .pso out level => if d.trigPso out then d else d.setPso out level
  | .mark tag frame last => if d.trigPso (d.get Reg.CHK_CFG.MARK_PSO) then d else d.markAct tag frame last
  | .window cam o band => d.windowAct cam o band
  | .ladder band => d.ladderAct band
  | .splice _ => d
  | .camStart _ _ => d

/-- Schedule a PSO change or a reject mark: one whose position is already reached acts at once with CAL_LATE (R68); a full class
is R69. The second result says whether it was scheduled or acted. -/
def Dev.scheduleNow (d : Dev) (c : Nat) (s : Slot) : Dev × Bool :=
  if d.passed s.pos then ((d.slotAct s.act).calLate c s.pos, true)
  else match d.schedule c s with
    | some d' => (d', true)
    | none => (d.calendarFull c s.pos, false)

/-- Take the reject-mark slots of the live job's frames whose start PW has reached (R417). -/
def Dev.takeMarks (d : Dev) : Dev :=
  match d.live? with
  | none => d
  | some j =>
    if !d.on Reg.CHK_CFG.MARK_EN || d.follower then d
    else
      let gate := d.get2 Reg.CHK_GATE_LO.GATE_LO Reg.CHK_GATE_HI.GATE_HI
      let upto := match j.lineAt d.pos.pw with
        | some l => l / j.repeat_ + 1
        | none => 0
      let upto := match j.endFrame with
        | some f => min upto (f + 1)
        | none => upto
      let upto := if j.frames = 0 then upto else min upto j.frames
      let d := ((List.range upto).filter fun f => decide (j.markNext ≤ f)).foldl
        (fun d f => (d.scheduleNow 4 ⟨pwAdd (j.frameStart f) gate, .mark j.tag f false, .predict⟩).1) d
      d.modJob j.tag fun j => { j with markNext := max j.markNext upto }

/-! ## Jobs as PW passes (R101 to R105) -/

/-- On a link, a job that goes live is the last live, of a depth (R278), and no line of an earlier job of its tag is a fired one. -/
def Link.jobLive (l : Link) (tag : Nat) (depth : Option Nat) : Link :=
  let rows := l.rows.map fun r => if r.fired.any fun f => f.1 == tag then { r with fired := none } else r
  { l with lastDepth := depth.getD l.lastDepth, rows := rows }

/-- A job goes live: its J0 is fixed and JOB_LIVE posted (R103). -/
def Dev.goLive (d : Dev) (tag j0 : Nat) (bySplice : Bool) : Dev :=
  let d := d.modJob tag fun j => { j with phase := .live, j0 := j0, spliceAt := none, markNext := 0 }
  let d := if bySplice then d else { d with link := { d.link with links := d.link.links.map fun l =>
    { l with rows := l.rows.map fun r => { r with next := some (tag, 0) } } } }
  let d := { d with link := { d.link with links := d.link.links.map fun (l : Link) => l.jobLive tag ((d.job? tag).map fun (j : Job) => j.depth) } }
  let old := d.get Reg.PIPE_TWL_BANK.ACTIVE
  let d := match d.job? tag with
    | some j => d.put Reg.PIPE_TWL_BANK.ACTIVE j.bank
    | none => d
  let turned := Nat.xor old (d.get Reg.PIPE_TWL_BANK.ACTIVE)
  let d := if turned = 0 then d else d.put Reg.PIPE_TWL_BANK.FRAME 0
  let d := d.post 0x1009 sevInfo [tag, j0 % 2 ^ 32, j0 / 2 ^ 32, b2n bySplice]
  (d.switchRecord tag 0 (1 + 4 * turned)).mirror 9 0 0 (.live tag j0)

/-- A job enters ENDING: JOB_ENDED (reason 0 splice, 1 END_FRAME, 2 FRAMES). Without a splice, one further mark slot (R418). -/
def Dev.endJob (d : Dev) (j : Job) (last reason : Nat) : Dev :=
  let d := (d.modJob j.tag fun j => { j with phase := .ending, endFrame := some last }).freeBank j.tag
  let d := ((d.post 0x100A sevInfo [j.tag, last, reason]).dropPending).gzDue
  if reason ≠ 0 ∧ d.on Reg.CHK_CFG.MARK_EN ∧ !d.follower then
    let gate := d.get2 Reg.CHK_GATE_LO.GATE_LO Reg.CHK_GATE_HI.GATE_HI
    (d.scheduleNow 4 ⟨pwAdd (j.frameStart (last + 1)) gate, .mark j.tag (last + 1) true, .predict⟩).1
  else d

/-- A splice slot retires: the new job goes live at the position and the old one enters ENDING (R104). -/
def Dev.spliceReached (d : Dev) (tag pos : Nat) : Dev :=
  match d.live? with
  | none => d.goLive tag pos true
  | some old =>
    let last := ((pwDiff pos old.j0).toNat / 256) / old.repeat_ - 1
    let d := d.post 0x1007 sevInfo [old.tag, tag, pos % 2 ^ 32, pos / 2 ^ 32]
    (d.goLive tag pos true).endJob { old with phase := .ending } last 0

/-- The live job's last frame, where it has one, and the reason word of JOB_ENDED. -/
def Job.lastFrame (j : Job) : Option (Nat × Nat) :=
  match j.endFrame with
  | some f => if j.frames ≠ 0 ∧ j.frames - 1 < f then some (j.frames - 1, 2) else some (f, 1)
  | none => if j.frames = 0 then none else some (j.frames - 1, 2)

/-- The live job ends when PW reaches the end of its last repeat (R101). -/
def Dev.endReached (d : Dev) : Dev :=
  match d.live? with
  | none => d
  | some j =>
    match j.lastFrame with
    | none => d
    | some (f, why) => if d.passed (j.frameStart (f + 1)) then d.endJob j f why else d

/-! ## PW reaches positions (R66, R67) -/

/-- One slot whose position PW has reached: it acts and is free. A splice waits for nothing more. -/
def Dev.slotReached (d : Dev) (n : Nat) (s : Slot) : Dev :=
  let d := d.freeSlot n
  match s.act with
  | .splice tag => d.spliceReached tag s.pos
  | a => d.slotAct a

/-- An output that is a PSO change. -/
def isPso : Output → Bool
  | .pso _ _ => true
  | _ => false

/-- Slots of one edge put only the final level on a pin (R67): of the PSO changes sent since `before`, the net ones are left. -/
def Dev.onePinChange (before d : Dev) : Dev :=
  let d' := { d with out := before.out ++ (d.out.drop before.out.length).filter fun o => !isPso o }
  (List.range 16).foldl (fun e n =>
    if bitOf before.pos.pso n = bitOf d.pos.pso n then e else e.send (.pso n (bitOf d.pos.pso n))) d'

/-- Every slot whose position PW has reached acts in slot-number order (R67), except drive cam starts, which wait for the servo
period (R66). -/
def Dev.slotsReached (d : Dev) : Dev :=
  let due := d.pos.cal.filter fun (_, s) => s.mode != .servo && d.passed s.pos
  Dev.onePinChange d (due.foldl (fun d (n, s) => d.slotReached n s) d)

/-- What follows from a new PW: slots, the job's end, the frames' mark slots. -/
def Dev.positionReached (d : Dev) : Dev := (d.slotsReached.endReached).takeMarks

end Sys2Proof.Machine
end

