-- ==== Sys2Proof/Machine/Partner.lean ====
section
/-! DEFINITION. The duplex partner as every part sees it: entry to SYNCING and out of it (R359, R362, R369), arbitration (R368), line-check
summaries (R367), the active's decisions (R361). -/
namespace Sys2Proof.Machine

def Dev.enc (d : Dev) (n : Nat) : Encoder := d.pos.encs.getD n ⟨0, none, none, 0, 0, false, none, false, false, 0, none, 0, 0, 0⟩

def Dev.modEnc (d : Dev) (n : Nat) (f : Encoder → Encoder) : Dev :=
  { d with pos := { d.pos with encs := modAt d.pos.encs n f } }

/-- A signed 48-bit count (R46). -/
def sign48 (x : Int) : Int := signedOf 48 (fieldOf 48 x)
/-! ## LEASE capture records (R495) -/

/-- A LEASE record: 0 granted, 1 expired, 2 ring path lost, 3 lease link lost, 4 ring path restored, 5 lease link restored, 6 epoch change,
7 takeover. -/
def Dev.leaseRecord (d : Dev) (kind : Nat) : Dev :=
  let rem := 10000 - min 10000 (d.since d.net.leaseAt)
  d.capture 12 ([kind, d.get Reg.RING_STAT.EPOCH, d.partnerNode, 0] ++ leBytes 4 (if d.active then rem else 0))

/-- The epoch in use changes. -/
def Dev.setEpoch (d : Dev) (e : Nat) : Dev :=
  if d.get Reg.RING_STAT.EPOCH = e % 16 then d else (d.put Reg.RING_STAT.EPOCH e).leaseRecord 6

/-! ## SYNCING (R359, R362, R369) -/

/-- A SYNC_STATE stage. -/
def Dev.syncStage (d : Dev) (stage tag join : Nat) : Dev := (d.put Reg.RING_STAT.SYNC_STAGE stage).post 0x7007 sevInfo [stage, tag, join]

/-- MARK_PSO at the level that the latest slot gives on an ACTIVE unit, inactive otherwise (R419). -/
def Dev.markRole (d : Dev) : Dev := if d.on Reg.CHK_CFG.MARK_EN && !d.follower then d.driveMark d.chk.mark else d

/-- TIME_SWITCH of a slew: 0 at its start, 1 at its end. -/
def Dev.switchEvent (d : Dev) (w : Slew) (end_ : Nat) : Dev :=
  d.post 0x4003 sevWarn [w.old, w.new, fieldOf 32 (max (-(2 ^ 31 : Nat)) (min ((2 ^ 31 : Nat) - 1) w.err)), min 0xFFFFFFFF w.ns, end_]

/-- Device time follows the DRV instance while the unit is not ACTIVE (R339). A slew that runs ends (R336). -/
def Dev.drvSlave (d : Dev) : Dev :=
  if d.get Reg.TIME_CFG.DRV_ROLE ≠ 1 then d
  else
    let d := match d.time.slew with | some w => d.switchEvent w 1 | none => d
    let d := { d with time := { d.time with slew := none, trks := modAt d.time.trks 2 fun t => { t with state := 1, good := 0 } } }
    (d.put Reg.TIME_STAT.SRC_NOW 3).put Reg.TIME_STAT.SLEWING 0

/-- The unit enters SYNCING: it takes its partner's epoch, sends nothing more as ACTIVE, and synchronises from the beginning. -/
def Dev.enterSyncing (d : Dev) : Dev :=
  if !d.duplexed || d.duplex == .syncing then d
  else
    let p : NodeSt := d.net.nodes.getD d.partnerNode ⟨none, 0, false, false, false, 0, 0, false, 0, 0, false⟩
    let net := { d.net with sync := some ⟨1, 0, 0, false, false⟩, arb := none, testOnly := false, mine := [], theirs := [], tookOver := none }
    let d := { d with duplex := .syncing, net := { net with yieldAt := none, yield_ := false } }
    let d := (d.put Reg.RING_STAT.LEASE_VALID 0).put Reg.RING_STAT.ARBITRATING 0
    let d := if p.beatAt.isSome then d.setEpoch p.epoch else d
    (d.markRole.drvSlave).syncStage 1 0 0

/-- The unit is STANDBY. -/
def Dev.enterStandby (d : Dev) (tag join : Nat) : Dev :=
  ({ d with duplex := .standby, net := { d.net with sync := none, testOnly := false } }).syncStage 4 tag join

/-- The job live on the active. -/
def Dev.liveThere (d : Dev) : Option Nat := (d.net.jobs.find? fun j => j.2.2.2.2.2).map (·.1)

/-- R369, step 4: with the live job staged, the unit names the lowest frame whose record it holds. -/
def Dev.nameJoin (d : Dev) : Dev :=
  match d.net.sync, d.liveThere with
  | some s, some tag =>
    let recs := (d.dmk.records.filter fun r => r.tag == tag).map (·.frame)
    match recs, (d.job? tag).any fun j => j.phase != .opened with
    | f :: t, true => if s.stage = 2 then d.partnerSend 9 0 0 (.join tag (t.foldl min f)) else d
    | _, _ => d
  | _, _ => d

/-- The FRAME of the first RECORD_PUT of the active's live job sets the next expected frame of a SYNCING unit (R369). -/
def Dev.firstRecord (d : Dev) (j : Job) (frame : Nat) : Job :=
  if d.duplexed && d.duplex == .syncing && d.liveThere == some j.tag && j.nextRecord == 0 then { j with nextRecord := frame } else j

/-- The end of F_join's gutter (R369, step 6): STANDBY if nothing differed and the last standby test passed, else from step 4 again. -/
def Dev.syncCheck (d : Dev) : Dev :=
  match d.net.sync with
  | none => d
  | some s =>
    if s.stage ≠ 3 then d
    else match d.job? s.tag with
      | none => d
      | some j =>
        if !d.passed (j.frameStart (s.join + 1)) then d
        else if !s.differs && (!d.on Reg.RING_CFG.STBY_TEST || d.on Reg.RING_HEALTH.PASS) then d.enterStandby s.tag s.join
        else
          let net := { d.net with sync := some { s with stage := 2, differs := false, join := 0 } }
          ({ d with net := net }).nameJoin

/-- PW, rem and E_hw of a SNAPSHOT are taken at the next edge of the own encoder (R369). -/
def Dev.takeEdge (d : Dev) (n : Nat) : Dev :=
  match d.net.edge with
  | none => d
  | some (pw, rem, e) =>
    let d := { d with net := { d.net with edge := none }, pos := { d.pos with pw := pw, rem := rem, eHw := e } }
    d.modEnc n fun x => { x with e := sign48 (e + 1) }

/-! ## Arbitration (R368) -/

/-- The self-check runs: rendering pauses. -/
def Dev.renderPaused (d : Dev) : Bool := d.sense.pause.isSome || d.net.arb.any fun a => a.own.isNone

/-- A difference between the partners' lines: it starts an arbitration, or joins the one that runs. -/
def Dev.arbitrate (d : Dev) (seq tag line : Nat) : Dev :=
  match d.net.arb with
  | some a => { d with net := { d.net with arb := some { a with lines := a.lines ++ [(tag, line)] } } }
  | none =>
    let d := { d with net := { d.net with arb := some ⟨seq, d.tb, [(tag, line)], none, none⟩ } }
    (d.put Reg.RING_STAT.ARBITRATING 1).bump Reg.RING_CNT3.ARBITRATIONS

/-- The standby, or a SYNCING unit, finds that a line differs on a set of links. -/
def Dev.lineDiffers2 (d : Dev) (tag line links : Nat) : Dev :=
  if d.duplex == .syncing then { d with net := { d.net with sync := d.net.sync.map fun (s : Sync) => { s with differs := true } } }
  else
    let seq := d.net.seqs.getD 7 0
    let d := d.bump Reg.RING_CNT2.MISMATCH
    let d := (d.ringSend 7 d.partnerNode false [line + tag * 2 ^ 40 + links * 2 ^ 48]).post 0x7005 sevFault [tag, line % 2 ^ 32, links]
    d.arbitrate seq tag line

/-! ## Line-check summaries (R367) -/

/-- Links on which two summaries of a line differ. -/
def summariesDiffer (a b : List (Nat × Nat)) : Nat :=
  (List.range 16).foldl (fun m n => setBit m n (kvGet a n != kvGet b n)) 0

/-- Compare a line once both summaries exist. -/
def Dev.compareSummary (d : Dev) (tag line : Nat) : Dev :=
  let at_ (x : Summary) : Bool := x.tag == tag && x.line == line
  match d.net.mine.find? at_, d.net.theirs.find? at_ with
  | some a, some b =>
    let d := { d with net := { d.net with mine := d.net.mine.filter (fun x => !at_ x), theirs := d.net.theirs.filter fun x => !at_ x } }
    let m := summariesDiffer a.links b.links
    if m = 0 then d else d.lineDiffers2 tag line m
  | _, _ => d

/-- Summaries two to a word, low half first. -/
def packPairs : List Nat → List Nat
  | [] => []
  | [a] => [a]
  | a :: b :: t => (a + b * 2 ^ 32) :: packPairs t

/-- Gauze has finished a line: in COMPARE mode the active sends LCS, its partner compares. -/
def Dev.lineSummaries (d : Dev) (tag line : Nat) (links : List (Nat × Nat)) : Dev :=
  if !d.duplexed || !d.on Reg.RING_STAT.DETECT then d
  else if d.active then
    let mask := links.foldl (fun m x => m + 2 ^ x.1) 0
    d.ringSend 6 d.partnerNode false ((line + tag * 2 ^ 40 + mask * 2 ^ 48) :: packPairs (links.map (·.2)))
  else
    let x : Summary := ⟨tag, line, links⟩
    ({ d with net := { d.net with mine := d.net.mine ++ [x] } }).compareSummary tag line

/-- A summary still unmatched when its line fires is dropped. -/
def Dev.dropSummary (d : Dev) (tag line : Nat) : Dev :=
  let at_ (x : Summary) : Bool := x.tag == tag && x.line == line
  if d.net.mine.any at_ || d.net.theirs.any at_ then
    ({ d with net := { d.net with mine := d.net.mine.filter (fun x => !at_ x), theirs := d.net.theirs.filter fun x => !at_ x } }).bump
      Reg.RING_CNT2.UNCOMPARED
  else d

/-! ## The active's decisions at their lines (R361) -/

/-- One decision is in force: an entry or a row into the inactive bank, or kinds that may switch. -/
def Dev.applyDecision (d : Dev) (r : PartnerRec) : Dev :=
  match r with
  | .nozzle i e =>
    let d := d.modIdle 0 fun b => b.setEntry i e
    { d with gz := { d.gz with pending := setBit d.gz.pending 0 true } }
  | .align n fo xo =>
    let d := d.modIdle 2 fun b => { b with align := if fo = 0 ∧ xo = 0 then kvDel b.align n else kvPut b.align n (fo, xo) }
    { d with gz := { d.gz with pending := setBit d.gz.pending 2 true } }
  | .switch mask => { d with net := { d.net with gate := (maskList mask 8).foldl (fun m k => setBit m k true) d.net.gate } }
  | _ => d

/-- Line 0 of a frame on a unit that is not ACTIVE: the decisions that name it. -/
def Dev.partnerDue (d : Dev) (tag line : Nat) : Dev :=
  let mine (x : Nat × Nat × PartnerRec) : Bool := x.1 == tag && decide (x.2.1 ≤ line)
  let now := d.net.due.filter mine
  now.foldl (fun d x => d.applyDecision x.2.2) { d with net := { d.net with due := d.net.due.filter fun x => !mine x } }

end Sys2Proof.Machine
end

