-- ==== Sys2Proof/Machine/Fired.lean ====
section
/-! DEFINITION. Links and their rows, fire positions (R63), the lines that have fired on a row, and what silence says of them (R292). -/
namespace Sys2Proof.Machine

/-! ## Links and rows -/

def Dev.lk (d : Dev) (n : Nat) : Link := d.link.links.getD n Link.reset

def Dev.modLk (d : Dev) (n : Nat) (f : Link → Link) : Dev := { d with link := { d.link with links := modAt d.link.links n f } }

def Link.row (l : Link) (r : Nat) : RowSt := l.rows.getD r RowSt.reset

def Dev.modRow (d : Dev) (n r : Nat) (f : RowSt → RowSt) : Dev := d.modLk n fun l => { l with rows := modAt l.rows r f }

/-- The FIFO entry of a line. -/
def Dev.entry? (d : Dev) (n tag line : Nat) : Option FifoLine := (d.lk n).fifo.find? fun e => e.tag == tag && e.line == line

def Dev.rowEntry? (d : Dev) (n r tag line : Nat) : Option RowEntry := (d.entry? n tag line).bind fun e => e.rows[r]?

def Dev.modEntry (d : Dev) (n r tag line : Nat) (f : RowEntry → RowEntry) : Dev :=
  d.modLk n fun l => { l with fifo := l.fifo.map fun e => if e.tag == tag && e.line == line then { e with rows := modAt e.rows r f } else e }

/-- Enabled links. -/
def Dev.linksOn (d : Dev) : List Nat := (List.range 16).filter fun n => d.on (Reg.LINK_CFG_n.EN n)

/-- FO and XO of a head row (R232). -/
def Dev.alignOf (d : Dev) (row : Nat) : Int × Int := (kvGet (d.gzBank 2).align row).getD (0, 0)

/-! ## Fire positions (R63) -/

/-- The position that a job's lines count from. -/
def Job.base (j : Job) : Nat :=
  match j.phase with
  | .live | .ending => j.j0
  | .opened | .staged => j.spliceAt.getD 0

/-- The line at which a job's lines end: END_FRAME, FRAMES, or a scheduled splice. -/
def Dev.endLine (d : Dev) (j : Job) : Option Nat :=
  let own := j.lastFrame.map fun (f, _) => (f + 1) * j.repeat_
  let cut := if j.phase = .live then
      d.jobs.findSome? fun k => if k.tag = j.tag then none else k.spliceAt.map fun p => (pwDiff p j.j0).toNat / 256
    else none
  match own, cut with
  | some a, some b => some (min a b)
  | some a, none => some a
  | none, b => b

/-- The fire position of a line at a row: F(L) (R63). -/
def Dev.firePos (d : Dev) (n r : Nat) (j : Job) (line : Nat) : Nat :=
  let row := 4 * n + r
  pw48 ((j.base : Int) + 256 * (line : Int) + signedOf 32 (d.get (Reg.POS_ROW_OFS_n.OFS row)) + (d.alignOf row).1)

/-! ## Lines that have fired (R292, R294) -/

/-- A line of a row has fired: its fire position has passed, or the predicted instant of it. -/
def Dev.hasFired (d : Dev) (n r : Nat) (j : Job) (line : Nat) : Bool :=
  let p := d.firePos n r j line
  d.passed p || d.reachedNow p

/-- Jobs whose lines fire or have fired, the newest first. -/
def Dev.jobsNewest (d : Dev) : List Job :=
  (d.jobs.filter fun j => j.phase == .live) ++ (d.jobs.filter fun j => j.phase == .ending).reverse

/-- The last line that has fired on a row. -/
def Dev.newestFired (d : Dev) (n r : Nat) : Option (Job × Nat) :=
  d.jobsNewest.findSome? fun j =>
    let x := pwDiff d.pos.pw (d.firePos n r j 0)
    let next := if x < 0 then 0 else x.toNat / 256 + 1
    let next := if d.hasFired n r j next then next + 1 else next
    let next := match d.endLine j with
      | some e => min e next
      | none => next
    if next = 0 then none else some (j, next - 1)

/-- The lines of a row after one that has fired, up to and including a line of a job: across a splice the rest of the job before, then the
job's own lines. -/
def Dev.linesSince (d : Dev) (prev : Option (Nat × Nat)) (j : Job) (line : Nat) : List (Job × Nat) :=
  let span (k : Job) (a b : Nat) : List (Job × Nat) := (List.range (b - a)).map fun i => (k, a + i)
  match prev.bind fun (t, l) => (d.job? t).map fun k => (k, l) with
  | none => span j 0 (line + 1)
  | some (k, l) =>
    if k.tag = j.tag then span j (l + 1) (line + 1) else span k (l + 1) ((d.endLine k).getD 0) ++ span j 0 (line + 1)

/-- A finding against every line that has fired on a row of a link since the LAST_LINE of the last valid status. -/
def Dev.silentRow (d : Dev) (n r : Nat) : Dev :=
  match d.newestFired n r with
  | none => d
  | some (j, line) => (d.linesSince ((d.lk n).row r).fired j line).foldl (fun d (k, l) => d.lineFinding k l vSuspect cUnverified (some n)) d

/-- On a silent link every line fired since the last valid status is UNVERIFIED at best (R292). -/
def Dev.silentFired (d : Dev) (n : Nat) : Dev :=
  if d.on (Reg.LINK_STAT_n.SILENT n) then (List.range (d.rowsOf n)).foldl (fun d r => d.silentRow n r) d else d

/-- The same for every link. -/
def Dev.silentLines (d : Dev) : Dev := d.linksOn.foldl Dev.silentFired d

end Sys2Proof.Machine
end

