-- ==== Sys2Proof/Machine/Retire.lean ====
section
/-! DEFINITION. The end of a job (R101, R105, R106): what it frees, JOB_RETIRED, and which of its verdicts are posted. -/
namespace Sys2Proof.Machine

/-! ## What a job frees -/

/-- Pages of 64 KiB in use in the content store and in the tile store (R152). -/
def Dev.csPages (d : Dev) : Nat := d.cal.streams.foldl (fun n s => s.bufs.foldl (fun n b => n + b.pages) n) 0
def Dev.tsPages (d : Dev) : Nat := d.dmk.planes.foldl (fun n p => n + p.pages) 0

/-- PIPE_DMK_USE follows the stores, in MiB rounded up. -/
def Dev.storeUse (d : Dev) : Dev := (d.put Reg.PIPE_DMK_USE.CS_USED (cdiv d.csPages 16)).put Reg.PIPE_DMK_USE.TS_USED (cdiv d.tsPages 16)

/-- A datum of a job's content, planes, layouts, glyphs or records. -/
def datumOfJob (tag : Nat) : Datum → Bool
  | .content t _ _ | .plane t _ _ | .layout t _ _ | .glyph t _ | .record t _ _ => t == tag
  | _ => false

/-- The decodes of a job stop: their contexts are free, their saves forgotten (R140). -/
def Dev.stopDecodes (d : Dev) (tag : Nat) : Dev :=
  let mine (c : Ctx) : Bool := match c with
    | .decode x => x.ident / 65536 == tag
    | _ => false
  let d := d.clearPoison fun p => match p with
    | .calHist i _ => i / 65536 == tag
    | _ => false
  let d := { d with cal := { d.cal with saved := d.cal.saved.filter fun v => v.dec.ident / 65536 != tag } }
  (List.range 16).foldl (fun d c => if mine (d.ctx c) then d.setCtx c .free else d) d

/-- Everything that a job holds is freed (R106, R153). -/
def Dev.freeJob (d : Dev) (tag : Nat) : Dev :=
  let d := d.stopDecodes tag
  let d := { d with ecc := { d.ecc with poisoned := d.ecc.poisoned.filter fun p => !datumOfJob tag p } }
  Dev.storeUse <| Dev.startDecodes { d with
    jobs := d.jobs.filter fun j => j.tag != tag
    cal := { d.cal with streams := d.cal.streams.filter (fun s => s.tag != tag), staging := d.cal.staging.filter fun s => s.tag != tag }
    dmk := { d.dmk with
      planes := d.dmk.planes.filter (fun p => p.tag != tag), layouts := d.dmk.layouts.filter (fun l => l.tag != tag)
      records := d.dmk.records.filter (fun r => r.tag != tag), glyphs := d.dmk.glyphs.filter (fun g => g.tag != tag)
      painted := d.dmk.painted.filter fun p => p.tag != tag
      paintWait := d.dmk.paintWait.filter fun w => w.1 != tag } }

/-- The tag is free again, and the frames printed under it keep their verdicts and mark slots (R412): they are told apart by a tag
256 higher. -/
def Dev.retireFrames (d : Dev) (tag : Nat) : Dev :=
  let old (t : Nat) : Nat := if t % 256 = tag then t + 256 else t
  let frames := d.chk.frames.map fun f => { f with tag := old f.tag }
  let cal := d.pos.cal.map fun (n, s) => match s.act with
    | .mark t f last => (n, { s with act := .mark (old t) f last })
    | _ => (n, s)
  { d with chk := { d.chk with frames := frames }, pos := { d.pos with cal := cal } }

/-- A job in ENDING is CLOSED: JOB_RETIRED, its JOB_CLOSE commands complete, and at rest with no job open the device is READY. -/
def Dev.closeJob (d : Dev) (j : Job) : Dev :=
  let d := ((d.freeJob j.tag).retireFrames j.tag).post 0x1008 sevInfo [j.tag, j.endFrame.getD 0]
  (j.closers.foldl (fun d t => d.complete t stOk 0) d).restCheck

/-- Jobs that print or have printed, in the order they went live. -/
def Dev.jobsInOrder (d : Dev) : List Job :=
  (d.jobs.filter fun j => j.phase == .ending) ++ d.jobs.filter fun j => j.phase == .live

/-- The next frame of a job to be posted: frames are posted in ascending order (R410). -/
def Dev.nextFrame (d : Dev) (j : Job) : Nat := (d.chk.frames.filter fun f => f.tag == j.tag && f.posted).length

/-- Every frame of an ENDING job is posted. -/
def Dev.allPosted (d : Dev) (j : Job) : Bool :=
  j.phase == .ending && (match j.endFrame with
    | some e => decide (e < d.nextFrame j)
    | none => false)

/-! ## Which line comes next (R64) -/

/-- The job that a splice puts after a job: scheduled, or already live there. -/
def Dev.follows (d : Dev) (j : Job) (line : Nat) : Option Job :=
  let p := pwAdd j.base (256 * line)
  d.jobs.find? fun k => k.tag != j.tag && (k.spliceAt == some p || (k.phase == .live && k.j0 == p && j.phase == .ending))

/-- The line that stands at (tag, line): itself, or across a splice the new job's line 0; none beyond a job's end. -/
def Dev.lineFrom (d : Dev) (tag line : Nat) : Option (Job × Nat) :=
  match d.job? tag with
  | none => none
  | some j =>
    match d.endLine j with
    | none => some (j, line)
    | some e => if line < e then some (j, line) else (d.follows j e).map fun k => (k, 0)

/-- The next line not yet sent for a row. -/
def Dev.rowNext (d : Dev) (n r : Nat) : Option (Job × Nat) :=
  match ((d.lk n).row r).next with
  | none => none
  | some (t, l) => d.lineFrom t l

/-! ## Jobs whose lines have all settled (R101) -/

/-- Every line of a job has settled: none of its lines is in a FIFO, and every row timer is past it. -/
def Dev.linesDone (d : Dev) (j : Job) : Bool :=
  d.on Reg.REC_RPL_CFG.EN || d.linksOn.all fun n =>
    !((d.lk n).fifo.any fun e => e.tag == j.tag) && (List.range (d.rowsOf n)).all fun r => match d.rowNext n r with
      | some (k, _) => k.tag != j.tag
      | none => true

/-- ENDING jobs whose last line is settled and whose last verdict is posted are CLOSED (R101). -/
def Dev.retireJobs (d : Dev) : Dev :=
  (d.jobs.filter fun j => d.allPosted j && d.linesDone j).foldl Dev.closeJob d

/-- What follows from a new PW: the lines of silent links, slots, the job's end, mark slots, and jobs with nothing left to print. -/
def Dev.webReached (d : Dev) : Dev := d.silentLines.positionReached.retireJobs

end Sys2Proof.Machine
end

