-- ==== Sys2Proof/Machine/Position.lean ====
section
/-! DEFINITION. Web position (02): encoders, the position update, position faults, index, PSI inputs, the estimator, and the
commands POS_REREG and PSO_AT. -/
namespace Sys2Proof.Machine

/-! ## The estimator (R60) -/

/-- The velocity span K. -/
def Dev.velK (d : Dev) : Nat := 2 ^ d.get Reg.POS_CFG.VEL_K

/-- POS_VEL and POS_ACC report v and a, rounded toward minus infinity and saturated (R60). -/
def Dev.putVel (d : Dev) (v a : Int) : Dev :=
  let vel := v * 65536000 / (2 ^ 160 : Nat)
  let acc := a * 65536000000000 / (2 ^ 200 : Nat)
  let d := d.put Reg.POS_VEL.VEL (if vel < 0 then 0 else min vel.toNat 0xFFFFFFFF)
  d.put Reg.POS_ACC.ACC (fieldOf 32 (max (-0x80000000) (min acc 0x7FFFFFFF)))

/-- The estimator starts again as after rest (R53); rest is still counted from the latest sample (R60). -/
def Dev.dropEstimate (d : Dev) : Dev :=
  ({ d with pos := { d.pos with count := 0, est := none } }).put Reg.POS_STATUS.VALID 0

/-- The estimate of a sample from the samples Ke and 2 Ke before it: v in 2^-160 fine count per ns, a in 2^-200 per ns^2. -/
def estimateOf (s0 s1 s2 prev : Sample) : Option Estimate :=
  let t1 := s0.t - s1.t
  let t2 := s1.t - s2.t
  if t1 = 0 ∨ t2 = 0 then none
  else
    let (n1, d1) := sampleDist s0 s1
    let (n2, d2) := sampleDist s1 s2
    let v1 := n1 * (2 ^ 160 : Nat) / ((d1 * t1 : Nat) : Int)
    let v2 := n2 * (2 ^ 160 : Nat) / ((d2 * t2 : Nat) : Int)
    let a := (v1 - v2) * (2 ^ 41 : Nat) / ((t1 + t2 : Nat) : Int)
    some ⟨s0, prev, v1 + a * (t1 : Int) / (2 ^ 41 : Nat), a⟩

/-- A new sample (R60): AT_REST clears, and from the fifth sample since rest there is an estimate. -/
def Dev.addSample (d : Dev) (s : Sample) : Dev :=
  let d := d.put Reg.POS_STATUS.AT_REST 0
  let hist := (s :: d.pos.hist).take (2 * d.velK + 1)
  let n := d.pos.count + 1
  let ke := min d.velK ((n - 1) / 2)
  let est := if ke < 2 then none else
    match hist[ke]?, hist[2 * ke]?, hist[1]? with
    | some s1, some s2, some p => estimateOf s s1 s2 p
    | _, _, _ => none
  let d := { d with pos := { d.pos with hist := hist, count := n, est := est } }
  match est with
  | none => d.put Reg.POS_STATUS.VALID 0
  | some e => (d.put Reg.POS_STATUS.VALID 1).putVel e.v e.a

/-- The latest sample. -/
def Dev.latest (d : Dev) : Option Sample := d.pos.hist.head?

/-- The expected gap: the predicted time from the base to as far again as the last sample's step, in 2^-16 ns (R60). -/
def expectedGap (e : Estimate) : Option Nat :=
  let (n, k) := sampleDist e.base e.prev
  reachIn e n k

/-! ## PW -/

/-- PW takes a new value at an instant; the log keeps 1,023 us for PSI latches (R58). -/
def Dev.setPw (d : Dev) (pw t : Nat) : Dev :=
  let log := (t, pw) :: d.pos.pwLog
  let recent := log.filter fun (u, _) => decide (d.tb ≤ u + 1023000)
  { d with pos := { d.pos with pw := pw, pwLog := recent ++ ((log.drop recent.length).take 1) } }

/-- PW at an earlier instant of TB. -/
def Dev.pwAt (d : Dev) (t : Nat) : Nat :=
  match d.pos.pwLog.find? fun (u, _) => decide (u ≤ t) with
  | some (_, p) => p
  | none => d.pos.pw

/-- The ratio N / D in force: of the live job, where it carries one; else of a job that is ending; else POS_SCALE (R52). -/
def Dev.ratio (d : Dev) : Nat × Nat :=
  let j := match d.live? with
    | some j => some j
    | none => d.jobs.find? fun j => j.phase == JobPhase.ending
  match j with
  | some j => if j.scaleN = 0 ∨ j.scaleD = 0 then (d.get Reg.POS_SCALE_N.VALUE, d.get Reg.POS_SCALE_D.VALUE) else (j.scaleN, j.scaleD)
  | none => (d.get Reg.POS_SCALE_N.VALUE, d.get Reg.POS_SCALE_D.VALUE)

/-! ## Faults (R48, R54, R55) -/

/-- Registration is lost: CAUSE is set once, frames with a line sent but not fired and the frame in print become REJECT, and the
web stops as for STOP (R54, R55). -/
def Dev.loseRegistration (d : Dev) (cause : Nat) : Dev :=
  if d.on Reg.POS_STATUS.REG_LOST then d
  else
    let d := (d.put Reg.POS_STATUS.REG_LOST 1).put Reg.POS_FAULT.CAUSE cause
    let d := d.findings d.framesUnfired vReject cPosition
    let d := match d.live? with
      | some j => d.finding j.tag (j.frameInPrint d.pos.pw) vReject cPosition none none
      | none => d
    d.dropEstimate.stopWeb

/-- The filter time of an encoder in ns (R47). -/
def Dev.filterNs (d : Dev) (n : Nat) : Nat := (d.get (Reg.POS_ENC_CFG_n.FILT n) + 1) * 10

/-- The encoder that alone moves PW: WEB_ENC of a device that is not a follower (R45, R72). A follower has none, and an index fault or an
overspeed on its WEB_ENC is one on another encoder (log entry 155). -/
def Dev.isWeb (d : Dev) (n : Nat) : Bool := decide (d.get Reg.POS_CFG.WEB_ENC = n) && !d.follower

/-- An index fault (R54, R57): `arg` is d, or 0x8000_0000 for a Z that stays active too long. -/
def Dev.indexFault (d : Dev) (n arg : Nat) : Dev :=
  let since := (d.enc n).zAt
  let d := ((d.put Reg.POS_FAULT.IDX 1).put Reg.POS_FAULT.INPUT n).bump (Reg.POS_IDX_DEV_n.FAULTS n)
  let d := d.post 0x3004 sevWarn [n, arg]
  if d.isWeb n then d.findings (d.framesFiredSince since) vSuspect cPosition else d

/-- A Z that stays active for more than 4 counts is not accepted and is an index fault (R57). -/
def Dev.zCount (d : Dev) (n : Nat) : Dev :=
  let e := d.enc n
  if !e.zActive then d
  else
    let d := d.modEnc n fun e => { e with zCounts := e.zCounts + 1 }
    if e.zCounts + 1 = 5 then
      let d := d.modEnc n fun e => { e with ez := e.zBack, zLost := true, zAt := e.zBackAt }
      (d.put (Reg.POS_IDX_DEV_n.DEV n) e.zBackDev).indexFault n 0x80000000
    else d

/-- After an index fault, a window that the count leaves forward has passed: E_z moves on by the period (R57). -/
def Dev.passWindow (d : Dev) (n : Nat) : Dev :=
  d.modEnc n fun e => match e.ez with
    | some ez => if e.zLost && decide (16 < sign48 (e.e - ez)) then { e with ez := some (sign48 (ez + d.get (Reg.POS_IDX_PERIOD_n.PERIOD n))) } else e
    | none => e

/-- Count an accepted edge of an encoder (R46) and raise at most one overspeed in a 1 us window (R48). `a` says that the edge is on
line A, `dir` its direction. The second result is whether an overspeed was raised. -/
def Dev.countEdge (d : Dev) (n : Nat) (a : Bool) (dir : Int) (t : Nat) : Dev × Bool :=
  let e := d.enc n
  let fresh := e.win ≠ t / 1000
  let count := if fresh then 1 else e.winCount + 1
  let raised := if fresh then false else e.winRaised
  let other := if a then e.lastB else e.lastA
  let close := match other with
    | some u => decide (t - u < d.filterNs n)
    | none => false
  let fast := decide (d.get (Reg.POS_ENC_CFG_n.OVS_LIM n) < count)
  let raise := (fast || close) && !raised
  let d := d.modEnc n fun e => { e with
    e := sign48 (e.e + dir), win := t / 1000, winCount := count, winRaised := raised || raise
    lastA := if a then some t else e.lastA, lastB := if a then e.lastB else some t }
  let d := (d.zCount n).passWindow n
  if raise then
    let d := (d.put Reg.POS_FAULT.OVS 1).put Reg.POS_FAULT.INPUT n
    (d.post 0x3003 (if d.isWeb n then sevFault else sevWarn) [n, if fast then 0 else 1], true)
  else (d, false)

/-- The direction of an edge: +1 while A leads B, and DIR_INV swaps the signs (R46). -/
def Dev.edgeDir (d : Dev) (n : Nat) (aLeads : Bool) : Int :=
  if aLeads = d.on (Reg.POS_ENC_CFG_n.DIR_INV n) then -1 else 1

/-! ## The position update (R50) -/

/-- A forward edge on new ground: PW moves on exactly (R51), a backlash episode ends (R54), the estimator takes the sample. -/
def Dev.newGround (d : Dev) (e : Int) (t : Nat) : Dev :=
  let (n, m) := d.ratio
  let rem := if n = d.pos.n ∧ m = d.pos.d then d.pos.rem else 0
  let acc := rem + n
  let pw := pwAdd d.pos.pw (acc / m)
  let held := d.on Reg.POS_STATUS.HELD
  let deep := d.pos.epDeep
  let rev := d.pos.epRev
  let d := { d with pos := { d.pos with eHw := e, rem := acc % m, n := n, d := m, epDeep := 0, epRev := false } }
  let d := (d.setPw pw t).put Reg.POS_STATUS.HELD 0
  let d := if d.on Reg.POS_STATUS.REG_LOST then d else d.addSample ⟨pw, acc % m, m, t⟩
  let d := if held && decide (deep ≠ 0) && !rev then d.post 0x3001 sevWarn [deep] else d
  d.webReached.syncCheck

/-- A backward edge: PW holds; deeper than BW, once per backward run, it is a reversal (R50, R54). -/
def Dev.backward (d : Dev) (e : Int) : Dev :=
  let held := d.on Reg.POS_STATUS.HELD
  let depth := (sign48 (d.pos.eHw - e)).toNat
  let d := if held then d else d.findings d.framesUnfired vSuspect cPosition
  let d := (d.put Reg.POS_STATUS.HELD 1).dropEstimate
  let d := { d with pos := { d.pos with epDeep := max d.pos.epDeep depth } }
  if d.get Reg.POS_CFG.BW < depth ∧ !d.pos.revRun then
    let d := { d with pos := { d.pos with revRun := true, epRev := true } }
    let d := (d.put Reg.POS_FAULT.REV 1).post 0x3002 sevFault [depth]
    d.loseRegistration 2
  else d

/-- The position engine's update on an accepted web-encoder edge (R50). -/
def Dev.positionUpdate (d : Dev) (n : Nat) (dir : Int) (t : Nat) : Dev :=
  let e := (d.enc n).e
  if dir = 1 then
    let d := d.takeEdge n
    let e := (d.enc n).e
    let d := { d with pos := { d.pos with revRun := false } }
    if 0 < sign48 (e - d.pos.eHw) then d.newGround e t else d
  else d.backward e

/-- Encoders are counted in the states that serve the host, not in replay mode (R502). -/
def Dev.encodersLive (d : Dev) (n : Nat) : Bool :=
  d.mode.served && !d.on Reg.REC_RPL_CFG.EN && decide (n < 4) && d.on (Reg.POS_ENC_CFG_n.EN n)

/-- ENCODER_EDGE: an accepted edge of an enabled encoder that does not move PW (R45). -/
def execEncoderEdge (dt : Nat) (n : Nat) (lineA aLeads : Bool) (s : State) : Host.Outcome State Fault Refusal :=
  s.act dt fun d =>
    if !d.encodersLive n || d.isWeb n then d
    else (d.countEdge n lineA (d.edgeDir n aLeads) (d.tb - d.filterNs n)).1

/-- ENCODER_GLITCH: a suppressed pulse is counted (R47). -/
def execEncoderGlitch (dt : Nat) (n : Nat) (s : State) : Host.Outcome State Fault Refusal :=
  s.act dt fun d => if d.encodersLive n then d.bump (Reg.POS_GLITCH_n.GLITCH n) else d

/-! ## Index (R57) -/

/-- E_z moved on by whole periods until its window has not yet passed. -/
def skipWindows (e ez : Int) (period : Nat) : Int :=
  let late := e - ez - 16
  if late ≤ 0 then ez else ez + ((late + period - 1) / period) * period

/-- A Z edge that becomes active. With PERIOD 0 there is no check. -/
def Dev.indexEdge (d : Dev) (n : Nat) : Dev :=
  let period := d.get (Reg.POS_IDX_PERIOD_n.PERIOD n)
  let e := d.enc n
  if period = 0 then d
  else
    let d := d.modEnc n fun e => { e with
      zActive := true, zCounts := 0, zBack := e.ez, zBackDev := d.get (Reg.POS_IDX_DEV_n.DEV n), zBackAt := e.zAt }
    match e.ez with
    | none => d.modEnc n fun e => { e with ez := some (sign48 (e.e + period)), zLost := false, zAt := d.tb }
    | some ez =>
      let dev := sign48 (e.e - ez)
      if -16 ≤ dev ∧ dev ≤ 16 then
        let d := d.put (Reg.POS_IDX_DEV_n.DEV n) (fieldOf 16 dev)
        d.modEnc n fun e => { e with ez := some (sign48 (ez + period)), zLost := false, zAt := d.tb }
      else (d.modEnc n fun x => { x with ez := some (skipWindows e.e ez period), zLost := true }).indexFault n (fieldOf 32 dev)

/-- INDEX_EDGE: an accepted Z edge of an encoder to a pin level; Z_POL says which level is active. -/
def execIndexEdge (dt : Nat) (n : Nat) (level : Bool) (s : State) : Host.Outcome State Fault Refusal :=
  s.act dt fun d =>
    if !d.encodersLive n then d
    else if level = d.on (Reg.POS_ENC_CFG_n.Z_POL n) then d.modEnc n fun e => { e with zActive := false }
    else d.indexEdge n

/-! ## Rest and lapse (R60) -/

/-- ESTIMATOR_REST: no sample for REST_MS. The web may be at rest with it, and the state follows (R31, R303). -/
def execEstimatorRest (dt : Nat) (s : State) : Host.Outcome State Fault Refusal :=
  s.act dt fun d =>
    match d.latest with
    | none => d
    | some l =>
      if d.get Reg.POS_CFG.REST_MS * 1000000 < d.since l.t then
        (d.dropEstimate.put Reg.POS_STATUS.AT_REST 1).restCheck
      else d

/-- ESTIMATE_INVALID: 1.5 expected gaps without a sample. Where the prediction gives no expected gap, because the web is predicted to stop
before it, the estimate does not lapse by this test (log entry 153). -/
def execEstimateInvalid (dt : Nat) (s : State) : Host.Outcome State Fault Refusal :=
  s.act dt fun d =>
    match d.pos.est with
    | none => d
    | some e =>
      match expectedGap e with
      | none => d
      | some g => if 3 * g < 2 * (d.since e.base.t * 65536) then d.put Reg.POS_STATUS.VALID 0 else d

/-! ## PSI inputs (R58, R59) -/

def Dev.psiAt (d : Dev) (n : Nat) : Psi := d.pos.psi.getD n ⟨false, 0, false⟩

/-- The time-stamp that an instant of TB has as read now (R17, R18). -/
def Dev.stampAt (d : Dev) (t : Nat) : Nat := ({ d with tb := t }).stamp

/-- The lowest active STOP input (R58: a MOVE completes with EXT_STOP). -/
def Dev.stopInput (d : Dev) : Option Nat :=
  (List.range 8).find? fun n => (d.psiAt n).level && decide (d.get (Reg.POS_PSI_CFG_n.FUNC n) = 1)

/-- The function of an input acts on its debounced change. -/
def Dev.psiAct (d : Dev) (n : Nat) (level : Bool) : Dev :=
  match d.get (Reg.POS_PSI_CFG_n.FUNC n) with
  | 0 => d.post 0x3005 sevInfo [n, b2n level]
  | 1 => if level then (if d.follower then d.stopReq false n else d.stopWeb.restCheck) else d
  | 2 =>
    if level then
      let raw := d.tb - d.get (Reg.POS_PSI_CFG_n.DEBOUNCE n) * 1000
      let p := d.pwAt raw
      d.post 0x3006 sevInfo [n, d.stampAt raw, p % 2 ^ 32, p / 2 ^ 32]
    else d
  | _ => d

/-- PSI_CHANGE: an input's new pin level has held for the debounce time. -/
def execPsiChange (dt : Nat) (n : Nat) (pin : Bool) (s : State) : Host.Outcome State Fault Refusal :=
  s.act dt fun d =>
    let level := pin != d.on (Reg.POS_PSI_CFG_n.POL n)
    let old := d.psiAt n
    if !d.mode.served || 8 ≤ n || old.level == level then d
    else
      let d := { d with pos := { d.pos with psi := setAt d.pos.psi n ⟨level, d.tb, false⟩ } }
      let d := d.put Reg.POS_PSI_STATE.LEVEL (setBit (d.get Reg.POS_PSI_STATE.LEVEL) n level)
      let d := d.psiAct n level
      if old.stuck && !level then
        (d.put Reg.POS_PSI_STATE.STUCK (setBit (d.get Reg.POS_PSI_STATE.STUCK) n false)).post 0x3008 sevInfo [n]
      else d

/-- PSI_WATCHDOG: an input active for longer than WDOG ms sets STUCK and posts once. -/
def execPsiWatchdog (dt : Nat) (n : Nat) (s : State) : Host.Outcome State Fault Refusal :=
  s.act dt fun d =>
    let w := d.get (Reg.POS_PSI_CFG_n.WDOG n)
    let p := d.psiAt n
    if d.mode.served && decide (n < 8) && decide (w ≠ 0) && p.level && !p.stuck && decide (w * 1000000 < d.since p.since) then
      let d := { d with pos := { d.pos with psi := setAt d.pos.psi n { p with stuck := true } } }
      let d := d.put Reg.POS_PSI_STATE.STUCK (setBit (d.get Reg.POS_PSI_STATE.STUCK) n true)
      (d.put Reg.POS_FAULT.STUCK 1).post 0x3007 sevWarn [n, w]
    else d

/-! ## PARAM POS_REREG (R56) and PSO_AT (R71) -/

/-- After an overspeed every pending reject-mark slot goes, each frame posted (R56). -/
def Dev.removeMarks (d : Dev) : Dev :=
  let marks := d.pos.cal.filterMap fun (_, s) => match s.act with
    | .mark tag frame last => if last then none else some (tag, frame)
    | _ => none
  let d := d.freeSlots fun a => match a with
    | .mark _ _ _ => true
    | _ => false
  marks.foldl (fun d (t, f) => d.post 0x300B sevFault [t % 256, f]) d

/-- An accepted edge of the web encoder, on line A or B, with A or B leading. It is stamped with the raw transition, the filter time ago
(R47). -/
def Dev.webEdge (d : Dev) (lineA aLeads : Bool) : Dev :=
  let n := d.get Reg.POS_CFG.WEB_ENC
  if !(d.encodersLive n && d.isWeb n) then d
  else
    let t := d.tb - d.filterNs n
    let dir := d.edgeDir n aLeads
    let (d, fast) := d.countEdge n lineA dir t
    let d := if fast then d.loseRegistration 1 else d
    d.positionUpdate n dir t

/-- Re-registration: REG_LOST clears; after an overspeed E_hw becomes E and the marks go (R56). The first Z after it fixes E_z (R57). -/
def Dev.reregister (d : Dev) : Dev :=
  let cause := d.get Reg.POS_FAULT.CAUSE
  let n := d.get Reg.POS_CFG.WEB_ENC
  let d := (d.put Reg.POS_STATUS.REG_LOST 0).put Reg.POS_FAULT.CAUSE 0
  let d := { d with pos := { d.pos with encs := d.pos.encs.map fun e => { e with ez := none, zLost := false } } }
  if cause = 1 then
    ({ d with pos := { d.pos with eHw := (d.enc n).e } }).removeMarks
  else d

/-- POS_REREG: PARAM 0x3001, only in HOLD with the web at rest. -/
def execPosRereg (dt : Nat) (ring : Nat) (x : Desc) (s : State) : Host.Outcome State Fault Refusal :=
  s.act dt fun d =>
    d.onTake (d.takeParam ring x (· == 0x3001) [.hold] true) fun d t =>
      match valueExtra x [0, 0, 0, 0] with
      | some w => d.complete t stBadParam w
      | none => if d.webAtRest then (d.reregister).complete t stOk 0 else d.complete t stRefused d.mode.code

/-- What PSO_AT does, when it applies (R91). -/
def Dev.psoAt (d : Dev) (t : Ticket) (x : Desc) : Dev :=
  let rel := bitOf (x.w 6) 6
  match valueExtra x [0x7F, 0xFFFFFFFF, 0xFFFF, 0] with
  | some _ => d.complete t stBadParam 6
  | none =>
    let out := x.f 6 0 4
    let base := if rel then (d.live?.bind fun j => if j.tag = x.f 5 0 8 then some j.j0 else none) else some 0
    match base with
    | none => d.complete t stNoJob 0
    | some b =>
      if d.psoTaken out then d.complete t stBadParam 6
      else
        let pos := pwAdd b (x.w 7 + 2 ^ 32 * x.f 8 0 16)
        let (d, ok) := d.scheduleNow 3 ⟨pos, .pso out (bitOf (x.w 6) 4), if bitOf (x.w 6) 5 then .edge else .predict⟩
        if ok then d.complete t stOk 0 else d.complete t stCalFull 3

/-- PSO_AT: PARAM 0x3002 schedules one PSO change. -/
def execPsoAt (dt : Nat) (ring : Nat) (x : Desc) (s : State) : Host.Outcome State Fault Refusal :=
  s.act dt fun d => d.onParam ring x (· == 0x3002) readyRunHold (!bitOf (x.w 6) 6) fun d t => d.psoAt t x

/-- CALENDAR_SLOT_ACT: a Predict-mode slot reaches its predicted instant and acts (R66); every Predict slot at its fine count acts with it,
in slot-number order (R67). -/
def execCalendarSlotAct (dt : Nat) (slot : Nat) (s : State) : Host.Outcome State Fault Refusal :=
  s.act dt fun d =>
    match kvGet d.pos.cal slot with
    | none => d
    | some e =>
      if e.mode == .predict && d.reachedNow e.pos then
        let others := d.pos.cal.filter fun (n, x) => n != slot && x.mode == .predict && x.pos == e.pos
        if others.isEmpty then d.slotReached slot e
        else
          let due := d.pos.cal.filter fun (_, x) => x.mode == .predict && x.pos == e.pos
          Dev.onePinChange d (due.foldl (fun d (n, x) => d.slotReached n x) d)
      else d

/-- POS_LOST: a follower that has had no broadcast for 5 us (R73). The estimator is invalid; it keeps its history unless the gap
exceeds REST_MS, which the rest rule sees to. -/
def execPosLost (dt : Nat) (s : State) : Host.Outcome State Fault Refusal :=
  s.act dt fun d =>
    if d.mode.served && d.follower && !d.on Reg.POS_STATUS.POS_LOST && decide (5000 ≤ d.since d.pos.bcastAt) then
      (((d.put Reg.POS_STATUS.POS_LOST 1).put Reg.POS_STATUS.VALID 0).bump Reg.POS_BCAST.MISSED)
    else d

end Sys2Proof.Machine
end

