-- ==== Sys2Proof/Machine/Dma.lean ====
section
/-! DEFINITION. The DMA engine (R108 to R126): channel stops, transfer lists, and the answers that requests get. -/
namespace Sys2Proof.Machine

/-! ## Stops (R121 to R126) -/

/-- The completion timeout (R126) in ns by the Completion Timeout Value. -/
def timeoutNs (v : Nat) : Nat :=
  match v with
  | 1 => 100000
  | 2 => 10000000
  | 5 => 55000000
  | 6 => 65000000
  | _ => 50000

/-- CAUSE of a ring that its channel has stopped. -/
def causeFetch : Nat := 3

/-- A channel stops with an error: its registers name the failing burst, and every ring that it serves stops (R122, R123). -/
def Dev.stopChannel (d : Dev) (ch code far i0 i1 i2 ring : Nat) (list write : Bool) : Dev :=
  let d := (d.put (Reg.DMA_CH_STAT_n.STATE ch) 3).put (Reg.DMA_CH_STAT_n.ERR ch) code
  let d := (d.put (Reg.DMA_CH_ERR_LO_n.ADDR_LO ch) far).put (Reg.DMA_CH_ERR_HI_n.ADDR_HI ch) (far / 2 ^ 32)
  let d := ((d.put (Reg.DMA_CH_ERR_IDX_n.I0 ch) i0).put (Reg.DMA_CH_ERR_IDX_n.I1 ch) i1).put (Reg.DMA_CH_ERR_SRC_n.I2 ch) i2
  let d := (d.put (Reg.DMA_CH_ERR_SRC_n.RING ch) (if list then 0 else ring)).put (Reg.DMA_CH_ERR_SRC_n.LIST ch) (b2n list)
  let d := (d.put (Reg.DMA_CH_ERR_SRC_n.WRITE ch) (b2n write)).bump (Reg.DMA_CH_CNT_n.ERRORS ch)
  ((List.range 32).filter fun n => d.on (Reg.HOST_RING_CFG_n.EN n) && decide (d.channelOf n = ch)
    && !d.on (Reg.HOST_RING_STAT_n.STOPPED n)).foldl (fun d n => d.stopRing n causeFetch) (if ch = 8 then d.capEnd 1 else d)

/-- The same, with the error as one value. -/
def Dev.stopWith (d : Dev) (ch : Nat) (e : ChError) : Dev :=
  d.stopChannel ch e.code e.far e.idx.1 e.idx.2.1 e.idx.2.2 e.ring e.list e.write

/-- The last word 0 that waits on a channel becomes that of a descriptor that has failed; none where no write-back is due. -/
def failLast (ch : Nat) (e : ChError) : List Wr → Option (List Wr)
  | [] => none
  | w :: t =>
    match failLast ch e t with
    | some t' => some (w :: t')
    | none =>
      if w.ch ≠ ch ∨ w.sent then none
      else match w.kind with
        | .last u => some ({ w with kind := .fail e u } :: t)
        | .next => some ({ w with kind := .fail e false } :: t)
        | _ => none

/-- A channel stops once the write-back of its failed descriptor is over; at once where there is none (R122). -/
def Dev.stopAfter (d : Dev) (ch : Nat) (e : ChError) : Dev :=
  match failLast ch e d.host.writes with
  | some ws => { d with host := { d.host with writes := ws } }
  | none => d.stopWith ch e

/-- Reads of a failed transfer that were issued after the failing one keep their tags until they are answered or time out (R124): how many
there are the spec leaves open. -/
def Dev.leaveStale (d : Dev) (ch most : Nat) : Dev :=
  let (k, d) := d.draw 10
  d.modChan ch fun c => { c with stale := c.stale ++ List.replicate (k % (most + 1)) (d.tb, timeoutNs d.host.cplTimeout) }

/-- The error of a fetch of `len` bytes at `addr` that fails in the burst that holds byte `off`: the reads behind it are left over. -/
def Dev.readError (d : Dev) (ring addr len off code : Nat) : ChError × Dev :=
  let ch := d.channelOf ring
  let (p, k, n) := (burstAt addr len d.dma.maxRead off).getD (⟨addr, 1, 1, 1, 8, 0, 0, 8⟩, 0, 1)
  let rest := (ringBursts addr len d.dma.maxRead).length - (off / (8 * n) + 1)
  (⟨code, p.far k, p.idx k, ring, false, false⟩, d.leaveStale ch (min rest (d.freeTags ch)))

/-- A fetch for a ring descriptor has failed: the descriptor completes with the error, and its channel stops (R115, R121, R122). -/
def Dev.fetchFail (d : Dev) (t : Ticket) (addr len off code : Nat) : Dev :=
  let (e, d) := d.readError t.ring addr len off code
  (d.complete t code 0).stopAfter (d.channelOf t.ring) e

/-- Transport parity has struck data of a channel: counted and posted, at the channel (R379). -/
def Dev.dataParity (d : Dev) (ch : Nat) : Dev := (d.bump Reg.MEM_PARITY.DATA).postAt 0xC004 sevFault [0, 0] (d.loc 0 0 2 ch 0 0)

/-- The data of a ring descriptor come: nothing is delivered where the fetch fails (R116, R121); a granule that transport parity has
struck is delivered poisoned, at an offset (R379). -/
def Dev.onData (d : Dev) (t : Ticket) (x : Desc) (f : Fetch) (k : Dev → List Nat → Option Nat → Dev) : Dev :=
  match fetched f x.len with
  | .error code => (d.reads (d.channelOf t.ring) x.addr x.len).fetchFail t x.addr x.len (failedAt f) code
  | .ok bytes =>
    let d := (d.reads (d.channelOf t.ring) x.addr x.len).movedRing t.ring x.len
    match struckAt f with
    | none => k d bytes none
    | some o => k (d.dataParity (d.channelOf t.ring)) bytes (some o)

/-- A channel restarts: ERR is 0 after it (R125), and the writes and messages that it has held leave. -/
def Dev.restartChannel (d : Dev) (ch : Nat) : Dev :=
  if d.chStopped ch then
    let d := (d.put (Reg.DMA_CH_STAT_n.STATE ch) 0).put (Reg.DMA_CH_STAT_n.ERR ch) 0
    (Dev.pump d.host.writes.length d).sendPending
  else d

/-- TAGS and DMA_TAGS follow the reads outstanding (R112). -/
def Dev.countTags (d : Dev) : Dev :=
  let d := (List.range 16).foldl (fun e ch => e.put (Reg.DMA_CH_STAT_n.TAGS ch) (d.tagsOf ch)) d
  (d.put Reg.DMA_TAGS.IN_USE d.tagsUsed).peak d.tagsUsed

/-! ## Transfer programs (R113, R114) -/

/-- A signed 32-bit step of a transfer descriptor. -/
def stepOf (ws : List Nat) (i : Nat) : Int := signedOf 32 (ws.getD i 0)

def xferC0 (ws : List Nat) : Nat := ws.getD 5 0 % 65536 + 1
def xferC1 (ws : List Nat) : Nat := ws.getD 5 0 / 65536 + 1
def xferC2 (ws : List Nat) : Nat := ws.getD 6 0 % 65536 + 1
def xferTail (ws : List Nat) : Nat := ws.getD 0 0 / 65536 % 8 + 1
def xferBase (ws : List Nat) : Nat := ws.getD 1 0 + 2 ^ 32 * ws.getD 2 0
def xferDev (ws : List Nat) : Nat := ws.getD 3 0 + 2 ^ 32 * (ws.getD 4 0 % 256)
def xferNext (ws : List Nat) : Nat := ws.getD 10 0 + 2 ^ 32 * ws.getD 11 0
def xferOut (ws : List Nat) : Bool := bitOf (ws.getD 0 0) 30
def xferEnd (ws : List Nat) : Bool := bitOf (ws.getD 0 0) 29

/-- The program of a transfer descriptor. -/
def xferProg (ws : List Nat) : Prog :=
  ⟨xferBase ws, xferC0 ws, xferC1 ws, xferC2 ws, stepOf ws 7, stepOf ws 8, stepOf ws 9, xferTail ws⟩

def xferTotal (ws : List Nat) : Nat := (xferProg ws).total
def xferIdx (ws : List Nat) (k : Nat) : Nat × Nat × Nat := (xferProg ws).idx k
def xferFar (ws : List Nat) (k : Nat) : Nat := (xferProg ws).far k

/-! ## Transfer lists (R117 to R120) -/

/-- Bits of word `i` of a transfer descriptor that are not reserved (R118). -/
def xferMask (i : Nat) : Nat :=
  [0xE0070000, 0xFFFFFFFF, 0xFFFFFFFF, 0xFFFFFFFF, 0xFF, 0xFFFFFFFF, 0xFFFF, 0xFFFFFFFF, 0xFFFFFFFF, 0xFFFFFFFF, 0xFFFFFFFF,
    0xFFFFFFFF, 0, 0, 0xFFFFFFFF, 0xFFFFFFFF].getD i 0

/-- The first check that a transfer descriptor fails: reserved bits, BASE, steps, DEV, state, TAIL (R113, R118, R119). -/
def Dev.xferCheck (d : Dev) (ws : List Nat) : Option Nat :=
  if (List.range 16).any fun i => decide (Nat.land (ws.getD i 0) (Nat.xor 0xFFFFFFFF (xferMask i)) ≠ 0) then some stReserved
  else if xferBase ws % 8 ≠ 0 then some stBadAddress
  else if ws.getD 7 0 % 8 ≠ 0 ∨ ws.getD 8 0 % 8 ≠ 0 ∨ ws.getD 9 0 % 8 ≠ 0 then some stBadParam
  else if xferDev ws % 8 ≠ 0 ∨ !devRange (xferDev ws) (8 * xferTotal ws) then some stBadAddress
  else if !xferOut ws ∧ d.mode ≠ .setup then some stRefused
  else if !xferOut ws ∧ xferTail ws ≠ 8 then some stBadParam
  else none

def Dev.setRun (d : Dev) (ch : Nat) (r : Option XferRun) : Dev := d.modChan ch fun c => { c with run := r }

/-- A list's channel may issue a request. -/
def Dev.listOpen (d : Dev) (ch : Nat) : Bool := d.canRequest && !d.chStopped ch && !d.chFailing ch

/-- Ask for the transfer descriptor at an address. A restarted channel does so once no tag is outstanding (R125). -/
def Dev.xferFetch (d : Dev) (ch : Nat) : Dev :=
  let c := d.chan ch
  match c.run with
  | none => d
  | some r =>
    if r.words.isSome || r.open_ ≠ [] || c.stale ≠ [] || !d.listOpen ch || d.freeTags ch = 0 then d
    else
      let d := (d.put (Reg.DMA_CH_STAT_n.STATE ch) 1).setRun ch (some { r with open_ := [⟨r.addr, 0, 64, d.tb, timeoutNs d.host.cplTimeout⟩] })
      d.send (.hostRead ch r.addr 64)

/-- The next burst of a list's program. -/
def Dev.nextBurst (d : Dev) (ws : List Nat) (r : XferRun) (limit : Nat) : Burst × Nat :=
  let p := xferProg ws
  let n := p.burstLen limit r.next
  (⟨p.far r.next, r.next, p.burstBytes r.next n, d.tb, timeoutNs d.host.cplTimeout⟩, n)

/-- Device data that carries a poison mark (R121, R378). -/
def devDatum (a n : Nat) (p : Datum) : Bool :=
  match p with
  | .device x => decide (a ≤ x) && decide (x < a + n)
  | _ => false

def Dev.devPoisoned (d : Dev) (a n : Nat) : Bool := d.isBad (devDatum a n)

/-- A read of device data: what it meets is counted, and poison for one read is read no more. -/
def Dev.devRead (d : Dev) (a n : Nat) : Dev :=
  let d := d.ueRead (d.badData.filter (devDatum a n))
  { d with ecc := { d.ecc with once := d.ecc.once.filter fun p => !devDatum a n p } }

/-- Channel 13 or 14 has a burst of its program ready: a read with a free tag, or a write with the one before answered (R110, R112). -/
def Dev.listReady (d : Dev) (ch : Nat) : Bool :=
  d.listOpen ch && decide (12 < ch) && match (d.chan ch).run with
    | none => false
    | some r =>
      match r.words with
      | none => false
      | some ws => decide (r.next < xferTotal ws) && r.backing.isNone && !r.storing
        && (if xferOut ws then r.open_.isEmpty else decide (0 < d.freeTags ch))

/-- Issue the next burst of a list. -/
def Dev.issueBurst (d : Dev) (m : List Host.Cell) (ch : Nat) : Dev :=
  match (d.chan ch).run with
  | none => d
  | some r =>
    match r.words with
    | none => d
    | some ws =>
      if xferOut ws then
        let (b, n) := d.nextBurst ws r d.dma.maxPayload
        let a := xferDev ws + 8 * r.next
        let bad := d.devPoisoned a b.bytes
        ((d.devRead a b.bytes).setRun ch (some { r with next := r.next + n, open_ := [b], poison := r.poison || bad })).send
          (.hostWrite ch b.far (natBytes (memGet m a b.bytes)) bad)
      else
        let (b, n) := d.nextBurst ws r d.dma.maxRead
        (d.setRun ch (some { r with next := r.next + n, open_ := r.open_ ++ [b] })).send (.hostRead ch b.far b.bytes)

/-- The arbiter grants the bursts of lists while one is ready (R110). -/
def Dev.serve (m : List Host.Cell) : Nat → Dev → Dev
  | 0, d => d
  | fuel + 1, d =>
    match grant d.listReady with
    | none => d
    | some ch => Dev.serve m fuel (d.issueBurst m ch)

/-- STATE of a channel at work: DRAINING once every word is issued (R114). -/
def Dev.runState (d : Dev) (ch : Nat) : Dev :=
  match (d.chan ch).run with
  | some r =>
    match r.words with
    | some ws => d.put (Reg.DMA_CH_STAT_n.STATE ch) (if xferTotal ws ≤ r.next then 2 else 1)
    | none => d
  | none => d

/-- Grant what both lists have ready; a read program takes 736 bursts at most at a time. -/
def Dev.serveLists (d : Dev) (m : List Host.Cell) : Dev := ((Dev.serve m 1500 d).runState 13).runState 14

/-- The PARAM of a list completes; DETAIL is the number of transfer descriptors completed (R117). -/
def Dev.xferParam (d : Dev) (r : XferRun) (code : Nat) : Dev :=
  match r.ticket with
  | some t => d.complete t code (min 65535 r.count)
  | none => d

/-- Write back a transfer descriptor as R87 orders (R118): its word 0 keeps what it was but for OWN. -/
def Dev.xferBack (d : Dev) (ch : Nat) (r : XferRun) (code : Nat) : Dev :=
  let w0 := (r.words.getD []).getD 0 0
  let d := d.setRun ch (some { r with backing := some code })
  d.writeBack ch 0 0 r.addr [(56, statusBytes code 0 0 d.stamp)] (w0 % 2 ^ 31) .next

/-- The list ends: its channel is idle. -/
def Dev.xferEndList (d : Dev) (ch : Nat) (r : XferRun) (code : Nat) : Dev :=
  ((d.setRun ch none).put (Reg.DMA_CH_STAT_n.STATE ch) 0).xferParam r code

/-- A program is over: its descriptor completes with OK or POISONED (R118, R121). -/
def Dev.xferDone (d : Dev) (ch : Nat) (r : XferRun) : Dev := d.xferBack ch r (if r.poison then stPoisoned else stOk)

/-- Word 0 of a transfer descriptor is written: the list goes on at NEXT, or ends. A descriptor that failed a check ends the list with its
status and leaves the channel IDLE (DESIGN CHOICE, log entry 144); so does a NEXT that is not a multiple of 64, with BAD_ADDRESS (DESIGN
CHOICE, log entry 145). -/
def Dev.xferAfter (d : Dev) (ch : Nat) : Dev :=
  match (d.chan ch).run with
  | none => d
  | some r =>
    match r.backing with
    | none => d
    | some code =>
      let ws := r.words.getD []
      if code ≠ stOk ∧ code ≠ stPoisoned then d.xferEndList ch r code
      else
        let d := if code = stPoisoned then (d.xferParam r code).bump (Reg.DMA_CH_CNT_n.ERRORS ch) else d
        let r := if code = stPoisoned then { r with ticket := none } else { r with count := r.count + 1 }
        if xferEnd ws then d.xferEndList ch r stOk
        else if xferNext ws % 64 ≠ 0 then d.xferEndList ch r stBadAddress
        else (d.setRun ch (some { r with
          addr := xferNext ws, words := none, next := 0, open_ := [], got := [], storing := false, poison := false, backing := none })).xferFetch ch

/-- The first entry of a channel's writes. -/
def Dev.headWr (d : Dev) (ch : Nat) : Option Wr := d.host.writes.find? fun w => w.ch == ch

/-- Issue what a channel's writes let go now: what the arbiter grants, then a word 0 from which a list goes on or after which the channel
stops (R87, R122). -/
def Dev.drain (d : Dev) (ch : Nat) : Dev :=
  let d := Dev.pump d.host.writes.length d
  match d.headWr ch with
  | none => d
  | some w =>
    if w.sent || !d.canRequest || d.chStopped ch then d
    else match w.kind with
      | .next => (d.issueWr ch w).xferAfter ch
      | .fail e _ => (d.issueWr ch w).stopWith ch e
      | _ => d

/-- Every channel may issue again what it has: Bus Master Enable is set, the function is back in D0, or a channel has restarted. -/
def Dev.drainAll (d : Dev) : Dev := ((List.range 16).foldl (fun d ch => (d.drain ch).xferFetch ch) d).sendPending

/-- A list fails with an error of R121: the descriptor is written back if it was taken, the PARAM completes, the channel stops. Reads
that are outstanding keep their tags (R124). -/
def Dev.xferFail (d : Dev) (ch : Nat) (r : XferRun) (b : Burst) (code : Nat) (write : Bool) : Dev :=
  let idx := if r.words.isSome then xferIdx (r.words.getD []) b.k else (0, 0, 0)
  let stale := if write then [] else (r.open_.filter fun x => x.k != b.k).map fun x => (x.at_, x.lim)
  let d := if r.words.isSome then d.xferBack ch r code else d
  let d := d.modChan ch fun c => { c with run := none, stale := stale }
  (d.xferParam r code).stopAfter ch ⟨code, b.far, idx, 0, true, write⟩

/-- The transfer descriptor has come: OWN, the checks, then its program starts (R118 to R120). -/
def Dev.xferTaken (d : Dev) (m : List Host.Cell) (ch : Nat) (r : XferRun) (b : Burst) (bytes : List Nat) : Dev :=
  let ws := (List.range 16).map fun i => leAt bytes (4 * i) 4
  let d := d.moved ch 64
  let r := { r with open_ := [] }
  if !bitOf (ws.getD 0 0) 31 then d.xferFail ch r b stNotOwned false
  else
    let r := { r with words := some ws }
    match d.xferCheck ws with
    | some code => d.xferBack ch r code
    | none =>
      let d := if xferOut ws ∧ xferDev ws < 0x400000000 then d.dramReq else d
      (d.setRun ch (some r)).serveLists m

/-- A program that reads or writes DRAM asks the stack. -/
def Dev.xferAsks (d : Dev) (ws : List Nat) : Dev := if xferDev ws < 0x400000000 then d.dramReq else d

/-- The bytes that arrived go to device memory, in order (R114, R119). -/
def storeGot (m : List Host.Cell) (dev : Nat) (got : List (Nat × List Nat)) : List Host.Cell :=
  got.foldl (fun m (k, bs) => memPut m (dev + 8 * k) (bs.map fun b => BitVec.ofNat 8 b)) m

/-- Words that are written with fresh check bits carry no poison mark any more (R119). -/
def Dev.freshChecks (d : Dev) (dev : Nat) (got : List (Nat × List Nat)) : Dev :=
  { d with ecc := { d.ecc with poisoned := d.ecc.poisoned.filter fun p => match p with
    | .device x => !(got.any fun (k, bs) => decide (dev + 8 * k ≤ x) && decide (x < dev + 8 * k + bs.length))
    | _ => true } }

/-- XFER_LIST: PARAM 0x2001 starts a list on channel 13 or 14 (R117). -/
def execXferList (dt : Nat) (ring : Nat) (x : Desc) (s : State) : Host.Outcome State Fault Refusal :=
  s.act dt fun d =>
    d.onTake (d.takeParam ring x (· == 0x2001) allServed true) fun d t =>
      let ch := 13 + x.f 8 0 1
      match valueExtra x [0xFFFFFFFF, 0xFFFFFFFF, 1, 0] with
      | some w => d.complete t stBadParam w
      | none =>
        if atFrame x then d.complete t stBadParam 10
        else if x.w 6 % 64 ≠ 0 then d.complete t stBadAddress 0
        else if (d.chan ch).run.isSome || d.chFailing ch then d.complete t stRefused d.mode.code
        else
          let d := (d.restartChannel ch).setRun ch (some ⟨some t, 0, x.w 6 + 2 ^ 32 * x.w 7, none, 0, [], [], false, false, none⟩)
          (d.xferFetch ch).countTags

/-- A stale read of a stopped channel is answered or times out: its tag is free, and a list that waits for that starts (R125). -/
def Dev.dropStale (d : Dev) (ch : Nat) : Dev :=
  (d.modChan ch fun c => { c with stale := c.stale.drop 1 }).xferFetch ch

/-- A descriptor fetch of a ring has failed: no descriptor was taken, and the channel stops (R121, R122). -/
def Dev.descFail (d : Dev) (ring code : Nat) : Dev :=
  d.stopAfter (d.channelOf ring) ⟨code, d.descAddr ring (d.get (Reg.HOST_RING_CONS_n.CONS ring)), (0, 0, 0), ring, false, false⟩

/-- A ring whose next descriptor can be on its way through channel `ch`. -/
def Dev.fetching (d : Dev) (ch ring : Nat) : Bool :=
  decide (1 ≤ ch) && decide (ch ≤ 12) && decide (ring < 32) && d.ringReady ring && decide (d.channelOf ring = ch)

/-- DMA_READ_COMPLETION: the read that begins at word `k` of channel `ch` is answered. On a channel that serves rings this is a
descriptor fetch of `ring`; the data of a descriptor comes with the row that takes it. -/
def execDmaReadCompletion (dt : Nat) (ch k ring : Nat) (f : Fetch) (s : State) : Host.Outcome State Fault Refusal :=
  s.actMem dt fun d m =>
    let c := d.chan ch
    if !d.mode.served then (d, m)
    else if c.stale ≠ [] then ((d.dropStale ch).countTags, m)
    else match c.run with
      | none =>
        match f with
        | .data _ => (d, m)
        | .struck _ _ => (d, m)
        | .failed code _ => if d.fetching ch ring then (d.descFail ring (if code = stPoisoned then stPoisoned else stReadError), m) else (d, m)
      | some r =>
        match r.open_.find? (fun b => b.k == k), r.words with
        | none, _ => (d, m)
        | some b, none =>
          match fetched f 64 with
          | .ok bytes => ((d.xferTaken m ch r b bytes).countTags, m)
          | .error code => ((d.xferFail ch r b code false).countTags, m)
        | some b, some ws =>
          if xferOut ws || r.storing then (d, m)
          else match fetched f b.bytes with
            | .error code => ((d.xferFail ch r b code false).countTags, m)
            | .ok bytes =>
              let d := (d.moved ch b.bytes).xferAsks ws
              let r := { r with open_ := r.open_.filter (fun x => x.k != k), got := r.got ++ [(k, bytes)] }
              let d := (d.setRun ch (some r)).serveLists m
              let d := d.modChan ch fun c => { c with run := c.run.map fun r => if r.open_ = [] ∧ xferTotal ws ≤ r.next then { r with storing := true } else r }
              (d.countTags, m)

/-- The burst of a host-to-device program that moves word `k`. -/
def Dev.burstOf (d : Dev) (ws : List Nat) (k : Nat) : Burst :=
  let p := xferProg ws
  let b := ((p.bursts d.dma.maxRead p.total 0).find? fun (a, n) => decide (a ≤ k) && decide (k < a + n)).getD (0, 1)
  ⟨p.far b.1, b.1, p.burstBytes b.1 b.2, d.tb, 0⟩

/-- DMA_WRITE_RESPONSE on a list: the memory acknowledges a host-to-device program, or the endpoint accepts a burst of a
device-to-host one; an error stops the channel, and `landed` words of a refused store have landed. -/
def Dev.xferAnswered (d : Dev) (m : List Host.Cell) (ch : Nat) (r : XferRun) (ws : List Nat) (ok : Bool) (landed : Nat) :
    Dev × List Host.Cell :=
  if xferOut ws then
    match r.open_ with
    | [] => (d, m)
    | b :: _ =>
      if !ok then (d.xferFail ch r b stWriteError true, m)
      else
        let r := { r with open_ := [] }
        let d := (d.moved ch b.bytes).setRun ch (some r)
        if xferTotal ws ≤ r.next then (d.xferDone ch r, m) else (d.serveLists m, m)
  else if !r.storing then (d, m)
  else if ok then ((d.freshChecks (xferDev ws) r.got).xferDone ch r, storeGot m (xferDev ws) r.got)
  else
    let part := r.got.filter fun (k, _) => decide (k < landed)
    ((d.freshChecks (xferDev ws) part).xferFail ch r (d.burstOf ws landed) stWriteError true, storeGot m (xferDev ws) part)

/-- A doorbell read that fails is counted and posted; the last good values stay (R83). -/
def Dev.doorbellFail (d : Dev) (code : Nat) : Dev :=
  let d := ({ d with host := { d.host with dbBusy := false } }).bump Reg.HOST_DB_STAT.FAILED
  d.post 0x1002 sevWarn [code, d.get Reg.HOST_DB_STAT.FAILED]

/-! ## Flushes (R437) -/

/-- Crossing `n` is flushed: `side` reset, 0 source, 1 destination. How many words were in it is not observable otherwise. -/
def Dev.flushXing (d : Dev) (n side : Nat) : Dev :=
  let (w, d) := d.draw 8
  (d.bump (Reg.SENSE_XING_n.COUNT n)).post 0x6041 sevInfo [n, side, w]

/-- The requests of one channel in flight end as a completion timeout or a write error. -/
def Dev.flushChannel (d : Dev) (ch : Nat) : Dev :=
  let c := d.chan ch
  if c.stale ≠ [] then (d.modChan ch fun c => { c with stale := [] }).xferFetch ch
  else match c.run with
    | none => d
    | some r =>
      match r.open_ with
      | [] => d
      | b :: _ =>
        let out := r.words.any xferOut
        if r.storing || r.backing.isSome then d
        else (d.xferFail ch r b (if out then stWriteError else stTimeout) out).modChan ch fun c => { c with stale := [] }

/-- Writes of rings in flight end as a write error (R437); those that wait are gone with them. -/
def Dev.flushWrites (d : Dev) : Dev :=
  let ws := d.host.writes
  let d := { d with host := { d.host with writes := [] } }
  ((List.range 12).map (· + 1)).foldl (fun d ch =>
    match ws.find? fun w => w.ch == ch && w.sent with
    | some w => if d.chStopped ch then d else d.stopWith ch ⟨stWriteError, w.addr, (0, 0, 0), w.ring, false, true⟩
    | none => d) d

/-- The PCIE side has been reset: crossings 3 and 4 are flushed, and the requests in flight end (R121, R437). -/
def Dev.flushPcie (d : Dev) : Dev :=
  let d := (if d.host.dbBusy then d.doorbellFail stTimeout else d).flushWrites
  let d := ((List.range 16).foldl Dev.flushChannel d).countTags
  (d.flushXing 3 0).flushXing 4 1

/-- COMPLETION_TIMEOUT: no completion within the timeout that was in force when the read was issued, on channel `ch` (R121, R126). -/
def execCompletionTimeout (dt : Nat) (ch ring : Nat) (s : State) : Host.Outcome State Fault Refusal :=
  s.act dt fun d =>
    let c := d.chan ch
    let late (d : Dev) : Dev := d.modChan ch fun c => { c with expired := c.expired + 1 }
    if !d.mode.served && !(d.mode == .safe && decide (ch = 0)) then d
    else if ch = 0 then
      if d.host.dbBusy && decide (d.host.dbLim ≤ d.since d.host.dbAt) then (late d).doorbellFail stTimeout |>.countTags else d
    else match c.stale, c.run with
      | (a, lim) :: _, _ => if lim ≤ d.since a then ((late d).dropStale ch).countTags else d
      | [], some r =>
        match r.open_ with
        | b :: _ =>
          if (r.words.all fun w => !xferOut w) && decide (b.lim ≤ d.since b.at_) then ((late d).xferFail ch r b stTimeout false).countTags else d
        | [] => d
      | [], none =>
        if d.fetching ch ring && decide (timeoutNs d.host.cplTimeout ≤ d.since (d.ringSt ring).fetchAt) then (late d).descFail ring stTimeout else d

/-- UNEXPECTED_COMPLETION: discarded, counted in LATE, reported through AER (R124). -/
def execUnexpectedCompletion (dt : Nat) (ch : Nat) (s : State) : Host.Outcome State Fault Refusal :=
  s.act dt fun d =>
    if (d.chan ch).expired = 0 then d
    else ((d.modChan ch fun c => { c with expired := c.expired - 1 }).bump (Reg.DMA_CH_CNT_n.LATE ch)).send (.aer ch)

end Sys2Proof.Machine
end

