-- ==== Sys2Proof/Machine/Modes.lean ====
section
/-! DEFINITION. Entry to SAFE (R31, R33, R35, R96, R411, R476, R501), the RING_HOLD outputs (R347), and histograms (R492, R493). -/
namespace Sys2Proof.Machine

/-! ## Histograms -/

/-- An empty histogram (R493). -/
def Hist.empty : Hist := ⟨List.replicate 16 0, 0xFFFFFFFF, 0, 0⟩

/-- Bin one sample of histogram `h` (R492, R493). -/
def Dev.histogram (d : Dev) (h bin sample : Nat) : Dev :=
  let x := (kvGet d.recd.hists h).getD Hist.empty
  let sat (n : Nat) : Nat := min 0xFFFFFFFF (n + 1)
  let x : Hist := ⟨modAt x.bins (min 15 bin) sat, min x.min sample, max x.max sample, sat x.count⟩
  ({ d with recd := { d.recd with hists := kvPut d.recd.hists h x } }).put Reg.REC_STAT.HIST_HELD 1

/-! ## Outputs of the whole device -/

/-- Drive RING_HOLD_EAST and RING_HOLD_WEST, or leave both high-impedance; both have the same level (R347). -/
def Dev.driveHold (d : Dev) (level : Option Bool) : Dev :=
  if d.clk.ringHold = level then d else ({ d with clk := { d.clk with ringHold := level } }).send (.ringHold level)

/-- Every PSO output at its reset level, low (R510). -/
def Dev.psoReset (d : Dev) : Dev := (List.range 16).foldl (fun d n => d.setPso n false) d

/-- Every port in electrical idle; no bring-up runs. Counters stay (R266). -/
def Dev.portsIdle (d : Dev) : Dev :=
  (List.range 20).foldl (fun d p => if d.get (Reg.LANE_PORT_STAT_p.STATE p) = 0 then d else
    let d := ((d.setStage p 9).put (Reg.LANE_PORT_STAT_p.LOCKED p) 0).transmit p .off
    if p < 18 then d else d.ringPortChange p) d

/-- Test settings at exit from SETUP (R262). -/
def Dev.clearTest (d : Dev) (p : Nat) : Dev :=
  let d := ((d.put (Reg.LANE_TEST_p.TEST_EN p) 0).put (Reg.LANE_TEST_p.PATTERN p) 0).put (Reg.LANE_TEST_p.LOOP p) 0
  ((d.put (Reg.LANE_TEST_p.LANES p) 0).put (Reg.LANE_TEST_p.INJ_HDR p) 0).put (Reg.LANE_TEST_p.BURST_LEN p) 16

/-! ## Entry to RUN -/

/-- Session 0 of UART_0 or 1 of the mailbox. -/
def Dev.session (d : Dev) (m : Nat) : Session := if m = 0 then d.svc.uart else d.svc.mbox

def Dev.modSession (d : Dev) (m : Nat) (f : Session → Session) : Dev :=
  if m = 0 then { d with svc := { d.svc with uart := f d.svc.uart } } else { d with svc := { d.svc with mbox := f d.svc.mbox } }

/-- A monitor session is unlocked. -/
def Dev.unlocked (d : Dev) (m : Nat) : Bool := d.on (if m = 0 then Reg.SVC_MON.UNLOCKED_U else Reg.SVC_MON.UNLOCKED_M)

/-- A result of the unlock: MON_UNLOCK, and a MONITOR record with the challenge (R481, R489). Result 0 unlocked, 1 refused, 2 locked out,
3 locked. -/
def Dev.monResult (d : Dev) (m result challenge : Nat) : Dev :=
  (d.post 0xF003 sevInfo [m, result]).recordNow 3 ([m, result, 0, 0] ++ leBytes 4 challenge)

/-- A session locks again. -/
def Dev.lockSession (d : Dev) (m : Nat) : Dev :=
  if !d.unlocked m then d
  else (d.put (if m = 0 then Reg.SVC_MON.UNLOCKED_U else Reg.SVC_MON.UNLOCKED_M) 0).monResult m 3 0

/-- Entry to RUN: every sleeping transmitter of an enabled head or ring port wakes and sends WAKE (R261), the stack leaves self-refresh
(R404), unlocked monitor sessions lock (R481). -/
def Dev.enterRun (d : Dev) : Dev :=
  if d.mode = .run then d
  else
    let d := d.goto .run
    let ports := ((List.range 16) ++ [18, 19]).filter fun p =>
      d.on (Reg.LANE_PORT_CFG_p.EN p) && d.portIsUp p && !d.on (Reg.LANE_PORT_CFG_p.MODE p)
    let d := ports.foldl (fun d p => (d.wakeTx p).sendBlocks p 1 0x99 []) d
    (d.dramReq.lockSession 0).lockSession 1

/-! ## SAFE -/

/-- The SAFE causes of GLB_STATE. -/
def causeSelftest : Nat := 1
def causeImage : Nat := 2
def causeFatal : Nat := 3
def causeThermal : Nat := 4
def causeOneSided : Nat := 5
def causeForce : Nat := 6

/-- Nothing of a head link goes on: neither a frame that waits nor a halt. -/
def Dev.linkOff (d : Dev) (n : Nat) : Dev :=
  { (d.put (Reg.LINK_STAT_n.STATE n) 0) with link := { d.link with links := modAt d.link.links n fun l => { l with
      fit := 0, halted := false, queue := [], cmds := [], sent := [] } } }

/-- Enter SAFE with a cause and, where a fault brought it about, its location and the crossing of a one-sided reset. Printing, the
render pipeline, Linen and the ports stop; RING_HOLD goes low, PSO outputs go to their reset level, a capture ends with no END; no
verdict follows. STATE_CHANGE is posted, FATAL for a fault or a one-sided reset, and vector 0 signals. -/
def Dev.enterSafe (d : Dev) (cause loc crossing : Nat) : Dev :=
  if d.mode = .off ∨ d.mode = .safe then d
  else
    let fault := decide (cause = causeFatal ∨ cause = causeOneSided)
    let d := d.put Reg.GLB_STATE.SAFE_CAUSE cause
    let d := if fault then (d.put Reg.GLB_FATAL_LOC_LO.LOC_LO loc).put Reg.GLB_FATAL_LOC_HI.LOC_HI (loc / 2 ^ 32) else d
    let d := if d.mode = .setup then (List.range 20).foldl Dev.clearTest d else d
    let d := ((d.driveHold (some false)).psoReset.portsIdle).capDrop
    let d := { d with linen := { d.linen with target := none, stop := none, setters := [], hold := none, frame := none, v := 0, a := 0 }
                      recd := { d.recd with replay := none }
                      svc := { d.svc with safeAt := d.tb, safePost := d.tb, configOk := true, checking := false, up := true } }
    let d := (List.range 16).foldl Dev.linkOff d
    let d := (d.goto .safe).raiseVec 0
    if fault then d.postAt 0x0006 sevFatal [crossing, cause] loc else d

/-- A SELFTEST record (R489). -/
def Dev.selftestRecord (d : Dev) : Dev :=
  let loc := d.get2 Reg.SVC_ST_LOC_LO.LOC_LO Reg.SVC_ST_LOC_HI.LOC_HI
  d.recordNow 4 ([d.get Reg.GLB_STATE.SAFE_CAUSE, d.get Reg.SVC_ST.FAILED] ++ leBytes 6 loc ++ d.svc.durations.flatMap (leBytes 4)
    ++ List.replicate 12 0)

/-- A stage of self-test fails at a location: no later stage runs, and the device enters SAFE (R471). -/
def Dev.selftestFail (d : Dev) (stage loc cause : Nat) : Dev :=
  let d := ((d.put Reg.SVC_ST.FAILED stage).put Reg.SVC_ST_LOC_LO.LOC_LO loc).put Reg.SVC_ST_LOC_HI.LOC_HI (loc / 2 ^ 32)
  (d.enterSafe cause 0 0).selftestRecord

/-- A stage of self-test ends, with its duration in us; another begins (R471, R480). -/
def Dev.stageEnds (d : Dev) (stage : Nat) (us : Nat) (next : Nat) : Dev :=
  { (d.put Reg.SVC_ST.STAGE next) with svc := { d.svc with stageAt := d.tb, durations := setAt d.svc.durations (stage - 1) us } }

/-- Microseconds since the present stage began. -/
def Dev.stageUs (d : Dev) : Nat := d.since d.svc.stageAt / 1000

/-- A fatal fault at a location (R31, R378). -/
def Dev.fatal (d : Dev) (loc : Nat) : Dev := d.enterSafe causeFatal loc 0

end Sys2Proof.Machine
end

