-- ==== Sys2Proof/Machine/Registers.lean ====
section
/-! DEFINITION. BAR0 as data (R6, R7, R9, R38, R41 to R43, R476): which fields a word has, and what a write of a word does. -/
namespace Sys2Proof.Machine

/-- The instance of an array that begins at an offset: the number of each index. -/
def dimIndex : List RegDim → Nat → Option Nat
  | [], 0 => some 0
  | [], _ + 1 => none
  | g :: t, o =>
    (List.range g.count).findSome? fun i => if i * g.stride ≤ o then (dimIndex t (o - i * g.stride)).map fun r => i * g.stride + r else none

/-- The register at an offset, if one is there. -/
def regAt (off : Nat) : Option RegDesc :=
  (blockRegs (off / 65536)).find? fun r => decide (r.base ≤ off) && (dimIndex r.dims (off - r.base)).isSome

/-- A field of a register table at an offset. -/
def FldDesc.at_ (f : FldDesc) (off : Nat) : Fld := ⟨off, f.lo, f.w, f.rst⟩

/-- Whether RW and W1C writes to a register take effect in SAFE (R476): the recorder cursor and clear, SENSE_SHUT_ACK, SVC_MBOX_TX. -/
def safeWrites (off : Nat) : Bool := off == 0xE0000 || off == 0xE0004 || off == 0x60074 || off == 0xF0020

/-- Whether an RW write takes effect in READY, RUN and HOLD: the recorder window cursor alone (R38). -/
def runWrites (off : Nat) : Bool := off == 0xE0000

/-- LK fields are open: SETUP, and no set-up check running (R9, R477). -/
def Dev.lkOpen (d : Dev) : Bool := d.mode == .setup && !d.svc.checking

/-- W1C fields are open. HOST_RING_STAT_n.STOPPED has its own row (R100). -/
def Dev.w1cOpen (d : Dev) (off : Nat) : Bool := d.mode.served || (d.mode == .safe && safeWrites off)

/-- RW fields are open. -/
def Dev.rwOpen (d : Dev) (off : Nat) : Bool :=
  d.mode == .setup || (d.mode == .safe && safeWrites off) || (d.mode.printing && runWrites off)

/-- Write one field by its access code. W1S bits act through rows of their own. -/
def Dev.writeFld (d : Dev) (off value : Nat) (f : FldDesc) : Dev :=
  let v := bitsOf value f.lo f.w
  match f.acc with
  | .lk => if d.lkOpen then d.put (f.at_ off) v else d
  | .rw => if d.rwOpen off then d.put (f.at_ off) v else d
  | .w1c => if d.w1cOpen off && decide (v ≠ 0) then d.put (f.at_ off) (d.get (f.at_ off) - Nat.land (d.get (f.at_ off)) v) else d
  | .ro => d
  | .w1s => d

/-- Only GLB decodes in SELFTEST; nothing does in reset (R43, R468). -/
def Dev.decodes (d : Dev) (off : Nat) : Bool := d.mode.served || d.mode == .safe || (d.mode == .selftest && decide (off < 65536))

/-- A write of one BAR0 word: every field by its access code; LOCKED_WRITE if it names a register with LK fields while they are locked
(R9). An offset that no register occupies ignores it (R43). -/
def Dev.writeReg (d : Dev) (off value : Nat) : Dev :=
  if !d.decodes off then d
  else match regAt off with
    | none => d
    | some r =>
      let lk := r.fields.any fun f => f.acc == .lk
      let d' := r.fields.foldl (fun d f => d.writeFld off value f) d
      if lk && !d.lkOpen then d'.post 0x0004 sevWarn [off, value, d.mode.code] else d'

/-- Put a register's LK fields to a value, as a PARAM or a load does, whatever the state. -/
def Dev.forceReg (d : Dev) (off value : Nat) : Dev :=
  match regAt off with
  | none => d
  | some r => r.fields.foldl (fun d f => if f.acc == .lk then d.put (f.at_ off) (bitsOf value f.lo f.w) else d) d

/-- The bits of a word that its LK fields occupy. -/
def lkMask (off : Nat) : Nat :=
  match regAt off with
  | none => 0
  | some r => r.fields.foldl (fun m f => if f.acc == .lk then m + (2 ^ f.w - 1) * 2 ^ f.lo else m) 0

end Sys2Proof.Machine
end

