-- ==== Sys2Proof/Machine/Links.lean ====
section
/-! DEFINITION. Head links (R268 to R300): fire times, line frames, head commands, answers, outcomes, the line check (R414, R415),
head status, temperature. -/
namespace Sys2Proof.Machine

/-! ## Links and rows -/

/-- The slots of a row (R268). -/
def Dev.slotsOf (d : Dev) (n r : Nat) : Nat :=
  let o := 0x90004 + 64 * n + 4 * (r / 2)
  d.get ⟨o, 16 * (r % 2), 14, 0⟩ + 1

/-- Payload words of a row at a number of bits per nozzle (R274). -/
def Dev.rowWords (d : Dev) (n r bits : Nat) : Nat := cdiv (d.slotsOf n r * bits) 64

/-- Bits per nozzle of a depth code (R91). -/
def depthBits (code : Nat) : Nat := 2 ^ code

/-- A link that carries line frames: its port UP, not UNFIT, not halted. -/
def Dev.linkFit (d : Dev) (n : Nat) : Bool := d.portSends n && decide ((d.lk n).fit = 2) && !(d.lk n).halted

/-- Note a change between carrying line frames and not (R283, cause 3). -/
def Dev.fitNote (d : Dev) (n : Nat) : Dev :=
  if ((d.lk n).fits.head?.any (·.2)) = d.linkFit n then d
  else d.modLk n fun l => { l with fits := (d.tb, d.linkFit n) :: l.fits.take 63 }

/-- The link carried line frames at an instant, in 2^-16 ns. -/
def Dev.fitThen (d : Dev) (n t : Nat) : Bool := ((d.lk n).fits.find? fun x => decide (x.1 * 65536 ≤ t)).any (·.2)

/-- LINK_STAT_n.STATE: HALTED, off, UNFIT, or READY, FIRING or PAUSED as `k` says (DEDUCED, log entry 160). -/
def Dev.linkShow (d : Dev) (n k : Nat) : Dev :=
  (d.put (Reg.LINK_STAT_n.STATE n)
    (if (d.lk n).halted then 5 else if !d.portIsUp n || decide ((d.lk n).fit = 0) then 0 else if (d.lk n).fit = 1 then 1 else k)).fitNote n

/-- Line frames and line commands leave only an ACTIVE unit, outside replay (R296, R360, R502). -/
def Dev.sendsLines (d : Dev) : Bool := d.active && !d.on Reg.REC_RPL_CFG.EN && decide (d.mode = .run ∨ d.mode = .hold)

/-! ## Fire times -/

/-- The predicted fire instant, TB in 2^-16 ns (R64). -/
def Dev.fireAt (d : Dev) (n r : Nat) (j : Job) (line : Nat) : Option Nat := d.reach (d.firePos n r j line)

/-- Read time of an instant of TB in 2^-16 ns, in 1/32 ns, ties up: the rate's part is whole ns (R17, R281). -/
def Dev.readTime32 (d : Dev) (t : Int) : Nat :=
  let (ofs, rate, anchor) := d.timeAt (t / (65536 : Nat))
  let x := t + (ofs + rate * (t - (anchor : Int) * 65536) / (2 ^ 56 : Nat)) * 65536
  fieldOf 69 ((x + 1024) / 2048)

/-- The fire time of a line frame: read time of t_f less DLY, in 1/32 ns (R281). -/
def Dev.fireTime (d : Dev) (n tf : Nat) : Nat := d.readTime32 ((tf : Int) - (d.get (Reg.LINK_CFG_n.DLY n) : Int) * 2048)

/-- PHASE_INT for a fire instant (R285). -/
def Dev.phaseInt (d : Dev) (n tf : Nat) : Nat :=
  match d.pos.est with
  | none => 65535
  | some e =>
    let vf := e.v + e.a * ((tf : Int) - (e.base.t * 65536 : Nat)) / (2 ^ 56 : Nat)
    if vf ≤ 0 then 65535
    else
      let np := d.get (Reg.LINK_CFG_n.PHASES n) + 1
      min 65535 ((512 * 2 ^ 160 + np * vf.toNat) / (2 * np * vf.toNat))

/-! ## The lanes of a link -/

/-- When a frame could start: now, once the lanes are free and a sleeping transmitter has trained; 2^-16 ns. -/
def Dev.startAt (d : Dev) (n : Nat) : Nat :=
  max (d.tb * 65536) (max (d.lk n).busy (if d.on (Reg.LANE_PORT_STAT_p.TX_IDLE n) then (d.tb + 2000) * 65536 else (d.port n).trainTo * 65536))

/-- The CRC of a frame on a head link (R276). -/
def linkCrc (pre : List Nat) (words : List Nat) : Nat := crc32c (pre ++ (words.map (leBytes 8)).flatten)

/-- The prefix of a line frame, with `row` as its second byte. -/
def linePrefix (n row line tag : Nat) : List Nat := [n, row] ++ leBytes 5 line ++ [tag]

/-- The source check of a row (R414). -/
def sourceCheck (n row line tag : Nat) (payload : List Nat) : Nat := linkCrc (linePrefix n (0x50 + row) line tag) payload

/-- A frame leaves on a link at `start`: the lanes are busy until its last block has left. -/
def Dev.sendHead (d : Dev) (n kind start : Nat) (words : List Nat) : Dev :=
  let d := d.modPort n fun x => { x with lastTx := d.tb }
  (d.modLk n fun l => { l with busy := start + d.frameTime n words.length }).send
    (if d.compat n then .groups n (compatFrame kind words) else .lanes n (stripe 2 kind words))

/-! ## What waits for the lanes (R282) -/

/-- Head commands go first, then resends, then line frames by t_f and row. -/
def Waiting.before : Waiting → Waiting → Bool
  | .cmd _, .cmd _ => false
  | .cmd _, _ => true
  | .line true _ _ _ _ _, .line false _ _ _ _ _ => true
  | .line false r _ _ t _, .line false r' _ _ t' _ => decide (t < t') || (t == t' && decide (r < r'))
  | _, _ => false

/-- A frame takes its place in the queue. -/
def placed (w : Waiting) : List Waiting → List Waiting
  | [] => [w]
  | x :: t => if w.before x then w :: x :: t else x :: placed w t

/-- A command of the link that has no acknowledgement yet. -/
def Dev.cmd? (d : Dev) (n seq : Nat) : Option HeadCmd := (d.lk n).cmds.find? (·.seq == seq)

/-- A command leaves: T_REF of a TIME is the read time of the DCK edge at its SOF (R279). One that has been acknowledged is not sent. -/
def Dev.cmdLeaves (d : Dev) (n seq start : Nat) : Dev :=
  match d.cmd? n seq with
  | none => d
  | some c =>
    let edge := c.phase % max 1 ((d.lk n).period / 65536)
    let ws := if c.words.headD 0 % 256 = 2 then setAt c.words 1 (d.readTime32 ((start : Int) - (edge : Int)) % 2 ^ 64) else c.words
    let ws := ws ++ [linkCrc ([n, 0x20] ++ leBytes 5 seq ++ [0]) ws]
    let d := d.sendHead n 5 start ws
    d.modLk n fun l => { l with
      sent := l.sent ++ [.cmd seq], cmds := l.cmds.map fun x => if x.seq == seq then { x with sentAt := l.busy / 65536 } else x }

/-! ## Outcomes (R298, R299) -/

def oVerified : Nat := 1
def oMismatch : Nat := 2
def oUnverified : Nat := 3
def oNakFinal : Nat := 4
def oPoisoned : Nat := 5
def oLate : Nat := 6
def oHalted : Nat := 7

/-- The verdict and the cause of an outcome; VERIFIED has none. -/
def outcomeEffect (o : Nat) : Option (Nat × Nat) :=
  match o with
  | 2 => some (vSuspect, cMismatch)
  | 3 => some (vSuspect, cUnverified)
  | 4 => some (vReject, cNakFinal)
  | 5 => some (vReject, cPoisoned)
  | 6 => some (vReject, cLate)
  | 7 => some (vReject, cHalted)
  | _ => none

/-- The outcome byte of R497. -/
def RowEntry.byte (e : RowEntry) : Nat := e.outcome.getD 0 + 16 * e.check + 64 * min 3 e.resends

/-- The summary of a link for one line (R367). -/
def lineSummary (n line tag : Nat) (rows : List RowEntry) : Nat :=
  linkCrc (linePrefix n 0x30 line tag) (rows.map (·.payload)).flatten

/-- LINE records leave in line order once every link has released the line (R495). -/
def Dev.releaseRecords : Nat → Dev → Dev
  | 0, d => d
  | fuel + 1, d =>
    match d.link.released with
    | [] => d
    | r :: t =>
      let mask := d.linksOn
      if mask.all fun n => r.links.any fun x => x.1 == n then
        let d := { d with link := { d.link with released := t } }
        let short := d.recd.noLineCrc
        let per := (r.links.map fun (_, c, o) => (if short then [] else leBytes 4 c) ++ o).flatten
        let head := leBytes 5 r.line ++ [r.tag] ++ leBytes 2 (mask.foldl (fun m n => m + 2 ^ n) 0)
        Dev.releaseRecords fuel (d.capture 8 (head ++ (if short then [] else leBytes 4 r.dmkCrc ++ leBytes 4 r.twlCrc) ++ per))
      else d

/-- Put one link's part of a released line in ascending link order. -/
def insertLink : List (Nat × Nat × List Nat) → Nat × Nat × List Nat → List (Nat × Nat × List Nat)
  | [], x => [x]
  | y :: t, x => if x.1 < y.1 then x :: y :: t else y :: insertLink t x

/-- Entries whose every row has settled leave the FIFO (R272). -/
def Dev.release (d : Dev) (n : Nat) : Dev :=
  let full (e : FifoLine) : Bool := e.rows.all fun r => r.outcome.isSome
  let gone := (d.lk n).fifo.filter full
  if gone = [] then d
  else
    let d := d.modLk n fun l => { l with fifo := l.fifo.filter fun e => !full e }
    let rel := d.link.released.map fun r =>
      match gone.find? fun e => e.tag == r.tag && e.line == r.line with
      | some e => { r with links := insertLink r.links (n, lineSummary n e.line e.tag e.rows, (padTo 4 (e.rows.map RowEntry.byte))) }
      | none => r
    Dev.releaseRecords 65536 { d with link := { d.link with released := rel } }

/-- Entries that have settled leave, and with the last line of a job whose verdicts are posted the job ends (R101). -/
def Dev.settled (d : Dev) (n : Nat) : Dev := (d.release n).retireJobs

/-- A line of a row is settled: its frame counts it (R410). -/
def Dev.countSettled (d : Dev) (tag line : Nat) : Dev :=
  match d.job? tag with
  | some j => if line % j.repeat_ < j.frameLines then d.modFrame tag (line / j.repeat_) fun f => { f with settled := f.settled + 1 } else d
  | none => d

/-- Line 0 of a frame is sent, or will not be: a cascade master awaits a VERDICT of every follower that is present (R410). -/
def Dev.awaitFollowers (d : Dev) (j : Job) (line : Nat) : Dev :=
  if d.follower || !d.on Reg.RING_CFG.EN || decide (line % j.repeat_ ≠ 0) then d
  else
    let present := ([1, 2, 3, 4, 5, 6, 7].filter fun m => decide (bitsOf (d.get Reg.RING_ROSTER.PRESENT) (2 * m) 2 ≠ 0)).foldl
      (fun a m => a + 2 ^ m) 0
    d.modFrame j.tag (line / j.repeat_) fun f => { f with awaits := Nat.lor f.awaits present }

/-- The finding of an outcome against the frame of a line. -/
def Dev.outcomeFinding (d : Dev) (n tag line o : Nat) : Dev :=
  match d.job? tag, outcomeEffect o with
  | some j, some (v, c) => d.lineFinding j line v c (some n)
  | _, _ => d

/-- Those of a list of frames whose job is still open. -/
def Dev.openFrames (d : Dev) (l : List (Nat × Nat)) : List (Nat × Nat) := l.filter fun x => (d.job? x.1).isSome

/-- Settle a line of a row with an outcome: its finding, its event and count, and the release of its entry. -/
def Dev.settleLine (d : Dev) (n r tag line o : Nat) : Dev :=
  let e := d.rowEntry? n r tag line
  let late := decide (o = oVerified) && d.on (Reg.LINK_STAT_n.SILENT n) && (d.job? tag).any fun j => d.hasFired n r j line
  let o := if late then oUnverified else o
  let poisoned := e.any fun e => e.poison && !e.crcs.isEmpty
  let d := d.modEntry n r tag line fun e => { e with outcome := some (if poisoned then oPoisoned else o) }
  let d := (d.outcomeFinding n tag line o).countSettled tag line
  let rep := (d.job? tag).map fun j => line / j.repeat_
  let d := if o = oMismatch ∨ o = oUnverified ∨ o = oNakFinal then
      let d := d.bump (Reg.LINK_CNT2_n.UNVERIFIED n)
      let frame := (tag, rep.getD 0)
      if ((d.lk n).row r).unvIn.contains frame then d
      else (d.modRow n r fun x => { x with unvIn := d.openFrames x.unvIn ++ [frame] }).post 0x9002 sevWarn
        [n, r, tag, line % 2 ^ 32, o, (e.map (·.resends)).getD 0]
    else d
  d.settled n

/-- A line becomes LATE (R283): LINE_LATE for the first of its row and frame. -/
def Dev.lateLine (d : Dev) (n r tag line fire cause : Nat) : Dev :=
  let d := d.bump (Reg.LINK_CNT2_n.LATE n)
  let frame := ((d.job? tag).map fun j => line / j.repeat_).getD 0
  let d := if ((d.lk n).row r).lateIn.contains (tag, frame) then d
    else (d.modRow n r fun x => { x with lateIn := d.openFrames x.lateIn ++ [(tag, frame)] }).post 0x9001 sevWarn [n, r, tag, line % 2 ^ 32, fire % 2 ^ 32, cause]
  d.settleLine n r tag line oLate

/-- The row timer moves to the line after one that is settled without, or by, a frame. -/
def Dev.rowAdvance (d : Dev) (n r : Nat) (j : Job) (line : Nat) : Dev := d.modRow n r fun x => { x with next := some (j.tag, line + 1) }

/-! ## Sending a line frame (R274 to R276, R282, R283, R414, R415) -/

/-- The last TB instant for a last block: t_f less 6 us, 2^-16 ns. -/
def sendBy (tf : Nat) : Nat := tf - 6000 * 65536

/-- Words 0 and 1 of the first copy of a line frame, and its t_f (R274). -/
def Dev.lineHeader (d : Dev) (n r : Nat) (j : Job) (line tf : Nat) (poison : Bool) : Nat × Nat × Nat :=
  let k := line % j.repeat_
  let flags := 2 * b2n poison + 4 * b2n (decide (k = 0)) + 8 * b2n (decide (j.frameLines ≤ k))
  let fire := d.fireTime n tf
  (line % 2 ^ 40 + r * 2 ^ 40 + d.get Reg.RING_STAT.EPOCH * 2 ^ 42 + j.tag * 2 ^ 48 + flags * 2 ^ 56,
   fire / 32 % 2 ^ 32 + fire % 32 * 2 ^ 32 + d.get (Reg.LINK_CFG_n.PHASES n) * 2 ^ 40 + d.phaseInt n tf * 2 ^ 48, tf)

/-- One copy of a line leaves at `start`: the first, or a resend with the same header and FLAGS.RESEND. -/
def Dev.sendCopy (d : Dev) (n r : Nat) (j : Job) (line : Nat) (payload : List Nat) (tf start : Nat) : Dev :=
  match d.rowEntry? n r j.tag line with
  | none => d
  | some e =>
    let first := e.crcs.isEmpty
    let (w0, w1, tf) := e.header.getD (d.lineHeader n r j line tf e.poison)
    let words := (if first then w0 else w0 + 2 ^ 56) :: w1 :: payload
    let crc := linkCrc (linePrefix n r line j.tag) words
    let words := words ++ [crc]
    let last := start + d.frameTime n words.length
    let lead := (tf - last) / 655360
    let d := (d.sendHead n 1 start words).modEntry n r j.tag line fun e => { e with
      payload := payload, header := some (w0, w1, tf), crcs := e.crcs ++ [crc], resends := (if first then 0 else e.resends + 1)
      lastBlock := last / 65536 }
    let d := d.modLk n fun l => { l with sent := l.sent ++ [.line r j.tag line] }
    let d := if lead < d.get (Reg.LINK_LEAD_MIN_n.LEAD_MIN n) then d.put (Reg.LINK_LEAD_MIN_n.LEAD_MIN n) lead else d
    let d := d.histogram (5456 + n) (min 15 (lead / (100 * max 1 (d.get Reg.REC_CFG.LEAD_W)))) lead
    let d := if e.poison then d.lineFinding j line vReject cPoisoned (some n) else d
    if !first then d.bump (Reg.LINK_CNT_n.RESENDS n)
    else
      let next := tf + (d.get (Reg.LINK_CFG_n.PHASES n) + 1) * bitsOf w1 48 16 * 65536
      let d := d.modRow n r fun x => { x with last := some (j.tag, line, next), paused := false }
      let d := (d.linkShow n 3).awaitFollowers j line
      if line % j.repeat_ < j.frameLines then
        d.modFrame j.tag (line / j.repeat_) fun f => { f with
          tfFirst := some (match f.tfFirst with | some a => min a (tf / 65536) | none => tf / 65536), tfLast := max f.tfLast (tf / 65536) }
      else d

/-- A LINE_CHECK of a class (0 REPAIRED, 1 CHECK_CORRUPT, 2 CHECK_FAIL): event, count, recorder, finding (R415, R489). -/
def Dev.lineCheck (d : Dev) (n r : Nat) (j : Job) (line cls sc c1 sc2 c2 : Nat) : Dev :=
  let d := d.post 0xD005 sevWarn [n, r, j.tag, line % 2 ^ 32, cls, sc]
  let d := d.recordNow 2 ([cls, n, r, j.tag] ++ leBytes 5 line ++ [0, 0, 0] ++ leBytes 4 sc ++ leBytes 4 c1 ++ leBytes 4 sc2 ++ leBytes 4 c2
    ++ [0, 0, 0, 0])
  let d := d.modEntry n r j.tag line fun e => { e with check := cls + 1 }
  match cls with
  | 0 => d.bump Reg.CHK_LINECHK.REPAIRED
  | 1 => (d.bump Reg.CHK_LINECHK.CORRUPT).lineFinding j line vSuspect cCheckCorrupt (some n)
  | _ => (d.bump Reg.CHK_LINECHK2.FAIL).lineFinding j line vReject cCheckFail (some n)

/-- The time of a line frame of a row. -/
def Dev.lineTime (d : Dev) (n r : Nat) (j : Job) : Nat := d.frameTime n (d.rowWords n r (depthBits j.depth) + 3)

/-- Why a line is LATE: the lowest-numbered cause that holds at the latest start on idle lanes; `here` says that the line was finished by
then (R283). Where none of 1 to 3 holds it is 4 (DESIGN CHOICE, log entry 161). -/
def Dev.lateCause (d : Dev) (n : Nat) (here : Bool) (latest : Nat) : Nat :=
  if !here then 1 else if latest < d.pos.validAt * 65536 then 2 else if !d.fitThen n latest then 3 else 4

/-- The line was finished by an instant, in 2^-16 ns. -/
def Dev.lineHere (d : Dev) (n : Nat) (j : Job) (line t : Nat) : Bool := (d.entry? n j.tag line).any fun e => decide (e.doneAt * 65536 ≤ t)

/-- A line that no frame carries: LATE, or HALTED on a halted link and before the first line that a RESUME allows (R272, R294). After a
takeover one that was due before the last heartbeat of the old active keeps its copy, UNVERIFIED (R365). -/
def Dev.missed (d : Dev) (n r : Nat) (j : Job) (line : Nat) (halted : Bool) (tf : Option Nat) (cause : Nat) : Dev :=
  let kept := match d.net.tookOver, tf with
    | some h, some t => decide (t < h * 65536 + d.get Reg.LINK_LEAD.TARGET * 65536000)
    | _, _ => false
  let d := d.awaitFollowers j line
  let d := if (d.entry? n j.tag line).isNone then
      d.modLk n fun l => { l with lateAhead := l.lateAhead ++ [(r, j.tag, line, if halted then oHalted else if kept then oUnverified else oLate)] }
    else d
  if halted then d.settleLine n r j.tag line oHalted
  else if kept then d.settleLine n r j.tag line oUnverified
  else
    let (fire, d) := match tf with
      | some t => (d.fireTime n t / 32, d)
      | none => d.draw 32
    d.lateLine n r j.tag line fire cause

/-- The row timer goes on past a line that will not be sent. -/
def Dev.notSent (d : Dev) (n r : Nat) (j : Job) (line : Nat) (halted : Bool) (tf : Option Nat) (cause : Nat) : Dev :=
  (d.rowAdvance n r j line).missed n r j line halted tf cause

/-- Lines before the first line that a RESUME allows stay HALTED. -/
def Dev.beforeResume (d : Dev) (n : Nat) (j : Job) (line : Nat) : Bool :=
  match (d.lk n).resumeAt with
  | some (t, l) => t == j.tag && decide (line < l)
  | none => false

/-- On a unit that is not ACTIVE a line whose fire position has passed is the active's: its entry is done with, without a finding (R361),
and a summary still unmatched is dropped (R367). -/
def Dev.leftToActive (d : Dev) (n r : Nat) (j : Job) (line : Nat) : Dev :=
  let d := if (d.entry? n j.tag line).isNone then d.modLk n fun l => { l with lateAhead := l.lateAhead ++ [(r, j.tag, line, 0)] }
    else d.modEntry n r j.tag line fun e => { e with outcome := some 0 }
  let d := d.dropSummary j.tag line
  let d := if line % j.repeat_ < j.frameLines then
      d.modFrame j.tag (line / j.repeat_) fun f => { f with tfFirst := some (f.tfFirst.getD d.tb), tfLast := max f.tfLast d.tb }
    else d
  (d.countSettled j.tag line).settled n

def Dev.standbyPass (d : Dev) (n r : Nat) (j : Job) (line : Nat) : Dev := (d.rowAdvance n r j line).leftToActive n r j line

/-! ## The lanes drain (R282, R283) -/

/-- Copies of a line without an answer, and whether a copy of it waits. -/
def Dev.unansweredCopies (d : Dev) (n r tag line : Nat) : Nat := ((d.lk n).sent.filter (· == .line r tag line)).length

def Dev.copyWaits (d : Dev) (n r tag line : Nat) : Bool :=
  (d.lk n).queue.any fun w => match w with
    | .line _ r' t' l' _ _ => r' == r && t' == tag && l' == line
    | .cmd _ => false

/-- A NAKed line with no copy to come and none without an answer is NAK_FINAL (R298). -/
def Dev.nakCheck (d : Dev) (n r : Nat) (j : Job) (line : Nat) : Dev :=
  match d.rowEntry? n r j.tag line with
  | some e =>
    if e.outcome.isNone && e.answer == 1 && d.unansweredCopies n r j.tag line == 0 && !d.copyWaits n r j.tag line && e.refetch.isNone then
      d.settleLine n r j.tag line oNakFinal
    else d
  | none => d

/-- A copy whose last block could not leave in time is not sent: a first copy leaves its line LATE, a resend is given up. -/
def Dev.tooLate (d : Dev) (n r : Nat) (j : Job) (line tf : Nat) (again : Bool) : Dev :=
  if again then d.nakCheck n r j line
  else
    let latest := sendBy tf - d.lineTime n r j
    d.missed n r j line false (some tf) (d.lateCause n (d.lineHere n j line latest) latest)

/-- The frame at the front of a link's queue, where it could have started by now: it leaves, or its deadline has passed. `none`: it waits. -/
def Dev.frontFrame (d : Dev) (n : Nat) : Option Dev :=
  match (d.lk n).queue with
  | [] => none
  | w :: t =>
    let start := (d.lk n).busy
    let pop := d.modLk n fun l => { l with queue := t }
    if d.tb * 65536 < start then none
    else match w with
      | .cmd seq => if d.portSends n then some (pop.cmdLeaves n seq start) else none
      | .line again r tag line tf payload =>
        match d.job? tag, d.rowEntry? n r tag line with
        | some j, some e =>
          if e.outcome.isSome then some pop
          else if !d.sendsLines then some (pop.leftToActive n r j line)
          else
            let start := if d.linkFit n then start else d.tb * 65536
            if sendBy tf < start + d.lineTime n r j then some (pop.tooLate n r j line tf again)
            else if d.linkFit n then some (pop.sendCopy n r j line payload tf start)
            else none
        | _, _ => some pop

def Dev.linkDrainN : Nat → Dev → Nat → Dev
  | 0, d, _ => d
  | k + 1, d, n => match d.frontFrame n with
    | none => d
    | some d => Dev.linkDrainN k d n

/-- What could leave on a link before now has left, frame behind frame; while no frame can leave the lanes are not free. -/
def Dev.linkDrain (d : Dev) (n : Nat) : Dev :=
  let d := d.linkDrainN (d.lk n).queue.length n
  if d.portSends n then d else d.modLk n fun l => { l with busy := max l.busy (d.tb * 65536) }

/-- A frame is ready to leave: at once on free lanes, else in the order of R282. It wakes a sleeping transmitter. -/
def Dev.frameReady (d : Dev) (n : Nat) (w : Waiting) : Dev :=
  let d := (d.linkDrain n).wakeTx n
  (d.modLk n fun l => { l with busy := d.startAt n, queue := placed w l.queue }).linkDrain n

/-! ## Head commands (R277, R278) -/

/-- Send a head command; it waits for its acknowledgement. -/
def Dev.sendCmd (d : Dev) (n cmd mask phase : Nat) (args : List Nat) : Dev :=
  if !d.portSends n then d
  else
    let seq := (d.lk n).cmdSeq
    let words := (cmd + seq * 2 ^ 8 + d.get Reg.RING_STAT.EPOCH * 2 ^ 16 + mask * 2 ^ 20) :: args
    (d.modLk n fun l => { l with cmdSeq := (seq + 1) % 256, cmds := l.cmds ++ [⟨seq, words, phase, 0, d.tb⟩] }).frameReady n (.cmd seq)

/-- TIME: the DCK period as measured, and by how much its edge comes before the SOF (R279). -/
def Dev.sendTime (d : Dev) (n phase period : Nat) : Dev :=
  (d.modLk n fun l => { l with timeAt := d.tb, period := period % 2 ^ 40 }).sendCmd n 2 0 phase [0, period % 2 ^ 40]

/-- TIME outside its own row: where its edge lies in the DCK period is open, the period is the last one measured. -/
def Dev.sendTimeNow (d : Dev) (n : Nat) : Dev :=
  let (phase, d) := d.draw 40
  d.sendTime n phase (d.lk n).period

/-- A change of the read offset or rate sends TIME on every link that is UP (R279). -/
def Dev.timeChanged (d : Dev) : Dev := (d.linksOn.filter d.portSends).foldl Dev.sendTimeNow d

/-- The job whose line leaves the link next: of the lines that wait and of the rows' next lines the job that lies first on the web. -/
def Dev.nextJob (d : Dev) (n : Nat) : Option Job :=
  let waiting := (d.lk n).queue.filterMap fun w => match w with
    | .line _ _ tag _ _ _ => d.job? tag
    | .cmd _ => none
  let rows := (List.range (d.rowsOf n)).filterMap fun r => (d.rowNext n r).map (·.1)
  (waiting ++ rows).foldl (fun b j => match b with
    | none => some j
    | some k => if pwDiff j.base k.base < 0 then some j else some k) none

/-- The depth code that CONFIG carries: of the next line frame of the link; with no line to come, of the job that goes live first, else of
the last job live (R278). -/
def Dev.wantDepth (d : Dev) (n : Nat) : Nat :=
  match d.nextJob n, d.live? with
  | some k, _ => k.depth
  | none, some j => j.depth
  | none, none =>
    match (d.jobs.filter fun j => j.phase == .staged).foldl
        (fun b j => match b with | none => some j | some k => if j.stageOrder < k.stageOrder then some j else some k) (none : Option Job) with
    | some j => j.depth
    | none => (d.lk n).lastDepth

/-- CONFIG: HOLD_MAX and the depth code. -/
def Dev.sendConfig (d : Dev) (n : Nat) : Dev :=
  let k := d.wantDepth n
  (d.modLk n fun l => { l with depthSent := some k }).sendCmd n 1 0 0 [d.get Reg.LINK_HOLD.HOLD_MAX + k * 16]

/-- CONFIG again where the depth of the next line frame has changed. -/
def Dev.configCheck (d : Dev) (n : Nat) : Dev :=
  if d.portSends n && decide ((d.lk n).depthSent ≠ some (d.wantDepth n)) then d.sendConfig n else d

def Dev.configAll (d : Dev) : Dev := d.linksOn.foldl Dev.configCheck d

/-- A change of HOLD_MAX sends CONFIG on every link that is UP (R278). -/
def Dev.holdChanged (d : Dev) : Dev := (d.linksOn.filter d.portSends).foldl Dev.sendConfig d

/-! ## A link comes UP or goes DOWN (R269, R278, R295) -/

/-- Why a link is UNFIT at LANE_UP (R269). -/
def Dev.unfitReason (d : Dev) (n : Nat) : Option Nat :=
  let cap := d.get (Reg.LANE_FAR_CAP_LO_p.CAP_LO n) + 2 ^ 32 * d.get (Reg.LANE_FAR_CAP_HI_p.CAP_HI n)
  let depth := d.live?.map (·.depth)
  if d.on (Reg.LANE_PORT_CFG_p.MODE n) then (if depth = some 2 then some 4 else none)
  else if bitsOf cap 16 2 + 1 < d.rowsOf n then some 1
  else if (List.range (d.rowsOf n)).any fun r => decide (bitsOf cap 24 14 + 1 < d.slotsOf n r) then some 2
  else if bitOf cap 14 ≠ d.on (Reg.LINK_CFG_n.DUAL n) then some 3
  else if d.on (Reg.LINK_CFG_n.DUAL n) ∧ bitOf cap 15 ≠ d.on (Reg.LINK_CFG_n.SIDE n) then some 3
  else match depth with
    | some k => if bitOf cap (20 + k) then none else some 4
    | none => none

/-- A link becomes UNFIT; LINK_UNFIT is posted. -/
def Dev.linkUnfit (d : Dev) (n reason : Nat) : Dev :=
  ((d.modLk n fun l => { l with fit := 1 }).linkShow n 1).post 0x9008 sevWarn [n, reason, d.get (Reg.LANE_FAR_CAP_LO_p.CAP_LO n)]

/-- A head port has come UP: the link leaves UNFIT only here (R269). -/
def Dev.linkUp (d : Dev) (n : Nat) : Dev :=
  if !d.on (Reg.LINK_CFG_n.EN n) then d
  else
    let d := d.linkDrain n
    let d := d.modLk n fun l => { l with
      cmds := [], sent := [], queue := l.queue.filter (fun w => match w with | .cmd _ => false | _ => true), busy := d.tb * 65536
      statusAt := d.tb, depthSent := none }
    let d := match d.unfitReason n with
      | some r => d.linkUnfit n r
      | none => (d.modLk n fun l => { l with fit := 2 }).linkShow n 2
    (d.sendConfig n).sendTimeNow n

/-- A head port is no longer UP; the policy may stop the web in RUN (R295). -/
def Dev.linkDown (d : Dev) (n : Nat) (down : Bool) : Dev :=
  if !d.on (Reg.LINK_CFG_n.EN n) then d
  else
    let d := (d.linkShow n 0).linkDrain n
    if down && decide (d.mode = .run) && decide (d.link.policy.getD (4 * n + 1) 0 = 1) then d.stopWeb else d

/-! ## Rows -/

/-- A copy is read for sending: `read` is the payload and check as read where a fault has changed them. A failing check holds the copy for
a refetch; else it waits for the lanes. -/
def Dev.checkAndSend (d : Dev) (n r : Nat) (j : Job) (line tf : Nat) (read : Option RowRead) : Dev :=
  match d.rowEntry? n r j.tag line with
  | none => d
  | some e =>
    let p1 := (read.map (·.payload)).getD e.payload
    let sc := (read.map (·.check)).getD e.sc
    if sourceCheck n r line j.tag p1 = sc then d.frameReady n (.line (!e.crcs.isEmpty) r j.tag line tf p1)
    else d.modEntry n r j.tag line fun e => { e with refetch := some (p1, sc), header := some (e.header.getD (d.lineHeader n r j line tf e.poison)) }

/-- LINE_FRAME_DUE: the next line of a row at t_f less TARGET_LEAD: it waits for the lanes, or is LATE once it can no longer meet its
deadline, or is settled as its fire position passes. A line of another depth waits for its CONFIG (R278). -/
def execLineFrameDue (dt : Nat) (n r : Nat) (read : Option RowRead) (s : State) : Host.Outcome State Fault Refusal :=
  s.act dt fun d =>
    let d := d.linkDrain n
    if d.duplexed && !d.active && decide (d.mode = .run ∨ d.mode = .hold) && decide (r < d.rowsOf n) then
      match d.rowNext n r with
      | some (j, line) => if d.passed (d.firePos n r j line) then d.standbyPass n r j line else d
      | none => d
    else if !d.sendsLines || d.rowsOf n ≤ r then d
    else match d.rowNext n r with
      | none => d
      | some (j, line) =>
        let tf := d.fireAt n r j line
        let ft := d.lineTime n r j
        let ready := ((d.lk n).fifo.take 64).any fun e => e.tag == j.tag && e.line == line
        let halted := (d.lk n).halted || d.beforeResume n j line
        let pass := d.passed (d.firePos n r j line)
        match tf with
        | none => if pass then d.notSent n r j line halted none (if d.lineHere n j line (sendBy (d.tb * 65536) - ft) then 2 else 1) else d
        | some t =>
          let latest := sendBy t - ft
          let cause := d.lateCause n (d.lineHere n j line latest) latest
          if halted || !d.linkFit n then (if pass then d.notSent n r j line halted tf cause else d)
          else if d.tb * 65536 + d.get Reg.LINK_LEAD.TARGET * 65536000 < t then d
          else
            let d := d.configCheck n
            if ready && decide (latest ≥ d.tb * 65536) && decide ((d.lk n).depthSent = some j.depth) then
              (d.checkAndSend n r j line t read).rowAdvance n r j line
            else if latest < d.tb * 65536 then d.notSent n r j line false tf cause
            else d

/-- LINE_REFETCH_DONE: the row as fetched again from the line store, with its stored check; `read` where a fault has changed them (R415). -/
def execLineRefetchDone (dt : Nat) (n r tag line : Nat) (read : Option RowRead) (s : State) : Host.Outcome State Fault Refusal :=
  s.act dt fun d =>
    let d := d.linkDrain n
    match d.job? tag, d.rowEntry? n r tag line with
    | some j, some e =>
      match e.refetch, e.header with
      | some (p1, sc), some (_, _, tf) =>
        let p2 := (read.map (·.payload)).getD e.payload
        let sc2 := (read.map (·.check)).getD e.sc
        let c1 := sourceCheck n r line tag p1
        let c2 := sourceCheck n r line tag p2
        let inTime := decide (d.startAt n + d.lineTime n r j ≤ sendBy tf) && d.linkFit n
        let cls := if !inTime then 2 else if c2 = sc2 then (if p2 = p1 then 1 else 0) else if p2 = p1 then 1 else 2
        let d := (d.lineCheck n r j line cls sc c1 sc2 c2).modEntry n r tag line fun e => { e with refetch := none }
        if e.outcome.isSome then d
        else if cls = 2 then ((d.modEntry n r tag line fun e => { e with outcome := some 0 }).countSettled tag line).settled n
        else d.frameReady n (.line (!e.crcs.isEmpty) r tag line tf p2)
      | _, _ => d
    | _, _ => d

/-- A position reason for which a row has no next line (R284). -/
def Dev.pauseReason (d : Dev) (n r : Nat) : Bool :=
  d.on Reg.POS_STATUS.HELD || d.on Reg.POS_STATUS.REG_LOST || d.on Reg.POS_STATUS.POS_LOST || d.on Reg.POS_STATUS.AT_REST
    || decide (d.mode = .hold) || (match d.rowNext n r with
      | none => true
      | some (j, line) => (d.fireAt n r j line).isNone)

/-- A line of a row waits for the lanes. -/
def Dev.rowWaits (d : Dev) (n r : Nat) : Bool :=
  (d.lk n).queue.any fun w => match w with
    | .line _ r' _ _ _ _ => r' == r
    | .cmd _ => false

/-- PAUSE_DEADLINE: PAUSE names the last line sent for the row (R284). -/
def execPauseDeadline (dt : Nat) (n r : Nat) (s : State) : Host.Outcome State Fault Refusal :=
  s.act dt fun d =>
    let d := d.linkDrain n
    match ((d.lk n).row r).last with
    | none => d
    | some (tag, line, next) =>
      if !d.sendsLines || d.rowsOf n ≤ r || !d.linkFit n || ((d.lk n).row r).paused || !d.pauseReason n r || d.rowWaits n r
          || decide (d.tb * 65536 + d.get Reg.LINK_LEAD.TARGET * 65536000 < next) then d
      else
        let d := (d.sendCmd n 3 (2 ^ r) 0 [line % 2 ^ 40 + tag * 2 ^ 40]).modRow n r fun x => { x with paused := true }
        if (List.range (d.rowsOf n)).all fun k => ((d.lk n).row k).paused then d.linkShow n 4 else d

/-- TIME_COMMAND: every TIME_INT us, 100 us at most on a compatibility link; the operands are the measured DCK period in 2^-32 ns, and how
long before the SOF its last rising edge comes, in 2^-16 ns (R279). -/
def execTimeCommand (dt : Nat) (n phase period : Nat) (s : State) : Host.Outcome State Fault Refusal :=
  s.act dt fun d =>
    let every := d.get Reg.LINK_TIME.TIME_INT * 1000
    let every := if d.on (Reg.LANE_PORT_CFG_p.MODE n) then min every 100000 else every
    if d.mode.served && decide (n < 16) && d.on (Reg.LINK_CFG_n.EN n) && d.portSends n && decide (every ≤ d.since (d.lk n).timeAt) then
      d.sendTime n phase period
    else d

/-! ## Answers (R287 to R289) -/

/-- Answer reasons of R287. -/
def nakStale : Nat := 5
def nakLost : Nat := 7

/-- A resend is possible: fewer than RESEND_MAX so far, none waiting, and the deadline can be met. -/
def Dev.canResend (d : Dev) (n r : Nat) (j : Job) (line : Nat) (e : RowEntry) : Bool :=
  decide (e.resends < d.get Reg.LINK_HOLD.RESEND_MAX) && d.linkFit n && d.sendsLines && !d.copyWaits n r j.tag line && e.refetch.isNone
    && (match e.header with
      | some (_, _, tf) => decide (d.startAt n + d.lineTime n r j ≤ sendBy tf)
      | none => false)

/-- Resend a line if that is possible. -/
def Dev.resend (d : Dev) (n r : Nat) (j : Job) (line : Nat) (e : RowEntry) (read : Option RowRead) : Dev :=
  match e.header with
  | some (_, _, tf) => d.checkAndSend n r j line tf read
  | none => d

/-- A NAK of a line: STALE ends the ACTIVE role (R362); resent where its reason and the deadline allow; NAK_FINAL once no copy is to come
and none is without an answer. -/
def Dev.lineNak (d : Dev) (n r : Nat) (j : Job) (line reason : Nat) (e : RowEntry) (read : Option RowRead) : Dev :=
  let d := (d.bump (Reg.LINK_CNT_n.NAKS n)).modEntry n r j.tag line fun e => { e with answer := 1 }
  let d := if reason = nakStale then d.enterSyncing else d
  if (reason = 1 ∨ reason = 3 ∨ reason = 4 ∨ reason = nakLost) ∧ d.canResend n r j line e then d.resend n r j line e read
  else d.nakCheck n r j line

/-- An ACK of a line: verified if its CRC is that of a copy sent. -/
def Dev.lineAck (d : Dev) (n r : Nat) (j : Job) (line crc : Nat) (e : RowEntry) (read : Option RowRead) : Dev :=
  if e.crcs.contains crc then d.settleLine n r j.tag line (if e.mismatched then oMismatch else oVerified)
  else
    let d := d.modEntry n r j.tag line fun e => { e with answer := 2, mismatched := true }
    if d.canResend n r j line e then d.resend n r j line e read else d

/-- A sent line of a row that is not settled, with its job. -/
def Dev.openLine (d : Dev) (n r : Nat) (p : FifoLine → Bool) : Option (Job × Nat × RowEntry) :=
  (d.lk n).fifo.findSome? fun f =>
    match f.rows[r]?, d.job? f.tag with
    | some e, some j => if !e.crcs.isEmpty && e.outcome.isNone && p f then some (j, f.line, e) else none
    | _, _ => none

/-- A frame without an answer has one. -/
def Dev.answered (d : Dev) (n : Nat) (p : Unanswered → Bool) : Dev := d.modLk n fun l => { l with sent := l.sent.eraseP p }

/-- A LOST answer is a NAK of the oldest frame of the link that has no answer yet (R288). -/
def Dev.lostAnswer (d : Dev) (n : Nat) (read : Option RowRead) : Dev :=
  match (d.lk n).sent with
  | [] => d
  | x :: t =>
    let d := d.modLk n fun l => { l with sent := t }
    match x with
    | .cmd _ => d
    | .line r tag line => match d.openLine n r fun f => f.tag == tag && f.line == line with
      | some (j, line, e) => d.lineNak n r j line nakLost e read
      | none => d

/-- ACKNAK: an answer to a line frame or a head command, bytes 1 to 7 of its block, or of /N/ on a compatibility link (R256, R287). -/
def execAcknak (dt : Nat) (n : Nat) (bytes : List Byte) (read : Option RowRead) (s : State) : Host.Outcome State Fault Refusal :=
  s.act dt fun d =>
    let bs := natBytes bytes
    let b1 := leAt bs 0 1
    let row := bitsOf b1 0 2
    let nak := bitOf b1 2
    let reason := bitsOf b1 4 4
    let lo16 := leAt bs 1 2
    let crc := leAt bs 3 4
    if !d.mode.served || 16 ≤ n || !d.portIsUp n || bs.length ≠ 7 then d
    else
      let d := d.linkDrain n
      if nak && reason == nakLost then d.lostAnswer n read
      else if bitOf b1 3 then
        let d := d.answered n fun x => x == .cmd (lo16 % 256)
        if nak then d else d.modLk n fun l => { l with cmds := l.cmds.filter fun c => c.seq != lo16 % 256 }
      else
        let d := d.answered n fun x => match x with
          | .line r _ line => r == row && line % 65536 == lo16
          | .cmd _ => false
        match d.openLine n row fun f => f.line % 65536 == lo16 with
        | some (j, line, e) => if nak then d.lineNak n row j line reason e read else d.lineAck n row j line crc e read
        | none => d

/-- ACK_TIMEOUT: no answer within ACK_TMO of a frame's last block. -/
def execAckTimeout (dt : Nat) (n r tag line : Nat) (read : Option RowRead) (s : State) : Host.Outcome State Fault Refusal :=
  s.act dt fun d =>
    let d := d.linkDrain n
    match d.openLine n r (fun f => f.tag == tag && f.line == line) with
    | some (j, line, e) =>
      if d.unansweredCopies n r tag line ≠ 0 ∧ e.lastBlock + d.get Reg.LINK_HOLD.ACK_TMO * 1000 ≤ d.tb ∧ d.canResend n r j line e then
        d.resend n r j line e read
      else d
    | none => d

/-- One command without an acknowledgement for ACK_TMO: again with the same SEQ, up to three times; then the link is UNFIT, reason 5. -/
def Dev.cmdTimeout (d : Dev) (n : Nat) (c : HeadCmd) : Dev :=
  if (d.lk n).queue.contains (.cmd c.seq) || d.since c.sentAt < d.get Reg.LINK_HOLD.ACK_TMO * 1000 then d
  else if c.tries < 3 then
    (d.modLk n fun l => { l with cmds := l.cmds.map fun x => if x.seq == c.seq then { x with tries := c.tries + 1 } else x }).frameReady n
      (.cmd c.seq)
  else (d.modLk n fun l => { l with cmds := l.cmds.filter fun x => x.seq != c.seq }).linkUnfit n 5

/-- HEAD_COMMAND_TIMEOUT: every command of the link that has had no acknowledgement for ACK_TMO (R278). -/
def execHeadCommandTimeout (dt : Nat) (n : Nat) (s : State) : Host.Outcome State Fault Refusal :=
  s.act dt fun d =>
    let d := d.linkDrain n
    if !d.portSends n then d else (d.lk n).cmds.foldl (fun d c => d.cmdTimeout n c) d

/-- LINE_SETTLE_TIMEOUT: a sent line with no verified answer by t_f + ACK_TMO (R298). -/
def execLineSettleTimeout (dt : Nat) (n r tag line : Nat) (s : State) : Host.Outcome State Fault Refusal :=
  s.act dt fun d =>
    let d := d.linkDrain n
    match d.openLine n r (fun f => f.tag == tag && f.line == line) with
    | some (_, line, e) =>
      match e.header with
      | some (_, _, tf) =>
        if tf + d.get Reg.LINK_HOLD.ACK_TMO * 65536000 ≤ d.tb * 65536 then
          d.settleLine n r tag line (if e.answer = 1 then oNakFinal else oUnverified)
        else d
      | none => d
    | none => d

end Sys2Proof.Machine
end

