-- ==== Sys2Proof/Machine/Heads.lean ====
section
/-! DEFINITION. Head status, silence, temperature caps and halts (R291 to R294), and PARAM LEAD_SET (R300). -/
namespace Sys2Proof.Machine

/-- The web speed in 1/256 line/s: POS_VEL, 0 at rest. -/
def Dev.webSpeed (d : Dev) : Nat := if d.on Reg.POS_STATUS.AT_REST then 0 else d.get Reg.POS_VEL.VEL * 1000000 / 65536

/-- LIMIT and HARD of a link, 0.25 C (R268). -/
def Dev.limitOf (d : Dev) (n : Nat) : Int := signedOf 16 (d.get (Reg.LINK_TEMP_n.LIMIT n))
def Dev.hardOf (d : Dev) (n : Nat) : Int := signedOf 16 (d.get (Reg.LINK_TEMP_n.HARD n))

/-- The greatest number at or before `top` whose low 16 bits are `lo`. -/
def lowLine (top lo : Nat) : Option Nat :=
  let back := (top + 65536 - lo % 65536) % 65536
  if back ≤ top then some (top - back) else none

/-- The line of a row that a LAST_LINE names: the last sent line with those low 16 bits that has fired, of the job of the last line sent, or
of the job before it. -/
def Dev.lineOfLow (d : Dev) (n r lo : Nat) : Option (Job × Nat) :=
  let fired (j : Job) (top : Nat) : Option (Job × Nat) :=
    (lowLine top lo).bind fun l => if d.hasFired n r j l then some (j, l) else none
  match ((d.lk n).row r).last with
  | none => none
  | some (tag, line, _) =>
    match (d.job? tag).bind fun j => fired j line with
    | some x => some x
    | none => (d.jobs.reverse.find? fun k => k.phase == .ending && k.tag != tag).bind fun k =>
      match d.endLine k with
      | some (e + 1) => fired k e
      | _ => none

/-! ## Temperature (R293, R294) -/

/-- A row is at or above LIMIT: HEAD_HOT once, and the cap of 15/16 of the web speed. -/
def Dev.headHot (d : Dev) (n r : Nat) (temp : Int) : Dev :=
  if d.on (Reg.LINK_STAT_n.HOT n) then d
  else
    let cap := d.webSpeed * 15 / 16
    let d := (d.put (Reg.LINK_STAT_n.HOT n) 1).put (Reg.LINK_CAP_n.CAP n) cap
    (d.modLk n fun l => { l with capAt := d.tb, coolSince := none }).post 0x9003 sevWarn [n, r, fieldOf 32 temp, cap, 0]

/-- The last line that has fired on a link, over its rows: job and line (R294). -/
def Dev.lastFired (d : Dev) (n : Nat) : Option (Job × Nat) :=
  ((List.range (d.rowsOf n)).filterMap fun r => d.newestFired n r).foldl (fun b (j, l) =>
    match b with
    | some (k, m) => if 0 < pwDiff (pwAdd j.base (256 * l)) (pwAdd k.base (256 * m)) then some (j, l) else b
    | none => some (j, l)) none

/-- The lines of a row after the one that HALT names that have been sent or wait for the lanes (R294). -/
def Dev.rowBegun (d : Dev) (n r : Nat) (named : Option (Job × Nat)) : List (Job × Nat) :=
  let since (j : Job) (l : Nat) : List (Job × Nat) :=
    if named.any fun (k, m) => decide (pwDiff (pwAdd j.base (256 * l)) (pwAdd k.base (256 * m)) ≤ 0) then []
    else d.linesSince (named.map fun (k, m) => (k.tag, m)) j l
  match d.rowNext n r with
  | some (j, l + 1) => since j l
  | some (j, 0) => (since j 0).dropLast
  | none => match ((d.lk n).row r).last.bind fun (t, l, _) => (d.job? t).map fun j => (j, l) with
    | some (j, l) => since j l
    | none => []

/-- A line that HALT keeps from firing: HALTED, also where it has settled or has left its FIFO. -/
def Dev.haltLine (d : Dev) (n r : Nat) (j : Job) (line : Nat) : Dev :=
  match d.rowEntry? n r j.tag line with
  | some e =>
    if e.outcome.isNone then
      (d.modLk n fun l => { l with queue := l.queue.filter fun w => match w with
        | .line _ r' t' l' _ _ => !(r' == r && t' == j.tag && l' == line)
        | .cmd _ => true }).settleLine n r j.tag line oHalted
    else d.outcomeFinding n j.tag line oHalted
  | none => d.outcomeFinding n j.tag line oHalted

/-- Every row of the link is halted: HALT, HALTED for every later line, HEAD_HALT, and the policy (R294, R295). -/
def Dev.headHalt (d : Dev) (n r : Nat) (temp : Int) : Dev :=
  if (d.lk n).halted then d
  else
    let d := d.linkDrain n
    let mask := 2 ^ d.rowsOf n - 1
    let (tag, line) := match d.lastFired n with
      | some (j, l) => (j.tag, l)
      | none => (0, 0)
    let d := if d.active && !d.on Reg.REC_RPL_CFG.EN then d.sendCmd n 4 mask 0 [line % 2 ^ 40 + tag * 2 ^ 40] else d
    let d := (d.modLk n fun l => { l with halted := true, hardCool := none, resumeAt := none }).linkShow n 5
    let named := d.lastFired n
    let d := (List.range (d.rowsOf n)).foldl (fun d k => (d.rowBegun n k named).foldl (fun d (j, l) => d.haltLine n k j l) d) d
    let act := d.link.policy.getD (4 * n) 0
    let d := d.post 0x9004 sevFault [n, r, fieldOf 32 temp, line % 2 ^ 32, act]
    if act = 1 then d.stopWeb else d

/-- Timers of R293 and R294: since when every row is below LIMIT - 2 C and HARD - 2 C. -/
def Dev.coolTimers (d : Dev) (n : Nat) (temps : List Int) : Dev :=
  let start (old : Option Nat) (ok : Bool) : Option Nat := if ok then some (old.getD d.tb) else none
  d.modLk n fun l => { l with
    coolSince := start l.coolSince (temps.all fun t => decide (t < d.limitOf n - 8))
    hardCool := start l.hardCool (temps.all fun t => decide (t < d.hardOf n - 8)) }

/-! ## Status (R291, R292) -/

/-- What one row of a valid status brings: counts, findings, its last line and temperature. -/
def Dev.statusRow (d : Dev) (n : Nat) (hfault : Nat) (r w : Nat) : Dev :=
  let row := (d.lk n).row r
  let lo := bitsOf w 16 16
  let held := bitsOf w 32 8
  let blank := bitsOf w 40 8
  let rf := bitsOf w 48 8
  let bad := hfault ≠ 0 ∨ held ≠ 0 ∨ blank ≠ 0 ∨ bitOf rf 1 ∨ bitOf rf 2
  let named := d.lineOfLow n r lo
  let lines := match named with
    | some (j, line) => d.linesSince row.fired j line
    | none => []
  let d := if bad then lines.foldl (fun d (k, l) => d.lineFinding k l vReject cHeadReported (some n)) d else d
  let d := (d.bumpBy (Reg.LINK_CNT3_n.HELD n) held).bumpBy (Reg.LINK_CNT3_n.BLANKED n) blank
  let d := d.modRow n r fun x => { x with
    lastLine := lo, fired := (match named with | some (j, line) => some (j.tag, line) | none => x.fired), temp := signedOf 16 (bitsOf w 0 16) }
  d.modLk n fun l => { l with
    held := modAt l.held r (fun x => min 255 (x + held)), blanked := modAt l.blanked r (fun x => min 255 (x + blank))
    rfault := modAt l.rfault r (Nat.lor · rf) }

/-- The row of the highest index below `k` that satisfies a predicate, searched from row 0. -/
def firstRow (k : Nat) (p : Nat → Bool) : Option Nat := (List.range k).find? p

/-- A head status frame: words 0 to 5; one with a bad CRC is discarded (R292). -/
def Dev.headStatus (d : Dev) (n : Nat) (ws : List Nat) : Dev :=
  let w0 := ws.getD 0 0
  let pre := [n, 0x10] ++ leBytes 5 (bitsOf w0 0 16) ++ [0]
  if !d.mode.served || !d.on (Reg.LINK_CFG_n.EN n) || !d.portIsUp n || 16 ≤ n || ws.length ≠ 6
      || decide (linkCrc pre (ws.take 5) ≠ bitsOf (ws.getD 5 0) 0 32) then d
  else
    let d := d.linkDrain n
    let k := d.rowsOf n
    let supply := bitsOf w0 16 16
    let hf := bitsOf w0 32 16
    let d := d.silentFired n
    let d := (List.range k).foldl (fun d r => d.statusRow n hf r (ws.getD (r + 1) 0)) d
    let rfs := (List.range 4).map fun r => if r < k then bitsOf (ws.getD (r + 1) 0) 48 8 else 0
    let ep := hf ≠ 0 ∨ (rfs.any fun f => bitOf f 1 || bitOf f 2)
    let d := if ep ∧ !(d.lk n).faultEp then
        d.post 0x9006 sevWarn [n, hf, ofLe rfs, supply] else d
    let temps := (List.range k).map fun r => signedOf 16 (bitsOf (ws.getD (r + 1) 0) 0 16)
    let top := temps.foldl max (temps.headD 0)
    let d := d.modLk n fun l => { l with
      statusAt := d.tb, status := ws.take 5, faultEp := decide ep, silentHard := false, hfault := Nat.lor l.hfault hf }
    let hot := (List.range k).filter fun r => decide (d.limitOf n ≤ temps.getD r 0)
    let d := ((d.put (Reg.LINK_STAT_n.SILENT n) 0).put (Reg.LINK_STAT_n.HOT_ROWS n) (hot.foldl (fun m r => m + 2 ^ r) 0))
    let d := (d.put (Reg.LINK_HEAD_n.TEMP_MAX n) (fieldOf 16 top)).put (Reg.LINK_HEAD_n.SUPPLY n) supply
    let d := d.coolTimers n temps
    let d := match hot with
      | r :: _ => d.headHot n r (temps.getD r 0)
      | [] => d
    match firstRow k fun r => decide (d.hardOf n ≤ temps.getD r 0) with
    | some r => d.headHalt n r (temps.getD r 0)
    | none => d

/-- How long no valid status has come on an enabled link that has been UP. -/
def Dev.silence (d : Dev) (n : Nat) : Nat :=
  if d.mode.served && d.on (Reg.LINK_CFG_n.EN n) && (d.portIsUp n || decide ((d.lk n).statusAt ≠ 0)) then d.since (d.lk n).statusAt else 0

/-- STATUS_TIMEOUT: SILENT and HEAD_SILENT; lines fired since LAST_LINE are UNVERIFIED at best, and the link is as at LIMIT. -/
def execStatusTimeout (dt : Nat) (n : Nat) (s : State) : Host.Outcome State Fault Refusal :=
  s.act dt fun d =>
    if 16 ≤ n || d.silence n < d.get Reg.LINK_HOLD.STATUS_TMO * 10000 || d.silence n = 0 then d
    else
      let d := if d.on (Reg.LINK_STAT_n.SILENT n) then d else (d.put (Reg.LINK_STAT_n.SILENT n) 1).post 0x9007 sevWarn [n, d.silence n / 1000]
      let d := (d.silentFired n).modLk n fun l => { l with coolSince := none, hardCool := none }
      d.headHot n 0 (d.limitOf n)

/-- SILENCE_HARD_TIMEOUT: after 1 ms of silence a link is treated as at HARD. -/
def execSilenceHardTimeout (dt : Nat) (n : Nat) (s : State) : Host.Outcome State Fault Refusal :=
  s.act dt fun d =>
    if decide (n < 16) && d.on (Reg.LINK_STAT_n.SILENT n) && !(d.lk n).silentHard && decide (1000000 ≤ d.silence n) then
      (d.modLk n fun l => { l with silentHard := true }).headHalt n 0 (d.hardOf n)
    else d

/-- HEAD_CAP_STEP: every 1 ms while a row stays at or above LIMIT, or the link is silent, the cap falls by 1/16 of itself. -/
def execHeadCapStep (dt : Nat) (n : Nat) (s : State) : Host.Outcome State Fault Refusal :=
  s.act dt fun d =>
    if decide (n < 16) && d.on (Reg.LINK_STAT_n.HOT n) && (d.on (Reg.LINK_STAT_n.HOT_ROWS n) || d.on (Reg.LINK_STAT_n.SILENT n))
        && decide (1000000 ≤ d.since (d.lk n).capAt) then
      let cap := d.get (Reg.LINK_CAP_n.CAP n)
      (d.put (Reg.LINK_CAP_n.CAP n) (cap - cap / 16)).modLk n fun l => { l with capAt := d.tb }
    else d

/-- HEAD_COOL_TIMEOUT: 100 ms with every row below LIMIT - 2 C removes the cap. -/
def execHeadCoolTimeout (dt : Nat) (n : Nat) (s : State) : Host.Outcome State Fault Refusal :=
  s.act dt fun d =>
    match (d.lk n).coolSince with
    | none => d
    | some t =>
      if d.on (Reg.LINK_STAT_n.HOT n) && !d.on (Reg.LINK_STAT_n.SILENT n) && decide (100000000 ≤ d.since t) then
        let temps := (List.range (d.rowsOf n)).map fun r => ((d.lk n).row r).temp
        ((d.put (Reg.LINK_STAT_n.HOT n) 0).put (Reg.LINK_CAP_n.CAP n) 0xFFFFFFFF).post 0x9003 sevWarn
          [n, 0, fieldOf 32 (temps.foldl max (temps.headD 0)), 0xFFFFFFFF, 1]
      else d

/-- The first line that a RESUME allows: line 0 of the first frame not yet sent on the link (R294). -/
def Dev.resumeLine (d : Dev) (n : Nat) : Option (Job × Nat) :=
  (List.range (d.rowsOf n)).foldl (fun b r =>
    match d.rowNext n r, b with
    | some (j, l), some (k, m) =>
      let l' := cdiv l j.repeat_ * j.repeat_
      if 0 < pwDiff (pwAdd j.base (256 * l')) (pwAdd k.base (256 * m)) then some (j, l') else b
    | some (j, l), none => some (j, cdiv l j.repeat_ * j.repeat_)
    | none, _ => b) none

/-- HARD_COOL_TIMEOUT: 100 ms with every row below HARD - 2 C: RESUME and HEAD_RESUME (R294). -/
def execHardCoolTimeout (dt : Nat) (n : Nat) (s : State) : Host.Outcome State Fault Refusal :=
  s.act dt fun d =>
    match (d.lk n).hardCool with
    | none => d
    | some t =>
      if decide (n < 16) && (d.lk n).halted && !d.on (Reg.LINK_STAT_n.SILENT n) && decide (100000000 ≤ d.since t) then
        let (tag, line) := match d.resumeLine n with
          | some (j, l) => (j.tag, l)
          | none => (0, 0)
        let d := if d.active && !d.on Reg.REC_RPL_CFG.EN then
            d.sendCmd n 5 (2 ^ d.rowsOf n - 1) 0 [line % 2 ^ 40 + tag * 2 ^ 40] else d
        let d := (d.modLk n fun l => { l with
          halted := false, hardCool := none, resumeAt := (d.resumeLine n).map fun (j, l) => (j.tag, l) }).linkShow n 2
        d.post 0x9005 sevInfo [n, tag, line % 2 ^ 32]
      else d

/-- What LEAD_SET does, when it applies (R91). -/
def Dev.leadSet (d : Dev) (t : Ticket) (x : Desc) : Dev :=
  let v := x.w 6
  if (valueExtra x [0xFF, 0, 0, 0]).isSome || v < 8 || 200 < v then d.complete t stBadParam 6
  else (d.put Reg.LINK_LEAD.TARGET v).complete t stOk 0

/-- LEAD_SET: PARAM 0x9001 (R300). -/
def execLeadSet (dt : Nat) (ring : Nat) (x : Desc) (s : State) : Host.Outcome State Fault Refusal :=
  s.act dt fun d => d.onParam ring x (· == 0x9001) readyRunHold true fun d t => d.leadSet t x

end Sys2Proof.Machine
end

