-- ==== Sys2Proof/Machine/Ports.lean ====
section
/-! DEFINITION. Lane ports as they come UP and go DOWN (R240, R250, R262, R265 to R267), with what head links and the ring make of it
(R269, R295, R347, R354). -/
namespace Sys2Proof.Machine

/-- ROLL: member, unit, partner, nodes, state, duplex sub-state, CFG_CRC (R351). -/
def Dev.cfgCrc (d : Dev) : Nat :=
  let cfg := d.get Reg.RING_CFG.EN + d.get Reg.RING_CFG.PARTNER * 2 + d.get Reg.RING_CFG.STBY_TEST * 4 + d.get Reg.RING_CFG.NODES * 2 ^ 8
    + d.get Reg.RING_CFG.RING_ID * 2 ^ 16
  let node := d.get Reg.RING_NODE.MEMBER + d.get Reg.RING_NODE.UNIT * 8 + d.node * 16
  crc32c (leBytes 4 cfg ++ leBytes 4 node)

/-- GLB_STATE.DUPLEX: 0 outside READY, RUN and HOLD, 1 ACTIVE, 2 STANDBY, 3 SYNCING (R34). -/
def Dev.duplexCode (d : Dev) : Nat :=
  if !d.mode.printing then 0 else match d.duplex with
    | .active => 1
    | .standby => 2
    | .syncing => 3

def Dev.sendRoll (d : Dev) : Dev :=
  let w := d.get Reg.RING_NODE.MEMBER + d.get Reg.RING_NODE.UNIT * 8 + d.get Reg.RING_CFG.PARTNER * 16 + d.get Reg.RING_CFG.NODES * 2 ^ 8
    + d.mode.code * 2 ^ 16 + d.duplexCode * 2 ^ 20 + d.cfgCrc * 2 ^ 32
  let seq := d.net.seqs.getD 1 0
  let d := d.ringSend 1 0 true [w]
  { d with net := { d.net with rollAt := d.tb, rolls := d.net.rolls.filter (fun x => decide (d.since x.2 ≤ 1000000)) ++ [(seq, d.tb)] } }

/-- RING_HOLD goes high with EN = 1 in SETUP; bring-up of the ring ports waits 20 us (R347). -/
def Dev.ringHoldOn (d : Dev) : Dev :=
  if d.on Reg.RING_CFG.EN && decide (d.mode = .setup) && d.clk.ringHold != some true then
    let d := d.driveHold (some true)
    ({ d with net := { d.net with holdAt := some d.tb } }).ringPortChange 18
  else d

/-- What a head link or the ring makes of a port that has come UP or back UP. -/
def Dev.portRaised (d : Dev) (p : Nat) : Dev :=
  if p < 16 then d.linkUp p
  else if p < 18 then d
  else
    let d := { d with net := { d.net with hopAt := setAt d.net.hopAt (p - 18) 0, hops := d.net.hops.filter fun h => h.1 != p } }
    (d.ringPortChange p).sendRoll

/-- An event of a lane port: its location is the lane quad's, 0.0.3.19.q.m.0 (R239). -/
def Dev.postLane (d : Dev) (code sev p macro_ : Nat) (args : List Nat) : Dev := d.postAt code sev args (d.loc 0 3 19 p macro_ 0)

/-- A port is UP: LANE_UP; after a fallback LANE_STEP_FAIL first (R253, R254, R267). -/
def Dev.portUp (d : Dev) (p : Nat) : Dev :=
  let x := d.port p
  let rate := d.get (Reg.LANE_PORT_STAT_p.RATE p)
  let d := if x.fallback then d.postLane 0x8004 sevWarn p 0 [p, rate + 1, rate] else d
  let d := ((d.setStage p 6).put (Reg.LANE_PORT_STAT_p.TX_IDLE p) 0).put (Reg.LANE_PORT_STAT_p.RX_IDLE p) 0
  let d := d.modPort p fun x => { x with
    farLost := false, lastTx := d.tb, skipCap := false, relock := false, idle := none, wakeAt := none, trainTo := d.tb, loop := false, farTest := none }
  let d := d.transmit p (d.idling p)
  (d.postLane 0x8001 sevInfo p 0 [p, rate, d.get (Reg.LANE_FAR_CAP_LO_p.CAP_LO p), d.get (Reg.LANE_FAR_CAP_HI_p.CAP_HI p)]).portRaised p

/-- A port goes DOWN with a fault at a macro (R265). -/
def Dev.portDown (d : Dev) (p fault macro_ : Nat) : Dev :=
  let wasUp := decide (d.get (Reg.LANE_PORT_STAT_p.STATE p) = 6 ∨ d.get (Reg.LANE_PORT_STAT_p.STATE p) = 7)
  let d := (d.put (Reg.LANE_PORT_STAT_p.FAULT p) fault).put (Reg.LANE_PORT_STAT_p.FAULT_LANE p) macro_
  let d := ((d.setStage p 9).put (Reg.LANE_PORT_STAT_p.LOCKED p) 0).put (Reg.LANE_PORT_STAT_p.RX_IDLE p) 0
  let d := (d.modPort p fun x => { x with wakeAt := none, idle := none, relock := false, deskewed := false }).transmit p .off
  let sev := if d.mode = .run ∧ !isCamera p then sevFault else sevWarn
  let d := d.postLane 0x8002 sev p macro_ [p, fault, macro_]
  if p < 16 then (if wasUp then d.linkDown p true else d) else if p < 18 then d else d.ringPortChange p

/-- A port that is UP enters RELOCK: RESYNC 0 and LANE_RELOCK (R265, R267). -/
def Dev.enterRelock (d : Dev) (p fault macro_ : Nat) : Dev :=
  let d := (d.put (Reg.LANE_PORT_STAT_p.FAULT p) fault).put (Reg.LANE_PORT_STAT_p.FAULT_LANE p) macro_
  let d := ((d.setStage p 7).bump (Reg.LANE_CNT2_p.RELOCKS p)).modPort p fun x => { x with
    deskewed := false, hunt := List.replicate 4 0, loop := false }
  let d := (d.transmit p (d.training p)).sendBlocks p 1 0x87 [0]
  let d := d.postLane 0x8003 sevWarn p macro_ [p, macro_, 0, 0]
  if p < 16 then d.linkDown p false else if p < 18 then d else d.ringPortChange p

/-- Lock and deskew are back within 100 us: RESYNC 1, UP. -/
def Dev.leaveRelock (d : Dev) (p : Nat) : Dev :=
  let took := d.since (d.port p).stageAt
  let d := ((d.setStage p 6).sendBlocks p 1 0x87 [1]).transmit p (if (d.port p).farLost then d.training p else d.idling p)
  let d := d.postLane 0x8003 sevWarn p (d.get (Reg.LANE_PORT_STAT_p.FAULT_LANE p)) [p, d.get (Reg.LANE_PORT_STAT_p.FAULT_LANE p), 1, took]
  if p < 16 then (if d.on (Reg.LINK_CFG_n.EN p) then (d.linkDrain p).linkShow p 2 else d)
  else if p < 18 then d else (d.ringPortChange p).sendRoll

/-- What a head link or the ring makes of a port that leaves UP for a test, a new bring-up or DISABLED. -/
def Dev.portLeft (d : Dev) (p : Nat) : Dev := if p < 16 then d.linkDown p false else if p < 18 then d else d.ringPortChange p

/-- A PRBS test ends: LOCK and DESKEW run again at the same rate, without CAP (R262). -/
def Dev.stopTest (d : Dev) (p loop : Nat) : Dev :=
  let d := if loop = 2 then d.sendBlocks p 1 0xAA [0] else d
  let d := ((d.setStage p 2).put (Reg.LANE_PORT_STAT_p.LOCKED p) 0).modPort p fun x => { x with
    skipCap := true, deskewed := false, fallback := false, hunt := List.replicate 4 0, late := (rxMacros p).headD 0 }
  d.transmit p (d.training p)

/-- Bring-up starts at 1.25 Gb/s; a compatibility port locks at MAX_RATE (R250, R255). Without LREF, or before RING_HOLD has been high
for 20 us, it waits (R240, R347). -/
def Dev.bringUp (d : Dev) (p : Nat) : Dev :=
  if !d.on Reg.LANE_GLB.LREF_OK then d.modPort p fun x => { x with waits := true }
  else if 18 ≤ p ∧ d.net.holdAt.isSome then d
  else
    let compat := d.on (Reg.LANE_PORT_CFG_p.MODE p)
    let d := (d.put (Reg.LANE_PORT_STAT_p.RATE p) (if compat then d.get (Reg.LANE_PORT_CFG_p.MAX_RATE p) else 0)).put
      (Reg.LANE_PORT_STAT_p.LOCKED p) 0
    let d := (d.setStage p (if compat then 2 else 1)).bump (Reg.LANE_CNT2_p.BRINGUPS p)
    let d := (d.bump (Reg.SENSE_XING_n.COUNT 10)).bump (Reg.SENSE_XING_n.COUNT 11)
    let d := (d.put (Reg.LANE_PORT_STAT_p.TX_IDLE p) 0).put (Reg.LANE_PORT_STAT_p.RX_IDLE p) 0
    let d := d.modPort p fun x => { x with
      hunt := List.replicate 4 0, errs := List.replicate 4 [], late := (rxMacros p).headD 0, elastic := 16
      waits := false, skipCap := false, deskewed := false, cap := [], caps := 0, failed := 0, target := 0, steps := 0, idle := none
      relock := false, doneIn := false, fallback := false, farLost := false, wakeAt := none, loop := false, farTest := none }
    (d.transmit p (d.training p)).portLeft p

/-- RING_HOLD_DELAY_END: 20 us after RING_HOLD went high, bring-up of the enabled ports 18 and 19 starts (R347). -/
def execRingHoldDelayEnd (dt : Nat) (s : State) : Host.Outcome State Fault Refusal :=
  s.act dt fun d =>
    match d.net.holdAt with
    | none => d
    | some t =>
      if d.mode.served ∧ 20000 ≤ d.since t then
        let d := { d with net := { d.net with holdAt := none } }
        ([18, 19].filter fun p => d.on (Reg.LANE_PORT_CFG_p.EN p)).foldl Dev.bringUp d
      else d

end Sys2Proof.Machine
end

