-- ==== Sys2Proof/Machine/Lanes.lean ====
section
/-! DEFINITION. Lane ports (R239 to R267): bring-up, rate steps, alignment, sleep and wake, faults, tests and injection. -/
namespace Sys2Proof.Machine

/-! ## Bring-up (R250 to R254) -/

/-- Every receive lane of a port is locked. -/
def Dev.allLocked (d : Dev) (p : Nat) : Bool := (rxMacros p).all fun m => bitOf (d.get (Reg.LANE_PORT_STAT_p.LOCKED p)) m

/-- The lowest receive macro that has no lock. -/
def Dev.firstUnlocked (d : Dev) (p : Nat) : Nat :=
  ((rxMacros p).find? fun m => !bitOf (d.get (Reg.LANE_PORT_STAT_p.LOCKED p)) m).getD ((rxMacros p).headD 0)

/-- The rates that this side offers: every rate up to MAX_RATE that no fallback has cleared (R251, R254). -/
def Dev.ownRate (d : Dev) (p r : Nat) : Bool :=
  decide (r ≤ d.get (Reg.LANE_PORT_CFG_p.MAX_RATE p)) && !bitOf (d.port p).failed r

/-- The RATES byte of this side's CAP. -/
def Dev.ownRates (d : Dev) (p : Nat) : Nat := ((List.range 3).filter (d.ownRate p)).foldl (fun m r => m + 2 ^ r) 0

/-- CAP every 64 blocks: PROTO 1, ROLE 3, RATES, PRBS, SLEEP, LOOP (R250, R251). -/
def Dev.sendCap (d : Dev) (p : Nat) : Dev :=
  d.transmit p (.blocks (d.rate p) 32 (some (64, 0x2D, [0x31, d.ownRates p + 0x38, 0, 0, 0, 0, 0])))

/-- STEP for a rate every 16 blocks; with DONE, until the far side's DONE has come (R253). -/
def Dev.sendStep (d : Dev) (p rate flags : Nat) : Dev := d.transmit p (.blocks (d.rate p) 32 (some (16, 0x33, [rate, flags])))

/-- GO: 8 STEP blocks once three STEPs have gone out, one every 16 blocks; then 16 us of electrical idle before a rate (R253). -/
def Dev.sendGo (d : Dev) (p rate : Nat) : Dev :=
  let r := d.rate p
  let blocks := 56 - min 48 (blocksIn r (d.since (d.port p).stageAt))
  let t := tbPlus d.tb (cdiv (blocks * 528) (10 * 2 ^ r) + 16000)
  ((d.sendBlocks p 8 0x33 [rate, 1]).modPort p fun x => { x with idle := some (t, rate) }).transmit p .off

/-- The next rate is handshaken, or DONE is awaited at the present one. -/
def Dev.stepOrDone (d : Dev) (p : Nat) : Dev :=
  let r := d.rate p
  if r < (d.port p).target then
    ((d.setStage p 5).modPort p fun x => { x with steps := 0, relock := false, doneIn := false, idle := none }).sendStep p (r + 1) 0
  else ((d.setStage p 5).modPort p fun x => { x with relock := true }).sendStep p r 2

/-- A rate's relock and DONE are complete: the next rate, or UP (R253). -/
def Dev.rateDone (d : Dev) (p : Nat) : Dev :=
  let x := d.port p
  let r := d.rate p
  if x.fallback || decide (x.target ≤ r) then d.portUp p else d.stepOrDone p

/-- The relock at a rate has all that it needs. -/
def Dev.rateCheck (d : Dev) (p : Nat) : Dev :=
  let x := d.port p
  if x.deskewed && (x.doneIn || x.fallback) then d.rateDone p else d

/-- The fallback of R254: idle for 16 us, then the previous rate. -/
def Dev.fallBack (d : Dev) (p : Nat) : Dev :=
  let r := d.rate p
  if r = 0 ∨ r - 1 < d.get (Reg.LANE_PORT_CFG_p.MIN_RATE p) then d.portDown p 7 0
  else
    let d := d.modPort p fun x => { x with
      failed := setBit x.failed r true, target := r - 1, fallback := true, relock := false, doneIn := false
      idle := some (tbPlus d.tb 16000, r - 1) }
    ((d.put (Reg.LANE_PORT_STAT_p.FAULT p) 7).put (Reg.LANE_PORT_STAT_p.FAULT_LANE p) 0).transmit p .off

/-- The port acts only where ports run. -/
def Dev.laneLive (d : Dev) (p : Nat) : Bool := d.mode.served && decide (p < 20) && d.on (Reg.LANE_PORT_CFG_p.EN p)

/-- The stage of a port (LANE_PORT_STAT_p.STATE). -/
def Dev.stage (d : Dev) (p : Nat) : Nat := d.get (Reg.LANE_PORT_STAT_p.STATE p)

/-- A write of LANE_PORT_CFG_p: EN 1 starts bring-up, EN 0 disables the port (R250). -/
def Dev.portWrite (d : Dev) (p value : Nat) : Dev :=
  if 20 ≤ p then d
  else
    let was := d.on (Reg.LANE_PORT_CFG_p.EN p)
    let open_ := d.lkOpen
    let d := d.writeReg (Reg.LANE_PORT_CFG_p.EN p).off value
    if !open_ then d
    else if d.on (Reg.LANE_PORT_CFG_p.EN p) then d.bringUp p
    else if was then ((d.setStage p 0).transmit p .off).portLeft p
    else d

/-- PORT_ENABLE: a write of LANE_PORT_CFG_p. -/
def execPortEnable (dt : Nat) (p value : Nat) (s : State) : Host.Outcome State Fault Refusal :=
  s.act dt fun d => d.portWrite p value

/-- RX_CLOCK_DETECT: the receive clock is within tolerance; or the first clock edge of a far transmitter that wakes. -/
def execRxClockDetect (dt : Nat) (p : Nat) (s : State) : Host.Outcome State Fault Refusal :=
  s.act dt fun d =>
    if !d.laneLive p then d
    else if d.stage p = 1 then d.setStage p 2
    else if d.stage p = 6 ∧ d.on (Reg.LANE_PORT_STAT_p.RX_IDLE p) then
      (d.modPort p fun x => { x with wakeAt := some d.tb, deskewed := false, hunt := List.replicate 4 0 }).put (Reg.LANE_PORT_STAT_p.LOCKED p) 0
    else d

/-- RX_CLOCK_LOSS: outside sleep; while DONE is awaited it is the far side's fallback (R254); the electrical idle of a step is none. -/
def execRxClockLoss (dt : Nat) (p : Nat) (s : State) : Host.Outcome State Fault Refusal :=
  s.act dt fun d =>
    let x := d.port p
    let st := d.stage p
    if !d.laneLive p || d.on (Reg.LANE_PORT_STAT_p.RX_IDLE p) || st < 2 || st == 9 || d.compat p || x.idle.isSome then d
    else if st = 5 ∧ !isCamera p then (if x.relock && !x.fallback then d.fallBack p else d)
    else d.portDown p 1 (clockMacro p)

/-- A hunt for lock: runs of good items that a bad one ends, the first going on from `n`; whether a run reaches `need`, and how long the last
one is. -/
def huntOn (need : Nat) : Nat → List Nat → Bool × Nat
  | n, [] => (decide (need ≤ n), n)
  | n, r :: t => if need ≤ n + r then (true, n + r) else if t = [] then (false, n + r) else huntOn need 0 t

/-- A window of `span` items, as how long ago each error in it was: one more error, `gap` items after the last. -/
def slide (span gap : Nat) (ages : List Nat) : List Nat := 0 :: (ages.map (· + max 1 gap)).filter (· < span)

/-- Errors one after another, up to the one that makes `most` in the window: the window, how many errors, whether it was reached. -/
def windowErrs (span most : Nat) : List Nat → List Nat → List Nat × Nat × Bool
  | ages, [] => (ages, 0, false)
  | ages, g :: t =>
    let a := slide span g ages
    if most ≤ a.length then ([], 1, true)
    else
      let (b, n, full) := windowErrs span most a t
      (b, n + 1, full)

/-- A lane hunts: valid headers, or K28.5 at one alignment, in runs; whether it locks now (R248, R258, R260). -/
def Dev.hunts (d : Dev) (p m need : Nat) (runs : List Nat) : Bool × Dev :=
  let (ok, n) := huntOn need ((d.port p).hunt.getD m 0) runs
  (ok, d.modPort p fun x => { x with
    hunt := setAt x.hunt m (if ok then 0 else n), errs := if ok then setAt x.errs m [] else x.errs })

/-- BLOCK_LOCK: a receive lane hunts: `runs` are the valid headers between slips since the last report. It locks after 64 valid headers, or
after 16 as it wakes; its eye width then enters the lane's histogram (R248, R260, R492). -/
def execBlockLock (dt : Nat) (p m eye : Nat) (runs : List Nat) (s : State) : Host.Outcome State Fault Refusal :=
  s.act dt fun d =>
    if !d.laneLive p || !(rxMacros p).contains m || d.stage p < 2 || d.stage p == 9 || d.compat p || (d.port p).idle.isSome
        || bitOf (d.get (Reg.LANE_PORT_STAT_p.LOCKED p)) m then d
    else
      let (ok, d) := d.hunts p m (if (d.port p).wakeAt.isSome then 16 else 64) runs
      if !ok then d
      else
        let d := d.put (Reg.LANE_PORT_STAT_p.LOCKED p) (setBit (d.get (Reg.LANE_PORT_STAT_p.LOCKED p)) m true)
        let d := d.histogram (5120 + 4 * p + m) (min 15 (eye / 4)) eye
        let d := d.modPort p fun x => { x with farTest := none }
        if d.stage p = 2 ∧ d.allLocked p then (d.setStage p 3).modPort p fun x => { x with late := (rxMacros p).headD 0 } else d

/-- BLOCK_LOCK_LOSS: invalid headers on a locked lane, each `gap` blocks after the one before it. Each is counted, and its block is discarded;
16 within 64 blocks lose the lock (R248, R265). -/
def execBlockLockLoss (dt : Nat) (p m : Nat) (gaps : List Nat) (s : State) : Host.Outcome State Fault Refusal :=
  s.act dt fun d =>
    if !d.laneLive p || !(rxMacros p).contains m || !bitOf (d.get (Reg.LANE_PORT_STAT_p.LOCKED p)) m
        || d.compat p || d.on (Reg.LANE_PORT_STAT_p.RX_IDLE p) then d
    else
      let (ages, n, lost) := windowErrs 64 16 ((d.port p).errs.getD m []) gaps
      let d := (d.bumpBy (Reg.LANE_CNT_p.BLOCK_ERR p) n).modPort p fun x => { x with errs := setAt x.errs m ages, hunt := setAt x.hunt m 0 }
      if !lost then d
      else
        let d := d.put (Reg.LANE_PORT_STAT_p.LOCKED p) (setBit (d.get (Reg.LANE_PORT_STAT_p.LOCKED p)) m false)
        if d.stage p = 6 then d.enterRelock p 2 m else d

/-- A port is deskewed. -/
def Dev.deskew (d : Dev) (p : Nat) : Dev :=
  let d := d.modPort p fun x => { x with deskewed := true }
  let x := d.port p
  match d.stage p with
  | 3 => if x.skipCap then d.portUp p else (d.setStage p 4).sendCap p
  | 5 =>
    if !x.relock then d
    else if isCamera p then (if x.target ≤ d.rate p then d.portUp p else (d.setStage p 5).modPort p fun x => { x with relock := false })
    else (if x.fallback then d else d.sendStep p (d.rate p) 2).rateCheck p
  | 6 =>
    if x.wakeAt.isSome then
      (d.modPort p fun x => { x with wakeAt := none }).put (Reg.LANE_PORT_STAT_p.RX_IDLE p) 0
    else d
  | 7 => d.leaveRelock p
  | _ => d

/-- The macro that a DESKEW fault names: the lowest on which no ALIGN came, else the one whose ALIGN came last (R265). -/
def lateMacro (arrivals : List (Nat × Option Nat)) : Nat :=
  match arrivals.find? fun x => x.2.isNone with
  | some x => x.1
  | none => (arrivals.foldl (fun b x => if b.2.getD 0 < x.2.getD 0 then x else b) (arrivals.headD (0, none))).1

/-- ALIGN on every lane within a span of 4 blocks (R249). -/
def alignedAll (arrivals : List (Nat × Option Nat)) : Bool :=
  let ts := arrivals.filterMap (·.2)
  ts.length == arrivals.length && decide (ts.foldl max 0 - ts.foldl min (ts.headD 0) ≤ 4)

/-- ALIGN_BLOCK: in which block slot ALIGN has come on each receive lane, in macro order (R249). -/
def execAlignBlock (dt : Nat) (p : Nat) (slots : List (Option Nat)) (s : State) : Host.Outcome State Fault Refusal :=
  s.act dt fun d =>
    let arrivals := (rxMacros p).zip slots
    if !d.laneLive p || !d.allLocked p || d.compat p || arrivals.length ≠ (rxMacros p).length || (d.port p).idle.isSome then d
    else if alignedAll arrivals then d.deskew p
    else
      let late := lateMacro arrivals
      let d := d.modPort p fun x => { x with late := late }
      if d.stage p = 6 ∧ !d.on (Reg.LANE_PORT_STAT_p.RX_IDLE p) then d.enterRelock p 3 late else d

/-- The role byte that a port wants of the far side (R252). -/
def farRole (p : Nat) : Nat := if p < 16 then 1 else if p < 18 then 2 else 3

/-- The highest rate that a predicate allows, 0 if none. -/
def topRate (f : Nat → Bool) : Nat := if f 2 then 2 else if f 1 then 1 else 0

/-- Three identical CAP blocks have come (R251 to R253). -/
def Dev.capTaken (d : Dev) (p : Nat) (bs : List Nat) : Dev :=
  let d := (d.put (Reg.LANE_FAR_CAP_LO_p.CAP_LO p) (leAt bs 0 4)).put (Reg.LANE_FAR_CAP_HI_p.CAP_HI p) (leAt bs 4 3)
  let far (r : Nat) : Bool := bitOf (bs.getD 1 0) r
  if bs.getD 0 0 ≠ 1 + 16 * farRole p then d.portDown p 5 0
  else
    let target := if isCamera p then topRate far else topRate fun r => far r && d.ownRate p r
    let none_ := !((List.range 3).any fun r => far r && (isCamera p || d.ownRate p r))
    if none_ ∨ target < d.get (Reg.LANE_PORT_CFG_p.MIN_RATE p) then d.portDown p 6 0
    else
      let d := d.modPort p fun x => { x with target := target }
      if isCamera p then (if target = 0 then d.portUp p else d.setStage p 5) else d.stepOrDone p

/-- CAP_BLOCK: payload bytes 1 to 7 of a CAP block. -/
def execCapBlock (dt : Nat) (p : Nat) (payload : List Byte) (s : State) : Host.Outcome State Fault Refusal :=
  s.act dt fun d =>
    if !d.laneLive p || d.stage p ≠ 4 then d
    else
      let bs := padTo 7 ((natBytes payload).take 7)
      let x := d.port p
      let n := if x.cap = bs then x.caps + 1 else 1
      let d := d.modPort p fun x => { x with cap := bs, caps := n }
      if n = 3 then d.capTaken p bs else d

/-- STEP_BLOCK: rate code, GO, DONE. A camera's first GO is followed by seven more (R253). -/
def execStepBlock (dt : Nat) (p rate : Nat) (go done : Bool) (s : State) : Host.Outcome State Fault Refusal :=
  s.act dt fun d =>
    let x := d.port p
    let r := d.rate p
    if !d.laneLive p || d.stage p ≠ 5 || x.idle.isSome then d
    else if isCamera p then
      if !go then d
      else if d.get (Reg.LANE_PORT_CFG_p.MAX_RATE p) < rate then d.portDown p 9 0
      else d.modPort p fun x => { x with
        idle := some (tbPlus d.tb (cdiv (7 * 528) (10 * 2 ^ r) + 16000), rate % 4), relock := false, deskewed := false }
    else if x.relock then
      if done && rate == r then (d.modPort p fun x => { x with doneIn := true }).rateCheck p else d
    else if rate = r + 1 then
      let d := d.modPort p fun x => { x with steps := x.steps + 1 }
      if x.steps + 1 = 3 then d.sendGo p rate else d
    else d

/-- STEP_IDLE_END: the 16 us of electrical idle are over; training resumes at the new rate. -/
def execStepIdleEnd (dt : Nat) (p : Nat) (s : State) : Host.Outcome State Fault Refusal :=
  s.act dt fun d =>
    let x := d.port p
    match x.idle with
    | none => d
    | some (t, rate) =>
      if !d.laneLive p || d.stage p ≠ 5 || d.since t ≥ 2 ^ 63 then d
      else
        let d := (d.put (Reg.LANE_PORT_STAT_p.RATE p) rate).put (Reg.LANE_PORT_STAT_p.LOCKED p) 0
        let d := (d.setStage p 5).modPort p fun x => { x with
          idle := none, relock := true, doneIn := false, deskewed := false, steps := 0, hunt := List.replicate 4 0 }
        d.transmit p (d.training p)

/-- DONE_TIMEOUT: no DONE within 1 ms at the new rate (R254). -/
def execDoneTimeout (dt : Nat) (p : Nat) (s : State) : Host.Outcome State Fault Refusal :=
  s.act dt fun d =>
    let x := d.port p
    if d.laneLive p && decide (d.stage p = 5) && x.relock && x.idle.isNone && decide (1000000 ≤ d.since x.stageAt) then
      if x.fallback || isCamera p then d.portDown p 7 0 else d.fallBack p
    else d

/-- The timeout of a bring-up stage in ns, its fault, and whether the fault names a lane (R250). -/
def stageTimeout : Nat → Option (Nat × Nat)
  | 1 => some (100000, 12)
  | 2 => some (1000000, 2)
  | 3 => some (100000, 3)
  | 4 => some (10000000, 4)
  | 5 => some (1000000, 7)
  | _ => none

/-- BRINGUP_TIMEOUT: a bring-up stage passes its timeout. -/
def execBringupTimeout (dt : Nat) (p : Nat) (s : State) : Host.Outcome State Fault Refusal :=
  s.act dt fun d =>
    let x := d.port p
    match stageTimeout (d.stage p) with
    | none => d
    | some (t, fault) =>
      if !d.laneLive p || x.relock || x.idle.isSome || decide (d.since x.stageAt < t) then d
      else d.portDown p fault (if fault = 12 then clockMacro p else if fault = 2 then d.firstUnlocked p
        else if fault = 3 then x.late else 0)

/-- RELOCK_TIMEOUT: lock and deskew not regained within 100 us. -/
def execRelockTimeout (dt : Nat) (p : Nat) (s : State) : Host.Outcome State Fault Refusal :=
  s.act dt fun d =>
    if d.laneLive p && decide (d.stage p = 7) && decide (100000 ≤ d.since (d.port p).stageAt) then
      d.portDown p (d.get (Reg.LANE_PORT_STAT_p.FAULT p)) (d.get (Reg.LANE_PORT_STAT_p.FAULT_LANE p))
    else d

/-- PORT_RETRY: RETRY_MS after DOWN, bring-up runs again. -/
def execPortRetry (dt : Nat) (p : Nat) (s : State) : Host.Outcome State Fault Refusal :=
  s.act dt fun d =>
    if d.laneLive p && decide (d.stage p = 9) && decide (d.get (Reg.LANE_PORT_CFG_p.RETRY_MS p) * 1000000 ≤ d.since (d.port p).stageAt) then
      d.bringUp p
    else d

/-! ## Sleep and wake (R259 to R261) -/

/-- TX_SLEEP_TIMEOUT: a transmitter with nothing to send for SLEEP_IDLE us. -/
def execTxSleepTimeout (dt : Nat) (p : Nat) (s : State) : Host.Outcome State Fault Refusal :=
  s.act dt fun d =>
    if d.laneLive p && !isCamera p && decide (d.mode ≠ .run) && decide (d.stage p = 6) && d.on (Reg.LANE_PORT_CFG_p.SLEEP_EN p)
        && !d.compat p && !d.on (Reg.LANE_PORT_STAT_p.TX_IDLE p)
        && decide (d.get (Reg.LANE_PORT_CFG_p.SLEEP_IDLE p) * 1000 ≤ d.since (d.port p).lastTx) then
      ((d.sendBlocks p 8 0x66 []).put (Reg.LANE_PORT_STAT_p.TX_IDLE p) 1).transmit p .off
    else d

/-- A received SLEEP is obeyed; in RUN on a head or ring port it is counted and answered with WAKE (R261). -/
def Dev.sleepIn (d : Dev) (p : Nat) : Dev :=
  let d := d.put (Reg.LANE_PORT_STAT_p.RX_IDLE p) 1
  if d.mode = .run ∧ !isCamera p then ((d.bump (Reg.LANE_CNT2_p.RELOCKS p)).wakeTx p).sendBlocks p 1 0x99 [] else d

/-- A received RESYNC: the far receiver has lost lock, and the transmitter trains, or has regained it (R265). -/
def Dev.resyncIn (d : Dev) (p : Nat) (regained : Bool) : Dev :=
  let d := d.modPort p fun x => { x with farLost := !regained }
  d.transmit p (if regained then d.idling p else d.training p)

/-- A received LOOP begins or ends far-end loopback: the received stream goes out on the transmit lanes (R263). -/
def Dev.loopIn (d : Dev) (p : Nat) (begin_ : Bool) : Dev :=
  (d.modPort p fun x => { x with loop := begin_ }).transmit p (if begin_ then .loopback else d.idling p)

/-- A received TEST: a pattern follows on a set of lanes (R262). -/
def Dev.testIn (d : Dev) (p pattern lanes : Nat) : Dev := d.modPort p fun x => { x with farTest := some (pattern % 4, lanes % 16) }

/-- A port takes control blocks: it is UP. In RELOCK received blocks are discarded (R265). -/
def Dev.takesBlocks (d : Dev) (p : Nat) : Bool := d.laneLive p && decide (d.stage p = 6)

/-- SLEEP_BLOCK. -/
def execSleepBlock (dt : Nat) (p : Nat) (s : State) : Host.Outcome State Fault Refusal :=
  s.act dt fun d => if d.takesBlocks p then d.sleepIn p else d

/-- WAKE_BLOCK: the far side wants this transmitter awake. -/
def execWakeBlock (dt : Nat) (p : Nat) (s : State) : Host.Outcome State Fault Refusal :=
  s.act dt fun d => if d.takesBlocks p then d.wakeTx p else d

/-- WAKE_TIMEOUT: no lock 20 us after the first clock edge. -/
def execWakeTimeout (dt : Nat) (p : Nat) (s : State) : Host.Outcome State Fault Refusal :=
  s.act dt fun d =>
    match (d.port p).wakeAt with
    | none => d
    | some t => if d.laneLive p && decide (d.stage p = 6) && !d.allLocked p && decide (20000 ≤ d.since t) then d.portDown p 8 (d.firstUnlocked p) else d

/-- RESYNC_BLOCK: the far receiver has lost (`regained` false) or regained lock. -/
def execResyncBlock (dt : Nat) (p : Nat) (regained : Bool) (s : State) : Host.Outcome State Fault Refusal :=
  s.act dt fun d => if d.takesBlocks p then d.resyncIn p regained else d

/-! ## Tests (R262 to R264) -/

/-- LOOP_BLOCK: begin or end of far-end loopback. -/
def execLoopBlock (dt : Nat) (p : Nat) (begin_ : Bool) (s : State) : Host.Outcome State Fault Refusal :=
  s.act dt fun d => if d.takesBlocks p then d.loopIn p begin_ else d

/-- TEST_BLOCK: a PRBS test of the far side follows. -/
def execTestBlock (dt : Nat) (p pattern lanes : Nat) (s : State) : Host.Outcome State Fault Refusal :=
  s.act dt fun d => if d.takesBlocks p then d.testIn p pattern lanes else d

/-- COMPAT_LOCK: the compatibility receiver hunts: `runs` are the K28.5 at one alignment between restarts. Four lock it; the port is UP at
its first lock (R258). -/
def execCompatLock (dt : Nat) (p : Nat) (runs : List Nat) (s : State) : Host.Outcome State Fault Refusal :=
  s.act dt fun d =>
    if !d.laneLive p || !d.compat p || d.on (Reg.LANE_PORT_STAT_p.LOCKED p) || (d.stage p ≠ 2 ∧ d.stage p ≠ 7) then d
    else
      let (ok, d) := d.hunts p 2 4 runs
      if !ok then d
      else
        let d' := d.put (Reg.LANE_PORT_STAT_p.LOCKED p) 4
        if d.stage p = 2 then d'.portUp p else d'.leaveRelock p

/-- COMPAT_LOCK_LOSS: invalid code groups or disparity errors, each `gap` groups after the one before it: each is counted, its frame is
discarded; 16 within 640 groups lose the lock (R258, R265). -/
def execCompatLockLoss (dt : Nat) (p : Nat) (gaps : List Nat) (s : State) : Host.Outcome State Fault Refusal :=
  s.act dt fun d =>
    if d.laneLive p && d.compat p && decide (d.stage p = 6) && decide (gaps ≠ []) then
      let (ages, n, lost) := windowErrs 640 16 ((d.port p).errs.getD 2 []) gaps
      let d := (d.bumpBy (Reg.LANE_CNT3_p.CODE_VIOL p) n).modPort p fun x => { x with errs := setAt x.errs 2 ages }
      if lost then (d.put (Reg.LANE_PORT_STAT_p.LOCKED p) 0).enterRelock p 2 2
      else (d.put (Reg.LANE_PORT_STAT_p.FAULT p) 10).put (Reg.LANE_PORT_STAT_p.FAULT_LANE p) 2
    else d

/-- The elastic buffer up to the next /F/: it has gained `drift` groups. A level outside 0 to 32 loses groups, and the buffer is centred
again; above 20 the /F/ is deleted, below 12 it is sent twice (R257). -/
def Dev.filler (p : Nat) (d : Dev) (drift : Int) : Dev :=
  let level : Int := (d.port p).elastic + drift
  let set (d : Dev) (n : Int) : Dev := d.modPort p fun x => { x with elastic := n.toNat }
  if level < 0 ∨ 32 < level then
    (((set d 16).bump (Reg.LANE_CNT3_p.ELASTIC p)).put (Reg.LANE_PORT_STAT_p.FAULT p) 11).put (Reg.LANE_PORT_STAT_p.FAULT_LANE p) 2
  else if 20 < level then (set d (level - 2)).wrap (Reg.LANE_FILL_p.FILL_DEL p)
  else if level < 12 then (set d (level + 2)).wrap (Reg.LANE_FILL_p.FILL_INS p)
  else set d level

/-- ELASTIC_OVERFLOW: the elastic buffer since the command before it: what it has gained before each /F/. An overflow or underflow loses code
groups and the frame in progress (R257). -/
def execElasticOverflow (dt : Nat) (p : Nat) (drifts : List Int) (s : State) : Host.Outcome State Fault Refusal :=
  s.act dt fun d =>
    if d.laneLive p && d.compat p && decide (d.stage p = 6) then drifts.foldl (Dev.filler p) d else d

/-- The transmit macros that a test or an injection of LANE_TEST_p works on: of a compatibility port only DN_0 (R255). -/
def Dev.injectLanes (d : Dev) (p : Nat) : List Nat :=
  [0, 1].filter fun m => !isCamera p && (m == 0 || !d.compat p) && bitOf (d.get (Reg.LANE_TEST_p.LANES p)) m

/-- The transmit lanes are looped to receive lanes inside the PHY (R263). -/
def Dev.looped (d : Dev) (p : Nat) : Bool := decide (d.get (Reg.LANE_TEST_p.LOOP p) = 1) && !isCamera p

/-- The receive macro that a transmit macro is looped to: DN_0 to UP, TX_0 to RX_0, TX_1 to RX_1 (R263). -/
def loopMacro (p m : Nat) : Option Nat := if p < 16 then (if m = 0 then some 2 else none) else some (m + 2)

/-- Bit errors that a locked checker sees, each `gap` bits after the one before it: counted; 64 within 1,024 bits make it reseed (R262). -/
def Dev.bitErrors (d : Dev) (p m : Nat) (gaps : List Nat) : Dev :=
  if !bitOf (d.get (Reg.LANE_TEST_STAT_p.PRBS_LOCK p)) m then d
  else
    let (ages, n, full) := windowErrs 1024 64 ((d.port p).bits.getD m []) gaps
    let d := (d.bumpBy (Reg.LANE_PRBS_ERR_p_m.ERRORS p m) n).modPort p fun x => { x with bits := setAt x.bits m ages }
    if full then
      (d.put (Reg.LANE_TEST_STAT_p.PRBS_LOCK p) (setBit (d.get (Reg.LANE_TEST_STAT_p.PRBS_LOCK p)) m false)).bump (Reg.LANE_TEST_STAT_p.PRBS_RESYNC p)
    else d

/-- The PRBS test of LANE_TEST_p starts on a port that is UP; on another TEST_EN has no effect (R262). With LOOP 1 the pins stay in
electrical idle (R263). TEST and LOOP are blocks of native mode (R255). -/
def Dev.startTest (d : Dev) (p : Nat) : Dev :=
  if d.stage p ≠ 6 then d.put (Reg.LANE_TEST_p.TEST_EN p) 0
  else
    let d := (List.range 4).foldl (fun d m => d.put (Reg.LANE_PRBS_ERR_p_m.ERRORS p m) 0) d
    let d := d.modPort p fun x => { x with bits := List.replicate 4 [] }
    let pattern := d.get (Reg.LANE_TEST_p.PATTERN p)
    let d := if d.looped p then d.transmit p .off
      else
        let d := if d.get (Reg.LANE_TEST_p.LOOP p) = 2 then d.sendBlocks p 1 0xAA [1] else d
        (d.sendBlocks p 16 0xC3 [pattern, d.get (Reg.LANE_TEST_p.LANES p)]).transmit p (.prbs pattern ((d.injectLanes p).foldl (fun n m => n + 2 ^ m) 0))
    ((d.put (Reg.LANE_TEST_STAT_p.PRBS_LOCK p) 0).setStage p 8).portLeft p

/-- An injection by a bit of LANE_TEST_p (R264). In a test over the internal loop the inverted bits reach the looped checker. -/
def Dev.injectNow (d : Dev) (p : Nat) (burst : Bool) : Dev :=
  if d.stage p ≠ 6 ∧ d.stage p ≠ 8 then d
  else
    let len := if burst then max 1 (d.get (Reg.LANE_TEST_p.BURST_LEN p)) else 1
    (d.injectLanes p).foldl (fun d m =>
      if d.stage p = 8 ∧ d.looped p then
        (match loopMacro p m with
        | some r => d.bitErrors p r (List.replicate len 1)
        | none => d)
      else d.send (.inject p m burst (d.on (Reg.LANE_TEST_p.INJ_HDR p)) len)) d

/-- A write of LANE_TEST_p: TEST_EN starts and stops a test (R262), the injection bits act in SETUP (R264). -/
def Dev.testWrite (d : Dev) (p value : Nat) : Dev :=
  if 20 ≤ p then d
  else
    let open_ := d.lkOpen
    let was := d.on (Reg.LANE_TEST_p.TEST_EN p)
    let loop := d.get (Reg.LANE_TEST_p.LOOP p)
    let d := d.writeReg (Reg.LANE_TEST_p.TEST_EN p).off value
    if !open_ then d
    else
      let on := d.on (Reg.LANE_TEST_p.TEST_EN p)
      let d := if on && !was then d.startTest p else if !on && decide (d.stage p = 8) then d.stopTest p loop else d
      let d := if bitOf value 16 then d.injectNow p false else d
      if bitOf value 17 then d.injectNow p true else d

/-- PRBS_TEST_START: LANE_TEST_p written with TEST_EN 1. -/
def execPrbsTestStart (dt : Nat) (p value : Nat) (s : State) : Host.Outcome State Fault Refusal :=
  s.act dt fun d => if bitOf value 0 then d.testWrite p value else d

/-- PRBS_TEST_STOP: LANE_TEST_p written with TEST_EN 0: LOCK and DESKEW run again at the same rate. -/
def execPrbsTestStop (dt : Nat) (p value : Nat) (s : State) : Host.Outcome State Fault Refusal :=
  s.act dt fun d => if bitOf value 0 then d else d.testWrite p value

/-- PRBS_LOCK: a checker has seeded and seen 64 error-free bits. -/
def execPrbsLock (dt : Nat) (p m : Nat) (s : State) : Host.Outcome State Fault Refusal :=
  s.act dt fun d =>
    if d.laneLive p && decide (d.stage p = 8 ∨ (d.port p).farTest.isSome) && (rxMacros p).contains m then
      (d.put (Reg.LANE_TEST_STAT_p.PRBS_LOCK p) (setBit (d.get (Reg.LANE_TEST_STAT_p.PRBS_LOCK p)) m true)).modPort p fun x => { x with
        bits := setAt x.bits m [] }
    else d

/-- PRBS_RESYNC: differing bits at a locked checker, each `gap` bits after the one before it (R262). -/
def execPrbsResync (dt : Nat) (p m : Nat) (gaps : List Nat) (s : State) : Host.Outcome State Fault Refusal :=
  s.act dt fun d => if d.laneLive p && decide (m < 4) then d.bitErrors p m gaps else d

/-- INJ_SINGLE: LANE_TEST_p written with INJ_SINGLE: one bit error on the selected transmit lanes. -/
def execInjSingle (dt : Nat) (p value : Nat) (s : State) : Host.Outcome State Fault Refusal :=
  s.act dt fun d => if bitOf value 16 then d.testWrite p value else d

/-- INJ_BURST: LANE_TEST_p written with INJ_BURST: a burst on the selected transmit lanes. -/
def execInjBurst (dt : Nat) (p value : Nat) (s : State) : Host.Outcome State Fault Refusal :=
  s.act dt fun d => if bitOf value 17 then d.testWrite p value else d

/-- What LANE_INJECT does, when it applies (R91). -/
def Dev.laneInject (d : Dev) (t : Ticket) (x : Desc) : Dev :=
  let p := x.f 6 0 5
  let m := x.f 6 5 2
  if (valueExtra x [0xFF01FF, 0, 0, 0]).isSome || 20 ≤ p || isCamera p || 2 ≤ m || (d.compat p && m == 1) then d.complete t stBadParam 6
  else
    let burst := bitOf (x.w 6) 7
    let hdr := bitOf (x.w 6) 8
    let len := if burst then max 1 (x.f 6 16 8) else 1
    let d := d.send (.inject p m burst hdr len)
    (d.capture 13 [p, m, b2n burst + 2 * b2n hdr, len]).complete t stOk 0

/-- LANE_INJECT: PARAM 0x8001 injects in coded mode in READY, RUN and HOLD (R264). -/
def execLaneInject (dt : Nat) (ring : Nat) (x : Desc) (s : State) : Host.Outcome State Fault Refusal :=
  s.act dt fun d => d.onParam ring x (· == 0x8001) readyRunHold true fun d t => d.laneInject t x

/-- LREF_OK_CHANGE: LREF goes out of or back into tolerance; ports that wait may start (R240). -/
def execLrefOkChange (dt : Nat) (ok : Bool) (s : State) : Host.Outcome State Fault Refusal :=
  s.act dt fun d =>
    let d := d.put Reg.LANE_GLB.LREF_OK (b2n ok)
    if ok && d.mode.served then
      ((List.range 20).filter fun p => (d.port p).waits && d.on (Reg.LANE_PORT_CFG_p.EN p)).foldl Dev.bringUp d
    else d

end Sys2Proof.Machine
end

