-- ==== Sys2Proof/Machine/Rings.lean ====
section
/-! DEFINITION. The host side (R74 to R107): the doorbell line, ring stops and restarts, interrupts, resets that the host asks for. -/
namespace Sys2Proof.Machine

/-! ## What the first service of the Event ring owes (R235, R389, R406, R455, R474, R485) -/

/-- The shutdown record that a reader takes (R389, R454). -/
def Dev.shutRecord (d : Dev) : Option ShutRec := mramRead (d.sense.shut.map fun x => x.map fun (y : ShutRec) => (y.seq, y))

/-- Post what the start-up rules owe. -/
def Dev.firstService (d : Dev) : Dev :=
  if !d.host.firstDue || d.evFree.isNone then d
  else
    let d := { d with host := { d.host with firstDue := false } }
    let d := d.post 0xF001 sevInfo [d.get Reg.SVC_BOOT.SLOT, d.get Reg.SVC_FW_VER.VERSION, d.get Reg.SVC_BOOT.ROLLBACK,
      d.svc.upUs % 2 ^ 32, d.svc.upCause]
    let d := match d.svc.fallback with
      | some (slot, byte) => d.post 0xF002 sevWarn [slot, byte]
      | none => d
    let d := if d.gz.alignLost then d.post 0xB036 sevWarn [] else d
    let d := d.ecc.lost.foldl (fun d o => d.postAt 0xC006 sevWarn [o] (d.loc 0 4 11 0 0 0)) d
    let d := match d.ecc.speedDown with
      | some n => d.postAt 0xC014 sevWarn [n] (d.loc 0 5 1 0 0 0)
      | none => d
    match d.shutRecord with
    | some r => if r.ack then d else
      d.post 0x6004 sevWarn [r.seq, r.cause, r.sensor, fieldOf 32 (r.readings.getD r.sensor 0), r.time % 2 ^ 32, r.time / 2 ^ 32]
    | none => d

/-! ## The doorbell line (R82 to R86) -/

/-- The doorbell line is read in the states that serve rings, and in SAFE for the Event ring (R31, R476). -/
def Dev.polls (d : Dev) : Bool := (d.mode.served || d.mode == .safe) && d.canRequest

/-- DOORBELL_POLL: every DB_POLL a 64-byte read starts, or is counted as skipped while the one before is outstanding (R83). -/
def execDoorbellPoll (dt : Nat) (s : State) : Host.Outcome State Fault Refusal :=
  s.act dt fun d =>
    if !d.polls || d.since d.host.dbLast < d.get Reg.HOST_DB_POLL.POLL * 500 then d
    else if d.host.dbBusy then ({ d with host := { d.host with dbLast := d.tb } }).bump Reg.HOST_DB_STAT.SKIPPED
    else
      let d := { d with host := { d.host with dbLast := d.tb, dbBusy := true, dbAt := d.tb, dbLim := timeoutNs d.host.cplTimeout } }
      (d.send (.hostRead 0 (d.get2 Reg.HOST_DB_ADDR_LO.ADDR_LO Reg.HOST_DB_ADDR_HI.ADDR_HI) 64)).countTags

/-- A new producer index of a ring: OVERRUN where it is more than size - 1 ahead (R98). -/
def Dev.newProd (d : Dev) (n p : Nat) : Dev :=
  if !d.on (Reg.HOST_RING_CFG_n.EN n) || (d.mode == .safe && decide (d.get (Reg.HOST_RING_CFG_n.KIND n) ≠ 3)) then d
  else
    let d := if d.published n = 0 then d.modRing n fun r => { r with fetchAt := d.tb } else d
    let d := (d.modRing n fun r => { r with old := d.get (Reg.HOST_RING_CONS_n.PROD n), loose := false }).put (Reg.HOST_RING_CONS_n.PROD n) p
    if !d.on (Reg.HOST_RING_STAT_n.STOPPED n) && decide (2 ^ d.get (Reg.HOST_RING_CFG_n.LOG2SIZE n) ≤ d.published n) then d.stopRing n 1 else d

/-- A ring whose next descriptor reads OWN = 0, at this poll (R85). -/
def Dev.ownMissing (d : Dev) (n : Nat) : Dev :=
  if !d.on (Reg.HOST_RING_CFG_n.EN n) || d.on (Reg.HOST_RING_STAT_n.STOPPED n) || d.published n = 0 then d
  else
    let k := (d.ringSt n).ownRetry + 1
    let d := d.modRing n fun r => { r with ownRetry := k }
    if k = 4 then (d.modRing n fun r => { r with ownRetry := 0 }).stopRing n 4 else d

/-- A DOORBELL capture record: the words changed since the last one, at most once per 2 us (R495). -/
def Dev.doorbellRecord (d : Dev) : Dev :=
  let now := (List.range 32).map fun n => d.get (Reg.HOST_RING_CONS_n.PROD n)
  let changed := (List.range 32).filter fun n => decide (now.getD n 0 ≠ d.recd.dbWords.getD n 0)
  if d.recd.cap != .running || changed = [] || d.since d.recd.dbAt < 2000 then d
  else
    let d := { d with recd := { d.recd with dbAt := d.tb, dbWords := now } }
    d.capture 3 (leBytes 4 (changed.foldl (fun m n => m + 2 ^ n) 0) ++ (changed.map fun n => leBytes 2 (now.getD n 0)).flatten)

/-- DOORBELL_READ_DONE: the line has come, or the read has failed; `missing` are the rings whose next descriptor reads OWN = 0, `evs` the
published Event descriptors that are not plain empty ones, by index. What each ring published before is older work in the order of R86. -/
def execDoorbellReadDone (dt : Nat) (line : Fetch) (missing : List Nat) (evs : List (Nat × Desc)) (s : State) : Host.Outcome State Fault Refusal :=
  s.act dt fun d =>
    if !d.host.dbBusy then d
    else match fetched line 64 with
      | .error code => (d.doorbellFail code).countTags
      | .ok bs =>
        if (struckAt line).isSome then (d.doorbellFail stPoisoned).countTags
        else
          let d := { d with host := { d.host with dbBusy := false, turn := 0, evDescs := evs.foldl (fun m (i, x) => kvPut m (i % 65536) x) d.host.evDescs } }
          let d := d.moved 0 64
          let d := (List.range 32).foldl (fun d n => d.newProd n (leAt bs (2 * n) 2)) d
          let d := (List.range 32).foldl (fun d n =>
            if missing.contains n then d.ownMissing n else d.modRing n fun r => { r with ownRetry := 0 }) d
          ((d.doorbellRecord.countTags).firstService).flushEvents.capMove

/-! ## Interrupts (R96) -/

/-- MSIX_UNMASK: a write of one word of the MSI-X table in BAR2: message address, data, or the mask bit of a vector (R41). Unmasking a
vector with its pending bit set sends its message (R96). -/
def execMsixUnmask (dt : Nat) (v word value : Nat) (s : State) : Host.Outcome State Fault Refusal :=
  s.act dt fun d =>
    if 32 ≤ v then d
    else
      let x := value % 2 ^ 32
      let entry (f : Nat × Nat × Nat → Nat × Nat × Nat) : Dev := { d with host := { d.host with msixTable := modAt d.host.msixTable v f } }
      match word with
      | 0 => entry fun (_, hi, n) => (x, hi, n)
      | 1 => entry fun (lo, _, n) => (lo, x, n)
      | 2 => entry fun (lo, hi, _) => (lo, hi, x)
      | 3 => ({ d with host := { d.host with msixMask := setBit d.host.msixMask v (bitOf value 0) } }).sendPending
      | _ => d

/-- INTERRUPT_COALESCE_TIMEOUT: the oldest unsignalled completion of a ring is COAL_US old. -/
def execInterruptCoalesceTimeout (dt : Nat) (n : Nat) (s : State) : Host.Outcome State Fault Refusal :=
  s.act dt fun d =>
    let us := d.get (Reg.HOST_RING_COAL_n.COAL_US n)
    let r := d.ringSt n
    if n < 32 ∧ us ≠ 0 ∧ r.unsig ≠ 0 ∧ us * 1000 ≤ d.since r.oldest then d.signalRing n else d

/-! ## Descriptors -/

/-- NOP completes when it is taken (R90). -/
def execNop (dt : Nat) (ring : Nat) (x : Desc) (s : State) : Host.Outcome State Fault Refusal :=
  s.act dt fun d => d.onTake (d.take ring x 0) fun d t => d.complete t stOk 0

/-- A stopped ring and its channel go on (R99, R100). CAUSE reads 0 again (DESIGN CHOICE, log entry 147). -/
def Dev.restartRing (d : Dev) (n : Nat) : Dev :=
  ((d.put (Reg.HOST_RING_STAT_n.STOPPED n) 0).put (Reg.HOST_RING_STAT_n.CAUSE n) 0).restartChannel (d.channelOf n)

/-- RING_RESET restarts a stopped ring other than the Command ring at NEW_CONS (R99). -/
def execRingReset (dt : Nat) (ring : Nat) (x : Desc) (s : State) : Host.Outcome State Fault Refusal :=
  s.act dt fun d =>
    d.onTake (d.take ring x 0x10) fun d t =>
      let n := x.f 4 0 5
      if !d.on (Reg.HOST_RING_CFG_n.EN n) || d.get (Reg.HOST_RING_CFG_n.KIND n) = 0 then d.complete t stBadParam 4
      else if !d.on (Reg.HOST_RING_STAT_n.STOPPED n) then d.complete t stRefused d.mode.code
      else
        let d := (d.restartRing n).put (Reg.HOST_RING_CONS_n.CONS n) (x.f 5 0 16)
        (d.modRing n fun r => { r with expSeq := none, ownRetry := 0 }).complete t stOk 0

/-- A write of HOST_RING_STAT_n with STOPPED set restarts the Command ring with the web at rest (R100). -/
def Dev.ringStatWrite (d : Dev) (n value : Nat) : Dev :=
  if n < 32 ∧ bitOf value 0 ∧ d.mode.served ∧ d.on (Reg.HOST_RING_STAT_n.STOPPED n) ∧ d.get (Reg.HOST_RING_CFG_n.KIND n) = 0
      ∧ (d.mode ≠ .run ∨ d.webAtRest) then
    (d.restartRing n).modRing n fun r => { r with ownRetry := 0 }
  else d

/-- COMMAND_RING_RESTART: a write of HOST_RING_STAT_n. -/
def execCommandRingRestart (dt : Nat) (n value : Nat) (s : State) : Host.Outcome State Fault Refusal :=
  s.act dt fun d => d.ringStatWrite n value

/-! ## Resets and power states that the host asks for (R36, R75, R76) -/

/-- GLB_STATE_CTL.FORCE_SAFE: in SELFTEST it is held until the memory fill has ended (R473). -/
def Dev.forceSafe (d : Dev) : Dev :=
  if d.mode = .selftest ∧ !d.svc.filled then { d with svc := { d.svc with forceHeld := true } } else d.enterSafe causeForce 0 0

/-- Every HOST register at its reset value. -/
def Dev.clearHostRegs (d : Dev) : Dev :=
  { d with regs := d.regs.filter fun (k, _) => !(decide (0x10000 * 8 ≤ k) && decide (k < 0x20000 * 8)) }

/-- Configuration space is at its reset values; what the link has negotiated stays. -/
def Dev.configReset (d : Dev) : Dev :=
  let h := Dev.reset.host
  { d with host := { d.host with dbBusy := false, msixMask := h.msixMask, msixPend := 0, msixTable := h.msixTable, busMaster := h.busMaster
                                 d3hot := false, cplTimeout := 0 }
           dma := { d.dma with maxRead := Dev.reset.dma.maxRead, maxPayload := Dev.reset.dma.maxPayload } }

/-- FUNCTION_LEVEL_RESET: a configuration write, which is retried before step 8 of R470 (R471). As FORCE_SAFE, then the PCIE side is reset with crossings 1 and 2 marked joint, and configuration space and the
HOST registers are at their reset values (R75, R436). -/
def execFunctionLevelReset (dt : Nat) (s : State) : Host.Outcome State Fault Refusal :=
  s.act dt fun d =>
    if !d.svc.configOk then d else
    let d := d.forceSafe.flushPcie.clearHostRegs.configReset
    { d with host := { d.host with rings := Dev.reset.host.rings, taken := [], deferred := [], evDescs := [], turn := 0 } }

/-- D3HOT_ENTRY: a write of the power state. D3hot in RUN and HOLD is as FORCE_SAFE (R75); back in D0 the function keeps its
configuration (PRESUMED, log entry 148) and goes on with what waits. -/
def execD3hotEntry (dt : Nat) (enter : Bool) (s : State) : Host.Outcome State Fault Refusal :=
  s.act dt fun d =>
    if !d.svc.configOk then d else
    if enter then
      let d := if d.mode = .run ∨ d.mode = .hold then d.forceSafe else d
      { d with host := { d.host with d3hot := true } }
    else ({ d with host := { d.host with d3hot := false } }).drainAll

/-- BUS_MASTER_DISABLE: a write of Bus Master Enable. Cleared with any ring enabled it is as FORCE_SAFE (R76); set, requests go on. -/
def execBusMasterDisable (dt : Nat) (enable : Bool) (s : State) : Host.Outcome State Fault Refusal :=
  s.act dt fun d =>
    if !d.svc.configOk then d else
    let d := { d with host := { d.host with busMaster := enable } }
    if enable then d.drainAll
    else if (List.range 32).any fun n => d.on (Reg.HOST_RING_CFG_n.EN n) then d.forceSafe else d

/-- DEVICE_CONTROL_2_WRITE: a configuration write of Device Control 2 sets the Completion Timeout Value for later reads (R126); one of Device
Control sets Max Payload Size and Max Read Request Size, as far as the device has them (R74; the places of the fields are PRESUMED, log
entry 149). -/
def execDeviceControl2Write (dt : Nat) (control : Bool) (value : Nat) (s : State) : Host.Outcome State Fault Refusal :=
  s.act dt fun d =>
    if !d.svc.configOk then d else
    if control then { d with dma := { d.dma with
      maxPayload := min 512 (128 * 2 ^ bitsOf value 5 3), maxRead := min 4096 (128 * 2 ^ bitsOf value 12 3) } }
    else { d with host := { d.host with cplTimeout := value % 16 } }

/-! ## What the host reads of the PCI Express function (R41, R42, R74, R126) -/

/-- The n for which 128 x 2^n is a size in bytes, as Device Control holds it. -/
def sizeCode (bytes : Nat) : Nat := Nat.log2 (bytes / 128)

/-- A word of configuration space that the spec fixes: of the header (space 2) identification, command with Bus Master Enable, revision and
class, subsystem; of the PCI Express capability (3) Device Control, Link Status, Device Capabilities 2 (timeout ranges A and B, no disable)
and Device Control 2; of Device Serial Number (4) its number. The places of the fields are PRESUMED (log entry 149). -/
def Dev.configWord (d : Dev) (space off : Nat) : Option Nat :=
  match space, off with
  | 2, 0x00 => some 0x02621F3C
  | 2, 0x04 => some (4 * b2n d.host.busMaster + 2)
  | 2, 0x08 => some (0x118000 * 256 + 0xB0)
  | 2, 0x2C => some d.svc.subsystem
  | 3, 0x08 => some (32 * sizeCode d.dma.maxPayload + 4096 * sizeCode d.dma.maxRead)
  | 3, 0x10 => some (2 ^ 16 * (d.host.linkSpeed + 16 * d.host.linkWidth))
  | 3, 0x24 => some 0x3
  | 3, 0x28 => some d.host.cplTimeout
  | 4, 0x04 => some (Config.serialNumber % 2 ^ 32)
  | 4, 0x08 => some (Config.serialNumber / 2 ^ 32 % 2 ^ 32)
  | _, _ => none

/-- A word of BAR2: the MSI-X table and the pending-bit array; the rest reads 0 (R41). -/
def Dev.bar2Word (d : Dev) (off : Nat) : Nat :=
  if off < 512 then
    let (lo, hi, x) := d.host.msixTable.getD (off / 16) (0, 0, 0)
    [lo, hi, x, b2n (bitOf d.host.msixMask (off / 16))].getD (off % 16 / 4) 0
  else if off = 0x8000 then d.host.msixPend % 2 ^ 32
  else 0

/-- FORCE_SAFE: a write of GLB_STATE_CTL that sets it acts on it alone (R36). -/
def execForceSafe (dt : Nat) (value : Nat) (s : State) : Host.Outcome State Fault Refusal :=
  s.act dt fun d => if bitOf value 2 && decide (d.mode ≠ .off) then d.forceSafe else d

end Sys2Proof.Machine
end

