-- ==== Sys2Proof/Machine/Jobs.lean ====
section
/-! DEFINITION. The job model (R91, R92, R101 to R106): JOB_OPEN, SPLICE_AT, JOB_CLOSE, and the end of a job. -/
namespace Sys2Proof.Machine

/-! ## JOB_OPEN -/

/-- The line store that a full FIFO of a job needs, bytes (R270). -/
def Dev.lineStoreNeed (d : Dev) (bits : Nat) : Nat :=
  let w := d.linksOn.foldl (fun a n => (List.range (d.rowsOf n)).foldl (fun a r => a + d.rowWords n r bits) a) 0
  d.get Reg.LINK_FIFO.DEPTH * 8 * w

/-- A job's depth fits the links and the line store (R270). -/
def Dev.depthFits (d : Dev) (code : Nat) : Bool :=
  let compat (n : Nat) : Bool := d.on (Reg.LANE_PORT_CFG_p.MODE n)
  let has (n : Nat) : Bool := bitOf (d.get (Reg.LANE_FAR_CAP_LO_p.CAP_LO n)) (20 + code)
  !(d.linksOn.any fun n => (compat n && code == 2) || (!compat n && d.portIsUp n && !has n))
    && decide (d.lineStoreNeed (depthBits code) ≤ d.get Reg.LINK_LS.MIB * 2 ^ 20)

/-- The check of a JOB_OPEN that fails first: status and detail (R91, R101, R162, R270). -/
def Dev.jobOpenCheck (d : Dev) (x : Desc) : Option (Nat × Nat) :=
  let tag := x.f 4 0 8
  let ring := x.f 4 16 5
  if tag = 0 then some (stBadParam, 4)
  else if d.duplexed && d.duplex == .syncing && !d.net.jobs.any fun j => j.1 == tag then some (stNoJob, 0)
  else if (d.job? tag).isSome || 2 ≤ d.jobs.length + d.twl.waiting.length then some (stJobBusy, 0)
  else if x.f 4 12 2 = 3 then some (stBadParam, 4)
  else if !d.on (Reg.HOST_RING_CFG_n.EN ring) || d.get (Reg.HOST_RING_CFG_n.KIND ring) ≠ 2 then some (stNoRing, 0)
  else if x.w 5 < 16 ∨ 65536 < x.w 5 then some (stBadParam, 5)
  else if 16384 < x.w 6 then some (stBadParam, 6)
  else if (x.f 7 0 16 = 0) ≠ (x.f 7 16 16 = 0) then some (stBadParam, 7)
  else if d.live?.isSome ∧ (x.w 10 ≠ 0 ∨ x.f 11 0 16 ≠ 0) then some (stBadParam, 10)
  else if d.get Reg.PIPE_GZ_CFG.CH_M1 < x.f 4 8 3 then some (stBadParam, 4)
  else if !d.depthFits (x.f 4 12 2) then some (stBadParam, 4)
  else none

/-- JOB_OPEN; while loads wait for the live job's switch, the job is created once that has been made (R185). -/
def execJobOpen (dt : Nat) (ring : Nat) (x : Desc) (s : State) : Host.Outcome State Fault Refusal :=
  s.act dt fun d =>
    d.onTake (d.take ring x 0x01) fun d t =>
      match d.jobOpenCheck x with
      | some (code, detail) => d.complete t code detail
      | none =>
        if d.live?.isSome ∧ d.twl.pending ≠ 0 then { d with twl := { d.twl with waiting := d.twl.waiting ++ [(t, x)] } }
        else d.createJob t x

/-! ## SPLICE_AT (R92) -/

/-- Damask has begun composing a line: it is the line to compose next. -/
def Dev.begunPast (d : Dev) (tag line : Nat) : Bool :=
  match d.dmk.front with
  | none => false
  | some (t, l) => if t = tag then decide (line < l) else match d.job? t with
    | some k => k.spliceAt.isSome || (k.phase == .live && (match d.job? tag with | some j => j.phase == .ending | none => false))
    | none => false

/-- SPLICE_AT schedules a splice slot for a staged job at a repeat end of the live job. -/
def execSpliceAt (dt : Nat) (ring : Nat) (x : Desc) (s : State) : Host.Outcome State Fault Refusal :=
  s.act dt fun d =>
    d.onTake (d.take ring x 0x05) fun d t =>
      let pos : Nat := x.w 4 + 2 ^ 32 * x.f 5 0 16
      let tag := x.f 6 0 8
      if d.on Reg.REC_RPL_CFG.EN then d.complete t stRefused d.mode.code
      else match d.live?, d.job? tag with
      | none, _ => d.complete t stNoJob 0
      | some _, none => d.complete t stNoJob 0
      | some j, some k =>
        if k.phase ≠ .staged then d.complete t stNotStaged 0
        else if (d.jobs.any fun o => o.spliceAt.isSome) || j.endFrame.isSome then d.complete t stJobBusy 0
        else
          let dist : Nat := fieldOf 48 ((pos : Int) - ((j.j0 : Nat) : Int))
          let per := 256 * j.repeat_
          let kf := dist / per
          if dist % per ≠ 0 ∨ kf = 0 ∨ (j.frames ≠ 0 ∧ j.frames < kf) then d.complete t stSpliceNotFrame 0
          else if d.passed pos || d.begunPast j.tag (kf * j.repeat_) then d.complete t stSpliceLate 0
          else match d.schedule 0 ⟨pos, .splice tag, .line⟩ with
            | none => (d.calendarFull 0 pos).complete t stCalFull 0
            | some d => (d.modJob tag fun k => { k with spliceAt := some pos }).complete t stOk 0

/-! ## JOB_CLOSE (R105) -/

/-- Descriptors of a discarded job that were fetched ahead complete with FLUSHED, in ring order (R105). -/
def Dev.flushAhead (d : Dev) (ahead : List (Nat × Desc)) : Dev :=
  ahead.foldl (fun d (r, y) => if y.op ≠ 0x20 ∧ y.op ≠ 0x28 then d else d.onTake (d.take r y y.op) fun d t => d.complete t stFlushed 0) d

/-- A job in OPEN or STAGED is discarded. -/
def Dev.discardJob (d : Dev) (j : Job) (ahead : List (Nat × Desc)) : Dev :=
  let d := (d.cal.staging.filter fun s => s.tag == j.tag).foldl (fun d s => d.complete s.ticket stFlushed 0) d
  let d := d.freeSlots fun a => match a with
    | .splice tag => tag == j.tag
    | _ => false
  let d := (d.freeBank j.tag).flushAhead (ahead.filter fun (_, y) => y.f 4 0 8 == j.tag)
  let d := match d.dmk.front with
    | some (t, _) => if t = j.tag then { d with dmk := { d.dmk with front := none } } else d
    | none => d
  let frames := d.chk.frames.filter fun f => f.tag != j.tag
  ({ d with chk := { d.chk with frames := frames } }).freeJob j.tag

/-- JOB_CLOSE. `ahead` are the Content and Record descriptors fetched ahead (R84). -/
def execJobClose (dt : Nat) (ring : Nat) (x : Desc) (ahead : List (Nat × Desc)) (s : State) : Host.Outcome State Fault Refusal :=
  s.act dt fun d =>
    d.onTake (d.take ring x 0x06) fun d t =>
      match d.job? (x.f 4 0 8) with
      | none => d.complete t stNoJob 0
      | some j =>
        match j.phase with
        | .opened => (d.discardJob j ahead).complete t stOk 0 |>.restCheck
        | .staged =>
          if j.spliceAt.isSome && (match d.dmk.front with | some (tg, l) => tg == j.tag && decide (l ≠ 0) | none => false) then
            d.complete t stJobLate 0
          else (d.discardJob j ahead).complete t stOk 0 |>.restCheck
        | .ending => d.modJob j.tag fun j => { j with closers := j.closers ++ [t] }
        | .live =>
          let f := if x.w 5 = 0xFFFFFFFF then j.frameInPrint d.pos.pw else x.w 5
          if d.begunPast j.tag ((f + 1) * j.repeat_) then d.complete t stJobLate 0
          else
            let d := (d.modJob j.tag fun j => { j with endFrame := some f, closers := j.closers ++ [t] }).endReached
            if d.live?.isSome then d else d.retireJobs

end Sys2Proof.Machine
end

