-- ==== Sys2Proof/Machine/Layouts.lean ====
section
/-! DEFINITION. TABLE_LOAD in general (R91, R93, R534), layouts (R157 to R162), glyph sets (R166, R167) and records (R163 to R165). -/
namespace Sys2Proof.Machine

/-! ## TABLE_LOAD -/

/-- DETAIL of a load whose data are poisoned (R378). -/
def detailPoison : Nat := 0xFFFE

def tlKind (x : Desc) : Nat := x.f 4 0 8
def tlInst (x : Desc) : Nat := x.f 4 8 8
def tlTag (x : Desc) : Nat := x.f 4 16 8
def tlOfs (x : Desc) : Nat := x.w 5

/-- Take a TABLE_LOAD of a kind and check LEN; a KIND that R93 does not have completes with BAD_PARAM. -/
def Dev.takeTable (d : Dev) (ring : Nat) (x : Desc) (kind : Nat) : Take :=
  if x.op == 0x03 && tlKind x != kind && decide (1 ≤ tlKind x ∧ tlKind x ≤ 0x0B) then .no
  else match d.take ring x 0x03 with
    | .go d t =>
      if x.len % 8 ≠ 0 ∨ x.len < 8 ∨ 16777216 < x.len then .done (d.complete t stBadLength 0)
      else if tlKind x ≠ kind then .done (d.complete t stBadParam 4)
      else .go d t
    | r => r

/-- Take a load of a device-wide table: TAG 0, an instance below `insts`, an offset and a length that the kind allows (R533, R534). -/
def Dev.deviceTable (d : Dev) (ring : Nat) (x : Desc) (kind insts : Nat) (ofsOk : Nat → Nat → Bool) (lenOk : Nat → Bool)
    (f : Dev → Ticket → Dev) : Dev :=
  d.onTake (d.takeTable ring x kind) fun d t =>
    if tlTag x ≠ 0 ∨ insts ≤ tlInst x then d.complete t stBadParam 4
    else if !ofsOk (tlOfs x) x.len then d.complete t stBadParam 5
    else if !lenOk x.len then d.complete t stBadLength 0
    else f d t

/-- The data of a load: CRC (R91), then poison (R378), then the contents' own checks. -/
def Dev.tableData (d : Dev) (t : Ticket) (x : Desc) (f : Fetch) (k : Dev → List Nat → Dev) : Dev :=
  d.onData t x f fun d bytes struck =>
    let d := d.dataCrc (crc32c bytes) t.crc
    if crc32c bytes ≠ t.crc then d.complete t stCrc 0
    else if struck.isSome then d.complete t stTableBad detailPoison
    else k d bytes

/-! ## Layouts (R158 to R160) -/

def layWidth (bs : List Nat) : Nat := leAt bs 0 4
def layLayers (bs : List Nat) : Nat := leAt bs 4 1
def layFields (bs : List Nat) : Nat := leAt bs 5 1
def layBase (bs : List Nat) (c : Nat) : Nat := leAt bs (8 + 2 * c) 2

/-- One layer of a layout. -/
structure Layer where
  kind : Nat
  flags : Nat
  ops : Nat
  x : Int
  y : Int
  fill : List Nat
  /-- Bytes 28 to 63. -/
  rest : List Nat
  deriving DecidableEq, Repr

/-- Layer `i` of a layout (R159). -/
def layerAt (bs : List Nat) (i : Nat) : Layer :=
  let l := (bs.drop (64 + 64 * i)).take 64
  ⟨leAt l 0 1, leAt l 1 1, leAt l 2 2, signedOf 32 (leAt l 4 4), signedOf 32 (leAt l 8 4), (List.range 8).map (fun c => leAt l (12 + 2 * c) 2), l.drop 28⟩

/-- The operator for channel `c`: 0 NONE, 1 REPLACE, 2 DARKEN, 3 KNOCKOUT. -/
def Layer.op (l : Layer) (c : Nat) : Nat := l.ops / 4 ^ c % 4
def Layer.rot (l : Layer) : Nat := l.flags % 4
def Layer.bilinear (l : Layer) : Bool := bitOf l.flags 2
def Layer.clear (l : Layer) : Bool := bitOf l.flags 3
def Layer.qzSuspect (l : Layer) : Bool := bitOf l.flags 4
def Layer.gs1 (l : Layer) : Bool := bitOf l.flags 5
def Layer.b (l : Layer) (o : Nat) : Nat := leAt l.rest (o - 28) 1
def Layer.h (l : Layer) (o : Nat) : Nat := leAt l.rest (o - 28) 2
def Layer.stream (l : Layer) : Nat := l.h 28
def Layer.field (l : Layer) : Nat := l.b 28
def Layer.boxW (l : Layer) : Nat := l.h 32
def Layer.boxH (l : Layer) : Nat := l.h 34
def Layer.track (l : Layer) : Int := signedOf 16 (l.h 38)
def Layer.sym (l : Layer) : Nat := l.b 29
def Layer.size (l : Layer) : Nat := l.b 30
def Layer.module (l : Layer) : Nat := l.b 31
def Layer.qz (l : Layer) : Nat := l.b 32
def Layer.barH (l : Layer) : Nat := l.h 34
/-- MAX_LEN of a text or a code layer. -/
def Layer.maxLen (l : Layer) : Nat := if l.kind = 2 then l.h 40 else l.h 36
/-- The layer draws a record field. -/
def Layer.isField (l : Layer) : Bool := l.kind == 2 || l.kind == 3

/-- The layers of a layout. -/
def layersOf (bs : List Nat) : List Layer := (List.range (layLayers bs)).map (layerAt bs)

/-- A PSO cue of the header: output, level, edge, valid, offset. -/
def cueAt (bs : List Nat) (k : Nat) : Nat × Bool × Bool × Bool × Nat :=
  let b := leAt bs (24 + 5 * k) 1
  (b % 16, bitOf b 4, bitOf b 5, bitOf b 7, leAt bs (25 + 5 * k) 4)

/-- Every byte from `o` on is 0. -/
def zeroFrom (l : List Nat) (o : Nat) : Bool := (l.drop o).all (· == 0)

/-- The header passes R157 and R158. -/
def layHeaderOk (j : Job) (bs : List Nat) : Bool :=
  decide (bs.length = 64 + 64 * layLayers bs) && decide (1 ≤ layLayers bs) && decide (layLayers bs ≤ 64)
  && decide (1 ≤ layWidth bs) && decide (layWidth bs ≤ 65536) && decide (layWidth bs * j.channels ≤ 262144)
  && decide (layFields bs ≤ 32) && decide (leAt bs 6 2 = 0)
  && ((List.range 8).all fun c => decide (layBase bs c < if c < j.channels then 4096 else 1))
  && ((List.range 8).all fun k =>
      let (_, _, _, valid, ofs) := cueAt bs k
      if valid then !bitOf (leAt bs (24 + 5 * k) 1) 6 && decide (ofs < 256 * j.repeat_) else decide (leAt bs (24 + 5 * k) 5 = 0))

/-- Bytes 28 to 63 of a layer are in the ranges of R160. -/
def layerRestOk (fields : Nat) (l : Layer) : Bool :=
  match l.kind with
  | 0 | 1 => zeroFrom l.rest 2
  | 2 => decide (l.field < fields) && decide (l.b 29 ≤ 63) && decide (l.b 30 ≤ 2) && decide (l.b 31 = 0) && decide (1 ≤ l.boxW)
      && decide (1 ≤ l.boxH) && decide (l.h 36 < l.boxH) && decide (-256 ≤ l.track) && decide (l.track ≤ 256)
      && decide (1 ≤ l.maxLen) && decide (l.maxLen ≤ 1024) && zeroFrom l.rest 14
  | 3 =>
    let c128 := l.sym == 2
    decide (l.field < fields) && decide (l.sym ≤ 2) && decide (l.size ≤ if l.sym = 0 then 24 else if l.sym = 1 then 6 else 0)
      && decide (1 ≤ l.module) && decide (l.module ≤ 64)
      && (if c128 then decide (10 ≤ l.qz) && decide (l.qz ≤ 32) else decide (1 ≤ l.qz) && decide (l.qz ≤ 16)) && decide (l.b 33 = 0)
      && decide (c128 = true ↔ l.barH ≠ 0)
      && decide (1 ≤ l.maxLen) && decide (l.maxLen ≤ if c128 then 80 else 2048) && zeroFrom l.rest 10
  | _ => false

/-- A layer passes R159 and R160. -/
def layerOk (j : Job) (fields : Nat) (l : Layer) : Bool :=
  decide (l.kind ≤ 3) && decide (l.flags < 64) && (l.isField || decide (l.rot = 0)) && (l.kind == 0 || !l.bilinear)
  && (l.kind == 3 || !(l.clear || l.qzSuspect || l.gs1))
  && ((List.range 8).all fun c => decide (c < j.channels) || decide (l.op c = 0))
  && (l.fill.all fun v => decide (v < if l.kind = 0 then 1 else 4096)) && layerRestOk fields l

/-- The DETAIL of the first failing check of a layout: 0xFFFF for header or LEN, else the layer; a ninth code layer fails (R161). -/
def layoutBad (j : Job) (bs : List Nat) : Option Nat :=
  if !layHeaderOk j bs then some 0xFFFF
  else
    let ls := layersOf bs
    (List.range ls.length).find? fun i => match ls[i]? with
      | none => false
      | some l => !layerOk j (layFields bs) l || (l.kind == 3 && decide (8 ≤ ((ls.take i).filter fun m => m.kind == 3).length))

/-- A cue that names a camera's trigger output or the reject mark's (R71). -/
def Dev.cueTaken (d : Dev) (bs : List Nat) : Bool :=
  (List.range 8).any fun k => (cueAt bs k).2.2.2.1 && d.psoTaken (cueAt bs k).1

/-- The DETAIL with which a layout is refused. -/
def Dev.layoutFault (d : Dev) (j : Job) (bs : List Nat) : Option Nat :=
  if d.get Reg.PIPE_GZ_NTW.NT_W < layWidth bs ∨ d.cueTaken bs then some 0xFFFF else layoutBad j bs

def Dev.layout? (d : Dev) (tag num : Nat) : Option Layout := d.dmk.layouts.find? fun l => l.tag == tag && l.num == num

/-- LAYOUT_LOAD (R157). -/
def execLayoutLoad (dt : Nat) (ring : Nat) (x : Desc) (data : Fetch) (s : State) : Host.Outcome State Fault Refusal :=
  s.act dt fun d =>
    d.onTake (d.take ring x 0x02) fun d t =>
      let tag := x.f 4 0 8
      let num := x.f 4 8 4
      if x.len < 64 ∨ 1048576 < x.len then d.complete t stBadLength 0
      else match d.job? tag with
        | none => d.complete t stNoJob 0
        | some j =>
          if j.phase ≠ .opened then d.complete t stRefused d.mode.code
          else d.tableData t x data fun d bytes =>
            match d.layoutFault j bytes with
            | some detail => d.complete t stTableBad detail
            | none =>
              let lay : Layout := ⟨tag, num, bytes⟩
              let d := d.clearPoison fun p => match p with
                | .layout t n _ => t == tag && n == num
                | _ => false
              let others := d.dmk.layouts.filter fun l => !(l.tag == tag && l.num == num)
              ({ d with dmk := { d.dmk with layouts := others ++ [lay] } }).complete t stOk 0

/-! ## Glyph sets (R166, R167) -/

/-- A glyph's directory entry. -/
structure Glyph where
  w : Nat
  h : Nat
  depth : Nat
  bx : Int
  by_ : Int
  adv : Nat
  ofs : Nat
  deriving DecidableEq, Repr

def gsGlyphs (bs : List Nat) : Nat := leAt bs 0 2
def gsFonts (bs : List Nat) : Nat := leAt bs 2 1
def gsDir (bs : List Nat) : Nat := 16 + 512 * gsFonts bs
def gsMap (bs : List Nat) : Nat := gsDir bs + 16 * gsGlyphs bs

/-- Directory entry `g`. -/
def glyphAt (bs : List Nat) (g : Nat) : Glyph :=
  let e := (bs.drop (gsDir bs + 16 * g)).take 16
  ⟨leAt e 0 1 + 1, leAt e 1 1 + 1, leAt e 2 1, signedOf 16 (leAt e 4 2), signedOf 16 (leAt e 6 2), leAt e 8 2, leAt e 10 4⟩

/-- Bytes of one row of a glyph. -/
def Glyph.rowBytes (g : Glyph) : Nat := if g.depth = 0 then cdiv g.w 8 else cdiv g.w 2

/-- The glyph index of a byte in a font, or none. -/
def fontGlyph (bs : List Nat) (font byte : Nat) : Option Nat :=
  if gsFonts bs ≤ font then none
  else
    let g := leAt bs (16 + 512 * font + 2 * byte) 2
    if g = 0xFFFF then none else some g

/-- A directory entry is in range and its glyph lies in the bitmap area. -/
def glyphOk (bs : List Nat) (g : Nat) : Bool :=
  let e := glyphAt bs g
  let o := gsDir bs + 16 * g
  decide (e.depth ≤ 1) && decide (leAt bs (o + 3) 1 = 0) && decide (leAt bs (o + 14) 2 = 0) && decide (e.ofs % 8 = 0)
    && decide (gsMap bs + e.ofs + e.h * e.rowBytes ≤ bs.length)

/-- The status and DETAIL of the first failing check of a glyph set. -/
def glyphsBad (bs : List Nat) : Option (Nat × Nat) :=
  if gsGlyphs bs < 1 ∨ 16384 < gsGlyphs bs ∨ gsFonts bs < 1 ∨ 64 < gsFonts bs ∨ !((bs.take 16).drop 3).all (· == 0) then some (stTableBad, 0xFFFF)
  else if bs.length < gsMap bs then some (stBadLength, 0)
  else if gsMap bs + 4194304 < bs.length then some (stStoreFull, 0)
  else match (List.range (256 * gsFonts bs)).find? fun k =>
      let g := leAt bs (16 + 2 * k) 2
      decide (g ≠ 0xFFFF ∧ gsGlyphs bs ≤ g) with
    | some k => some (stTableBad, 0x8000 + k)
    | none => ((List.range (gsGlyphs bs)).find? fun g => !glyphOk bs g).map fun g => (stTableBad, g)

def Dev.glyphs? (d : Dev) (tag : Nat) : Option GlyphSet := d.dmk.glyphs.find? fun g => g.tag == tag

/-- GLYPH_SET_LOAD: single-banked, in use from its job's JOB_STAGE on (R167). -/
def execGlyphSetLoad (dt : Nat) (ring : Nat) (x : Desc) (data : Fetch) (s : State) : Host.Outcome State Fault Refusal :=
  s.act dt fun d =>
    d.onTake (d.takeTable ring x 0x0A) fun d t =>
      match d.job? (tlTag x) with
      | none => d.complete t stNoJob 0
      | some j =>
        if tlInst x ≠ 0 then d.complete t stBadParam 4
        else if tlOfs x ≠ 0 then d.complete t stBadParam 5
        else if j.phase ≠ .opened then d.complete t stTableInUse 0
        else d.tableData t x data fun d bytes =>
          match glyphsBad bytes with
          | some (code, detail) => d.complete t code detail
          | none =>
            let g : GlyphSet := ⟨j.tag, bytes⟩
            let d := d.clearPoison fun p => match p with
              | .glyph tag _ => tag == j.tag
              | _ => false
            let others := d.dmk.glyphs.filter fun g => g.tag != j.tag
            ({ d with dmk := { d.dmk with glyphs := others ++ [g] } }).complete t stOk 0

/-! ## Records (R163, R164) -/

/-- Split the bytes after the first two into `n` fields, each with the offset of its data; none if they do not tile exactly. -/
def splitFields : Nat → Nat → List Nat → Option (List (Nat × List Nat))
  | 0, _, bs => if bs = [] then some [] else none
  | n + 1, o, bs =>
    let len := leAt bs 0 2 % 4096
    if bs.length < 2 + len then none
    else (splitFields n (o + 2 + len) (bs.drop (2 + len))).map fun t => (o + 2, (bs.drop 2).take len) :: t

/-- The fields of a record: offset of the data in the record, and the data. -/
def recFields (bs : List Nat) : Option (List (Nat × List Nat)) :=
  if bs.length < 2 then none else splitFields (leAt bs 0 1) 2 (bs.drop 2)

/-- The data of field `k` of a record. -/
def recField (bs : List Nat) (k : Nat) : List Nat := (((recFields bs).getD []).getD k (0, [])).2

/-- A length word carries a reserved bit. -/
def recReserved (bs : List Nat) (fs : List (Nat × List Nat)) : Bool :=
  leAt bs 1 1 != 0 || fs.any fun (o, _) => leAt bs (o - 2) 2 != leAt bs (o - 2) 2 % 4096

/-- The local box of a code field, width and height (R173). -/
def codeBox (l : Layer) (grid : Nat × Nat) : Nat × Nat :=
  ((grid.2 + 2 * l.qz) * l.module, if l.sym = 2 then l.barH else (grid.1 + 2 * l.qz) * l.module)

/-- A code layer's rotated box lies wholly within the frame. -/
def boxInFrame (l : Layer) (width height : Nat) (box : Nat × Nat) : Bool :=
  let (w, h) := if l.rot % 2 = 0 then box else (box.2, box.1)
  decide (0 ≤ l.x) && decide (0 ≤ l.y) && decide (l.x + (w : Int) ≤ (width : Int)) && decide (l.y + (h : Int) ≤ (height : Int))

/-- The lowest field for which a layer bound to it fails a check. -/
def firstField (ls : List Layer) (n : Nat) (bad : Layer → Nat → Bool) : Option Nat :=
  (List.range n).find? fun k => ls.any fun l => l.isField && decide (l.field = k) && bad l k

/-- The status and DETAIL of the first failing check of a record (R164). -/
def recordBad (j : Job) (lay : List Nat) (gs : Option (List Nat)) (bs : List Nat) : Option (Nat × Nat) :=
  match recFields bs with
  | none => some (stBadLength, 0)
  | some fs =>
    let ls := layersOf lay
    let n := fs.length
    let dat (k : Nat) : List Nat := (fs.getD k (0, [])).2
    let fail (o : Option Nat) (next : Option (Nat × Nat)) : Option (Nat × Nat) := match o with
      | some k => some (stTableBad, k)
      | none => next
    if n ≠ layFields lay ∨ recReserved bs fs then some (stTableBad, 0xFFFF)
    else
      fail (firstField ls n fun l k => decide (l.maxLen < (dat k).length)) <|
      fail (firstField ls n fun l k => l.kind == 2 && (dat k).any fun b => (match gs with
        | none => true
        | some g => (fontGlyph g (l.b 29) b).isNone)) <|
      fail (firstField ls n fun l k => l.kind == 3 && (codeGrid l.sym l.size l.gs1 (dat k)).isNone) <|
      fail (firstField ls n fun l k => l.kind == 3 && (match codeGrid l.sym l.size l.gs1 (dat k) with
        | none => true
        | some g => !boxInFrame l (layWidth lay) j.frameLines (codeBox l g))) none

/-- RECORD_PUT. The ring waits for a job that is not yet staged and while the record buffer is full (R106, R164). -/
def execRecordPut (dt : Nat) (ring : Nat) (x : Desc) (data : Fetch) (s : State) : Host.Outcome State Fault Refusal :=
  s.act dt fun d =>
    let waits := x.op == 0x28 && (decide (2048 ≤ d.dmk.records.length) || (match d.job? (x.f 4 0 8) with
      | some j => j.phase == .opened
      | none => false))
    if waits then d
    else d.onTake (d.take ring x 0x28) fun d t =>
      let tag := x.f 4 0 8
      let num := x.f 4 8 4
      if x.len < 1 ∨ 4096 < x.len then d.complete t stBadLength 0
      else match d.job? tag with
        | none => d.complete t stNoJob 0
        | some j =>
          match d.layout? tag num with
          | none => d.complete t stBadParam 4
          | some lay =>
            let j := d.firstRecord j (x.w 5)
            if x.w 5 ≠ j.nextRecord then d.complete t stRecordOrder (j.nextRecord % 65536)
            else d.onData t x data fun d bytes struck =>
              let d := d.dataCrc (crc32c bytes) t.crc
              if crc32c bytes ≠ t.crc then d.complete t stCrc 0
              else match recordBad j lay.bytes ((d.glyphs? tag).map (·.bytes)) bytes with
                | some (code, detail) => d.complete t code detail
                | none =>
                  let r : Rec := ⟨tag, j.nextRecord, num, bytes⟩
                  let bad := (struck.map fun o => Datum.record tag j.nextRecord o).toList
                  let next := (j.nextRecord + 1) % 2 ^ 32
                  let d := d.modJob tag fun j => { j with nextRecord := next }
                  ({ d with dmk := { d.dmk with records := d.dmk.records ++ [r] }
                            ecc := { d.ecc with poisoned := d.ecc.poisoned ++ bad } }).nameJoin.complete t stOk 0

end Sys2Proof.Machine
end

