-- ==== Sys2Proof/Machine/Content.lean ====
section
/-! DEFINITION. Content on its way into the stores (R137 to R140, R147, R152 to R156): CONTENT_PUT, JOB_STAGE and the contexts. -/
namespace Sys2Proof.Machine

/-! ## CONTENT_PUT -/

/-- FIRST and LAST of a buffer agree with what the stream holds (R137). -/
def Dev.bufferFits (d : Dev) (tag id : Nat) (first : Bool) : Bool :=
  match d.stream? tag id with
  | none => first
  | some s => !first && !s.last

/-- A buffer joins its stream. -/
def Dev.addBuffer (d : Dev) (tag id : Nat) (b : Buffer) (last : Bool) : Dev :=
  let fresh : Stream := ⟨tag, id, [b], last⟩
  let streams := match d.stream? tag id with
    | none => d.cal.streams ++ [fresh]
    | some _ => d.cal.streams.map fun s => if s.tag = tag ∧ s.id = id then { s with bufs := s.bufs ++ [b], last := last } else s
  Dev.storeUse { d with cal := { d.cal with streams := streams } }

/-- CONTENT_PUT: the header walk sets the status; nothing of a failing buffer is stored (R138). -/
def execContentPut (dt : Nat) (ring : Nat) (x : Desc) (data : Fetch) (s : State) : Host.Outcome State Fault Refusal :=
  s.act dt fun d =>
    d.onTake (d.take ring x 0x20) fun d t =>
      let tag := x.f 4 0 8
      let id := x.f 4 8 16
      let last := bitOf (x.w 5) 1
      if x.len < 16 ∨ 16777216 < x.len then d.complete t stBadLength 0
      else if (d.job? tag).isNone then d.complete t stNoJob 0
      else if !d.bufferFits tag id (bitOf (x.w 5) 0) then d.complete t stBadParam 5
      else d.onData t x data fun d bytes struck =>
        match headerWalk (bytes.length / 16 + 1) bytes last with
        | some code => d.complete t code id
        | none =>
          let pages := cdiv x.len 65536
          if d.get Reg.PIPE_DMK_CS_SIZE.MIB * 16 < d.csPages + pages then d.complete t stStoreFull 0
          else
            let base := match d.stream? tag id with
              | some s => s.bytes.length
              | none => 0
            let bad := (struck.map fun o => Datum.content tag id (base + o)).toList
            let d := { d with ecc := { d.ecc with poisoned := d.ecc.poisoned ++ bad } }
            (d.dramReq.addBuffer tag id ⟨bytes, pages⟩ last).complete t stOk 0

/-! ## Staging (R139, R140) -/

/-- The Content descriptor that a WAIT entry names has completed: it lies before the next expected SEQ of its ring. -/
def Dev.waitMet (d : Dev) (w : Nat) : Bool :=
  !bitOf w 31 || (match (d.ringSt (bitsOf w 16 5)).expSeq with
    | some e => decide ((e + 65536 - w % 65536 + 65535) % 65536 < 32768)
    | none => false)

/-- JOB_STAGE is taken and waits; CONTENT_STARVED where a WAIT entry is not met (R98). -/
def execJobStage (dt : Nat) (ring : Nat) (x : Desc) (s : State) : Host.Outcome State Fault Refusal :=
  s.act dt fun d =>
    d.onTake (d.take ring x 0x04) fun d t =>
      let tag := x.f 4 0 8
      let waits := [5, 6, 7, 8].map x.w
      match [5, 6, 7, 8].find? fun i => !bitOf (x.w i) 31 && decide (x.w i ≠ 0) with
      | some i => d.complete t stReserved i
      | none =>
        match d.job? tag with
        | none => d.complete t stNoJob 0
        | some j =>
          if j.phase ≠ .opened then d.complete t stNoJob 0
          else if d.cal.staging.any fun g => g.tag == tag then d.complete t stJobBusy 0
          else if waits.any fun w => bitOf w 31 && !(d.on (Reg.HOST_RING_CFG_n.EN (bitsOf w 16 5))
              && decide (d.get (Reg.HOST_RING_CFG_n.KIND (bitsOf w 16 5)) = 1)) then d.complete t stNoRing 0
          else
            let g : Staging := ⟨t, tag, waits, false, []⟩
            let d := { d with cal := { d.cal with staging := d.cal.staging ++ [g] } }
            match waits.find? fun w => !d.waitMet w with
            | some w => d.post 0x1006 sevInfo [tag, w]
            | none => d

/-- Staging fails: JOB_STAGE completes with the failure, the job stays OPEN (R140). -/
def Dev.stageFail (d : Dev) (g : Staging) (code stream : Nat) : Dev :=
  let d := { d with cal := { d.cal with staging := d.cal.staging.filter fun h => h.tag != g.tag } }
  ((d.stopDecodes g.tag).complete g.ticket code stream).startDecodes

/-- Staging fails by a decode error in a context (R140, R151). Poison that one read of the stream met is read no more. -/
def Dev.decodeFail (d : Dev) (g : Staging) (ident ctx : Nat) (e : DecErr) : Dev :=
  let d := d.ueRead (if e.poison then (d.badData.filter (calDatum ident)).take 1 else [])
  let d := ((d.put Reg.PIPE_CAL_ERR.CODE e.code).put Reg.PIPE_CAL_ERR.CTX ctx).bump Reg.PIPE_CAL_ERR.COUNT
  let d := { d with ecc := { d.ecc with once := d.ecc.once.filter fun p => !calDatum ident p } }
  (d.stageFail g e.code (ident % 65536)).calicoError ident e.seq e.offset e.blockOut e.code ctx e.poison

/-- Change a staging in progress. -/
def Dev.modStaging (d : Dev) (tag : Nat) (f : Staging → Staging) : Dev :=
  { d with cal := { d.cal with staging := d.cal.staging.map fun h => if h.tag = tag then f h else h } }

/-- The decode in a context comes to its END block, which frees the context, or to its failure. -/
def Dev.decodeEnd (tag : Nat) (d : Dev) (c : Nat) : Dev :=
  match d.cal.staging.find? (fun g => g.tag == tag && g.begun), d.ctx c with
  | some g, .decode x =>
    if x.ident / 65536 ≠ tag then d
    else match d.decodeOut x with
      | .error (e, y) => (d.countBlocks y).decodeFail g x.ident c e
      | .ok y =>
        let d := { d with ecc := { d.ecc with once := d.ecc.once.filter fun p => !calDatum x.ident p } }
        ((d.countBlocks y).modStaging tag fun h => { h with done := h.done ++ [y.counted] }).freeCtx c
  | _, _ => d

/-- Calico decodes nothing in a throttle pause (R450), nor while a sweep keeps the stack from it (R405). -/
def Dev.decodeHeld (d : Dev) : Bool := d.sense.pause.isSome || d.on Reg.MEM_DRAM_STAT.TRAINING

/-- STAGING_BEGIN: with every WAIT met, a stream with no LAST buffer fails at once, the lowest STREAM of several (R139); what CALICO_ERROR
says of its block is not stated: free values. Else the streams take the free contexts. Of a staging that has begun, the decodes in the
contexts `ends` have come to their end, and the streams that wait take the contexts they leave. -/
def execStagingBegin (dt : Nat) (tag : Nat) (ends : List Nat) (s : State) : Host.Outcome State Fault Refusal :=
  s.act dt fun d =>
    match d.cal.staging.find? fun g => g.tag == tag with
    | none => d
    | some g =>
      if g.begun then (if d.decodeHeld then d else ends.foldl (Dev.decodeEnd tag) d)
      else if !d.mode.served || g.waits.any (fun w => !d.waitMet w) then d
      else match (d.streamsOf tag).find? fun s => !s.last with
        | some s =>
          let (a, d) := d.draw 32
          let (b, d) := d.draw 32
          let (c, d) := d.draw 32
          let (e, d) := d.draw 4
          (d.stageFail g calInput s.id).calicoError (tag * 65536 + s.id) a b c calInput e false
        | none => (d.modStaging tag fun h => { h with begun := true }).startDecodes

/-! ## Planes (R154 to R156) -/

/-- Tile columns and rows, carried channels, bytes of a tile. -/
def planeShape (pkind chMask w h : Nat) : Nat × Nat × Nat × Nat :=
  (cdiv w 256, cdiv h 256, if pkind = 2 then 1 else popCount chMask 8, if pkind = 0 then 65536 else if pkind = 1 then 131072 else 8192)

/-- Decoded output as a plane: its header in range and its length exact (R154, R156). -/
def planeOf (tag stream : Nat) (bs : List Nat) : Option Plane :=
  let pkind := leAt bs 0 1
  let scale := leAt bs 1 1
  let chMask := leAt bs 2 1
  let w := leAt bs 4 4
  let h := leAt bs 8 4
  let (tw, th, ch, tb) := planeShape pkind chMask w h
  let n := tw * th * ch * tb
  if pkind ≤ 2 ∧ scale ≤ 2 ∧ (pkind = 2 → scale = 0) ∧ (pkind = 2 ↔ chMask = 0) ∧ leAt bs 3 1 = 0 ∧ 1 ≤ w ∧ w ≤ 65536 ∧ 1 ≤ h ∧ h ≤ 65536
      ∧ (((bs.take 32).drop 12).all (· == 0)) = true ∧ bs.length = 32 + n then
    some ⟨tag, stream, pkind, scale, chMask, w, h, bs.drop 32, cdiv n 65536⟩
  else none

/-- Every layer of a job's layouts that draws a plane. -/
def Dev.planeLayers (d : Dev) (tag : Nat) : List Layer :=
  ((d.dmk.layouts.filter fun l => l.tag == tag).map fun l => (layersOf l.bytes).filter fun m => decide (m.kind ≤ 1)).flatten

/-- A plane suits a layer that names it: kind, and every channel the layer operates on. -/
def planeSuits (p : Plane) (l : Layer) : Bool :=
  if l.kind = 1 then decide (p.pkind = 2)
  else decide (p.pkind ≠ 2) && (List.range 8).all fun c => decide (l.op c = 0) || bitOf p.chMask c

/-- What became of one stream at staging. -/
inductive Staged where
  | plane (p : Plane)
  | dropped
  | error (e : DecErr)
  | bad (code : Nat)
  deriving DecidableEq, Repr

/-- What a decode yields (R156): a plane, nothing that a layer names, or a failure. -/
def Dev.stagedOf (d : Dev) (tag id : Nat) (r : Except (DecErr × Dec) Dec) : Staged :=
  match r with
  | .error (e, _) => .error e
  | .ok x =>
    let named := (d.planeLayers tag).filter fun l => decide (l.stream = id)
    match planeOf tag id x.rev.reverse with
    | none => .bad stTableBad
    | some p => if named.any fun l => !planeSuits p l then .bad stTableBad else if named = [] then .dropped else .plane p

/-- Where the decode of a stream stands: it is over, it is in a context or in a save slot, or it has not started. -/
def Dev.decodeOf (d : Dev) (g : Staging) (ident : Nat) : Dec :=
  let held := d.cal.ctxs.filterMap fun x => match x with
    | .decode y => some y
    | _ => none
  ((g.done ++ held ++ d.cal.saved.map (·.dec)).find? fun x => x.ident == ident).getD (Dec.start ident)

/-- How the decode of a stream ends. -/
def Dev.decodeStream (d : Dev) (g : Staging) (ident : Nat) : Except (DecErr × Dec) Dec :=
  let x := d.decodeOf g ident
  if g.done.contains x then .ok x else d.decodeOut x

/-- The decode at the end of a run, failed or not. -/
def decOf : Except (DecErr × Dec) Dec → Dec
  | .error (_, y) => y
  | .ok y => y

/-- The planes that staging yields, in stream order. -/
def stagedPlanes (rs : List (Nat × Staged)) : List Plane := rs.filterMap fun (_, r) => match r with
  | .plane p => some p
  | _ => none

/-- The failures of a staging: stream, status, and the decode error where it is one. A stream that a layer names and the job does not
have fails as TABLE_BAD; the plane for which the tile store has no room fails as STORE_FULL (R153, R156). -/
def Dev.stageFailures (d : Dev) (tag : Nat) (rs : List (Nat × Staged)) : List (Nat × Nat × Option DecErr) :=
  let own := rs.filterMap fun (id, r) => match r with
    | .error e => some (id, e.code, some e)
    | .bad c => some (id, c, none)
    | _ => none
  let missing := ((d.planeLayers tag).map (·.stream)).filter fun id => !(rs.any fun r => r.1 == id)
  let room := (d.get Reg.PIPE_DMK_TS_SIZE.MIB - d.get Reg.LINK_LS.MIB) * 16 - d.tsPages
  let full := (stagedPlanes rs).foldl (fun (n, f) p => if room < n + p.pages ∧ f = none then (n + p.pages, some p.stream) else (n + p.pages, f)) (0, none)
  own ++ missing.map (fun id => (id, stTableBad, none)) ++ (full.2.map fun id => (id, stStoreFull, none)).toList

/-- JOB_STAGE_COMPLETE: every stream expanded and the job STAGED, or a failure. Which of several failures comes first is not fixed:
`pick` chooses one. How far the other streams had come then is not fixed either: the counts of blocks are free. Nothing ends while a
decode of the job waits in a save slot, or one that has not started waits behind a save (R147). -/
def execJobStageComplete (dt : Nat) (tag pick : Nat) (s : State) : Host.Outcome State Fault Refusal :=
  s.act dt fun d =>
    match d.cal.staging.find? fun g => g.tag == tag with
    | none => d
    | some g =>
      let waiting := d.cal.saved.any (fun v => v.dec.ident / 65536 == tag) || (d.cal.saved != [] && d.unstarted.any fun i => i / 65536 == tag)
      if !g.begun || waiting || d.decodeHeld then d
      else
        let outs := ((d.streamsOf tag).filter (·.last)).map fun s => (s.id, d.decodeStream g (tag * 65536 + s.id))
        let rs := outs.map fun (id, r) => (id, d.stagedOf tag id r)
        let fails := d.stageFailures tag rs
        match fails[pick % max 1 fails.length]? with
        | some (id, code, e) =>
          let ident := tag * 65536 + id
          let others := outs.any fun o => o.1 != id && !(g.done.any fun x => x.ident == tag * 65536 + o.1)
          let (a, d) := if others then d.draw 32 else (0, d)
          let (b, d) := if others then d.draw 16 else (0, d)
          let d := match outs.find? fun o => o.1 == id with
            | some o => d.countBlocks (decOf o.2)
            | none => d
          let d := (d.put Reg.PIPE_CAL_BLOCKS.BLOCKS (d.get Reg.PIPE_CAL_BLOCKS.BLOCKS + a)).bumpBy Reg.PIPE_CAL_FALLBACK.FB_IN b
          let held := (List.range 16).find? fun c => match d.ctx c with
            | .decode x => x.ident == ident
            | _ => false
          match e with
          | some e =>
            let (ctx, d) := match held with
              | some c => (c, d)
              | none => d.draw 4
            d.decodeFail g ident ctx e
          | none => d.stageFail g code id
        | none =>
          let d := outs.foldl (fun d o => d.countBlocks (decOf o.2)) d
          match (d.job? tag).bind fun j => (d.twlOf j).lacks j.channels with
          | some c => d.stageFail g stTableBad (0xF000 + c)
          | none =>
            let d := (d.clearPoison fun p => match p with
              | .content t _ _ => t == tag
              | _ => false).stopDecodes tag
            let n := d.cal.stageCount + 1
            let d := { d with cal := { d.cal with
              streams := d.cal.streams.filter (fun s => s.tag != tag), staging := d.cal.staging.filter (fun h => h.tag != tag), stageCount := n } }
            let d := { d.startDecodes with dmk := { d.dmk with planes := d.dmk.planes ++ stagedPlanes rs } }
            let d := (d.storeUse).modJob tag fun j => { j with phase := .staged, stageOrder := n }
            d.configAll.nameJoin.complete g.ticket stOk 0

/-- CONTEXT_RESTORE: the oldest saved decode goes to the free context `c` and goes on where it stood, with the history of its slot; a slot
that fails its STATE_CRC or check bits fails the stream with BLOCK_CHECK (R147, R148). What CALICO_ERROR then says of the block is not
stated: free values (log entry 157). -/
def execContextRestore (dt : Nat) (c : Nat) (s : State) : Host.Outcome State Fault Refusal :=
  s.actMem dt fun d m => (
    match d.cal.saved with
    | [] => d
    | v :: t =>
      if d.ctx c != .free || 16 ≤ c || d.decodeHeld then d
      else
        let x := v.dec
        let a := d.slotAddr v.slot
        let poison := d.isBad (d.slotDatum v.slot)
        let bad := poison || !recordOk (natBytes (memGet m (a + 0x10000) 256))
        let x := { x with past := (natBytes (memGet m a x.hist)).reverse }
        let d := d.dramReq.ueRead (d.badData.filter (d.slotDatum v.slot))
        let d := { d with
          cal := { d.cal with saved := t }, ecc := { d.ecc with once := d.ecc.once.filter fun p => !d.slotDatum v.slot p } }
        let d := ((d.setCtx c (.decode x)).bump Reg.PIPE_CAL_SAVES.RESTORES).saveEvent x.ident v.slot 2 x.total c
        if !bad then d.startDecodes
        else match d.cal.staging.find? fun g => g.tag == x.ident / 65536 with
          | none => d.freeCtx c
          | some g =>
            let (seq, d) := d.draw 32
            let (off, d) := d.draw 32
            let (out, d) := d.draw 32
            d.decodeFail g x.ident c ⟨calCheck, off, out, poison, seq⟩, m)

end Sys2Proof.Machine
end

