-- ==== Sys2Proof/Machine/Memory.lean ====
section
/-! DEFINITION. Poison in memories, patrol scrub and field repair (R373 to R390), and the DRAM controller (R391 to R408). -/
namespace Sys2Proof.Machine

/-! ## Poison (R376 to R378) -/

/-- A datum is stored with the poison pattern; a line frame in the send buffers goes out with FLAGS.POISON. What the position engine, the time base, the ring unit or the service processor reads all
the time is consumed at once: a fatal fault (R378). -/
def Dev.poison (d : Dev) (x : Datum) (addr loc : Nat) : Dev :=
  match x with
  | .engine => d.fatal loc
  | .other => d
  | .lineStore n r tag line => d.modEntry n r tag line fun e => { e with poison := true }
  | x => if d.ecc.poisoned.contains x then d else
    { d with ecc := { d.ecc with poisoned := d.ecc.poisoned ++ [x], places := (x, addr, loc) :: d.ecc.places.filter (·.1 != x) } }

/-- The next read of a datum, and only that one, delivers it poisoned (R394). -/
def Dev.poisonOnce (d : Dev) (x : Datum) (loc : Nat) : Dev :=
  match x with
  | .engine => d.fatal loc
  | .other => d
  | .lineStore n r tag line => d.modEntry n r tag line fun e => { e with poison := true }
  | x => { d with ecc := { d.ecc with once := d.ecc.once ++ [x] } }

/-- A read of the data that satisfy `p`: whether any is poisoned; what was poisoned for one read is so no longer. -/
def Dev.consume (d : Dev) (p : Datum → Bool) : Bool × Dev :=
  (d.ecc.poisoned.any p || d.ecc.once.any p,
   if d.ecc.once.any p then { d with ecc := { d.ecc with once := d.ecc.once.filter fun x => !p x } } else d)

/-! ## Errors found -/

/-- A corrected error: counted, binned at the next histogram sample, and the first of its macro in this pass posted (R390, R492). -/
def Dev.foundCe (d : Dev) (h cell loc : Nat) : Dev :=
  let d := { d with ecc := { d.ecc with ceCount := kvPut d.ecc.ceCount h ((kvGet d.ecc.ceCount h).getD 0 + 1) } }
  if d.ecc.ceSeen.contains h then d
  else ({ d with ecc := { d.ecc with ceSeen := d.ecc.ceSeen ++ [h] } }).postAt 0xC001 sevInfo [cell, 1] loc

/-- A UE found by scrub (R383). -/
def Dev.foundUe (d : Dev) (addr loc : Nat) : Dev :=
  let d := (d.bump Reg.MEM_UE_CNT.NEW).put2 Reg.MEM_LAST_LO.LOC_LO Reg.MEM_LAST_HI.LOC_HI loc
  d.postAt 0xC002 sevWarn [1, addr % 2 ^ 32, addr / 2 ^ 32] loc

/-! ## Field repair (R385 to R387) -/

/-- A repair entry: macro index, KIND 0 row or 1 column, its number. -/
def repairEntry (index kind pos : Nat) : Nat := index + 2 ^ 12 * kind + 2 ^ 13 * pos + 2 ^ 23

/-- The field repair record after its SEQ (R389). -/
def fieldBytes (l : List Nat) : List Nat := padTo 4088 (leBytes 2 l.length ++ [0, 0] ++ l.flatMap (leBytes 4))

/-- Write the field repair table to the older of its two MRAM records. -/
def Dev.fieldToMram (d : Dev) (l : List Nat) : Dev :=
  let field := mramWrite d.ecc.field l
  ({ d with ecc := { d.ecc with field := field } }).mramChecked field fieldBytes

/-- Entries recorded since power-up and not yet applied. -/
def Dev.pendingRepairs (d : Dev) : List Nat :=
  let l := (mramRead d.ecc.field).getD []
  l.drop (l.length - d.get Reg.MEM_REPAIR.PENDING)

/-- Spares of a kind that a macro uses or is owed. -/
def Dev.sparesTaken (d : Dev) (index kind : Nat) : Nat :=
  let used := (kvGet d.ecc.spares index).getD (0, 0)
  (if kind = 0 then used.1 else used.2)
    + (d.pendingRepairs.filter fun e => decide (bitsOf e 0 12 = index ∧ bitsOf e 12 1 = kind)).length

/-- A hard fault in SRAM: a row, or a column at the second fault in it in this pass, enters the field table; with no spare left, or no
place in the table, nothing does (R387). -/
def Dev.hardFault (d : Dev) (w : SramWord) (cell loc : Nat) : Dev :=
  let row := w.offset / 32
  let col := if w.narrow then 13 * (w.offset % 32) + cell - 1 else 72 * (w.offset % 32 / 8) + cell - 1
  let again := d.ecc.hardCols.contains (w.index, col)
  let kind := b2n again
  let entry := repairEntry w.index kind (if again then col else row)
  let old := (mramRead d.ecc.field).getD []
  if old.contains entry then d
  else
    let d := if again then d else { d with ecc := { d.ecc with hardCols := d.ecc.hardCols ++ [(w.index, col)] } }
    if (if kind = 0 then 4 else 2) ≤ d.sparesTaken w.index kind ∨ 1021 ≤ old.length then
      (d.put Reg.MEM_REPAIR.EXHAUSTED 1).postAt 0xC005 sevWarn [w.index, 0] loc
    else
      let d := d.fieldToMram (old ++ [entry])
      (d.bump Reg.MEM_REPAIR.PENDING).postAt 0xC003 sevWarn [entry, kind] loc

/-! ## Patrol scrub (R382 to R384) -/

/-- The SRAM pass ends with its period: a new one begins at the first word. -/
def Dev.sramPass (d : Dev) : Dev :=
  let period := d.get Reg.MEM_SCRUB_CFG.SRAM_S * 1000000000
  if d.since d.ecc.sramAt < period then d
  else
    let d := { d with ecc := { d.ecc with sramAt := d.tb, sramNext := [], ceSeen := d.ecc.ceSeen.filter (4096 ≤ ·), hardCols := [] } }
    d.wrap Reg.MEM_SCRUB_STAT.SRAM_PASSES

def Dev.dramPass (d : Dev) : Dev :=
  let period := d.get Reg.MEM_SCRUB_CFG.DRAM_H * 3600000000000
  if d.since d.ecc.dramAt < period then d
  else
    let d := { d with ecc := { d.ecc with dramAt := d.tb, dramNext := 0, ceSeen := d.ecc.ceSeen.filter (· < 4096) } }
    d.wrap Reg.MEM_SCRUB_STAT.DRAM_PASSES

/-- A place of an SRAM code word that R23 and R25 allow. -/
def sramWordOk (w : SramWord) : Bool :=
  decide (w.cluster < 6) && decide (w.engine < enginesOf w.cluster) && decide (w.tile < 256) && decide (w.macro_ < 4096)
    && decide (w.index < 4096) && decide (w.offset < 16384)

/-- The bit that a scrub read names is in the code word, or is not located (R23). -/
def scrubOk (r : Scrub) (bits : Nat) : Bool :=
  match r with
  | .ce cell _ => decide (cell ≤ bits)
  | _ => true

/-- SRAM_SCRUB: patrol scrub reads its next SRAM code word. Each word is read once in a pass (R382): in its macro the words come in the order
of their offsets. -/
def execSramScrub (dt : Nat) (word : SramWord) (result : Scrub) (datum : Datum) (overwritten : Bool) (s : State) :
    Host.Outcome State Fault Refusal :=
  s.act dt fun d =>
    if d.mode = .off ∨ !d.on Reg.MEM_FILL.SRAM_DONE ∨ d.get Reg.MEM_SCRUB_CFG.SRAM_S = 0 ∨ !sramWordOk word ∨ !scrubOk result (if word.narrow then 13 else 72) then d
    else
      let d := d.sramPass
      if word.offset < (kvGet d.ecc.sramNext word.index).getD 0 then d else
      let d := { d with ecc := { d.ecc with sramNext := kvPut d.ecc.sramNext word.index (word.offset + if word.narrow then 1 else 8) } }
      let loc (cell : Nat) : Nat := d.loc 0 word.cluster word.engine word.tile word.macro_ cell
      match result with
      | .clean => d
      | .stored => d.bump Reg.MEM_UE_CNT.STORED
      | .ce cell hard =>
        let d := (d.bump Reg.MEM_CE_CNT.SRAM).foundCe word.index cell (loc cell)
        if hard && !overwritten then d.hardFault word cell (loc cell) else d
      | .ue =>
        let addr := 0x1000000000 + 16384 * word.index + word.offset
        let d := d.foundUe addr (loc 0)
        if overwritten then d else d.poison datum addr (loc 0)

/-- One scrub read of DRAM as it issues. Each word is read once in a pass, in the order of the addresses (R382). -/
def Dev.dramScrub (d : Dev) (x : DramRead) : Dev :=
  if x.addr < d.ecc.dramNext then d else
  let d := { d with ecc := { d.ecc with dramNext := x.addr / 8 * 8 + 8 } }
  match x.result with
  | .clean => d
  | .stored => d.bump Reg.MEM_UE_CNT.STORED
  | .ce cell hard =>
    let d := (d.bump Reg.MEM_CE_CNT.DRAM).foundCe (4096 + 32 * dramChan x.addr + dramBank x.addr) cell (d.dramLoc x.addr cell)
    if hard && !x.overwritten then
      d.postAt 0xC012 sevWarn [dramRow x.addr, cell, x.addr % 2 ^ 32, x.addr / 2 ^ 32] (d.dramLoc x.addr cell)
    else d
  | .ue =>
    let d := d.foundUe x.addr (d.dramLoc x.addr 0)
    if x.overwritten then d else d.poison x.datum x.addr (d.dramLoc x.addr 0)

/-- DRAM_SCRUB: a scrub read falls due; in self-refresh it is held (R404). -/
def execDramScrub (dt : Nat) (x : DramRead) (s : State) : Host.Outcome State Fault Refusal :=
  s.act dt fun d =>
    if d.mode = .off ∨ !d.on Reg.MEM_FILL.DRAM_DONE ∨ d.get Reg.MEM_SCRUB_CFG.DRAM_H = 0 ∨ 0x400000000 ≤ x.addr ∨ !scrubOk x.result 72 then d
    else
      let d := d.dramPass
      if d.on Reg.MEM_DRAM_STAT.SELF_REF then { d with ecc := { d.ecc with heldScrubs := d.ecc.heldScrubs + 1 } }
      else d.dramScrub x

/-- What MEM_REPAIR_CLEAR does, when it applies (R91). -/
def Dev.memRepairClear (d : Dev) (t : Ticket) (x : Desc) : Dev :=
  match valueExtra x [0, 0, 0, 0] with
  | some w => d.complete t stBadParam w
  | none => (d.fieldToMram []).complete t stOk 0

/-- MEM_REPAIR_CLEAR (R388). -/
def execMemRepairClear (dt : Nat) (ring : Nat) (x : Desc) (s : State) : Host.Outcome State Fault Refusal :=
  s.act dt fun d => d.onParam ring x (· == 0xC001) [.setup] true fun d t => d.memRepairClear t x

/-! ## Command/address parity (R394) -/

/-- DRAM_CA_PARITY: the command is issued again; where that fails too, a read delivers its granules poisoned and a write stores the
poison pattern. -/
def execDramCaParity (dt : Nat) (port : Nat) (write : Bool) (addr : Nat) (failed : Bool) (datum : Datum) (s : State) :
    Host.Outcome State Fault Refusal :=
  s.act dt fun d =>
    if d.mode = .off ∨ !failed then d
    else
      let loc := d.dramLoc addr 0
      let d := d.postAt 0xC013 sevWarn [port, b2n write, addr % 2 ^ 32, addr / 2 ^ 32] loc
      if write then d.poison datum addr loc else d.poisonOnce datum loc

/-! ## Hot mode (R402) -/

/-- The stack crosses a hot-mode limit with a reading in 0.25 C: a drain on entry, the old limit back at the next slot on exit (R402). A
broken sensor keeps hot mode (R448). -/
def Dev.hotMode (d : Dev) (temp : Int) (broken : Bool) : Dev :=
  let d := d.put Reg.MEM_DRAM_STAT.TEMP (fieldOf 16 temp)
  if (decide (340 < temp) || broken) && !d.on Reg.MEM_DRAM_STAT.HOT then
    let owed := d.ecc.owed
    let total := owed.foldl (· + ·) 0
    let slots := (owed.zip d.ecc.slotAt).map fun (k, s) => if k = 0 then s else d.tb + (k - 1) * 350 + 1950
    let chans := (owed.zip d.ecc.chans).map fun (k, c) => if k = 0 then c else { c with busy := d.tb + k * 350, rows := [] }
    let d := { d with ecc := { d.ecc with owed := owed.map fun _ => 0, slotAt := slots, cooling := false, chans := chans } }
    let d := (owed.zipIdx).foldl (fun d (k, p) => (List.range k).foldl (fun d _ => d.send (.dram p .refresh)) d) d
    let d := ((d.put Reg.MEM_DRAM_STAT.HOT 1).put Reg.MEM_DRAM_REF.LIMIT 4).bumpBy Reg.MEM_DRAM_REF.DRAINS (owed.filter (0 < ·)).length
    d.postAt 0xC010 sevInfo [0, fieldOf 32 temp, total] (d.loc 0 5 1 0 0 0)
  else if decide (temp ≤ 332) && !broken && d.on Reg.MEM_DRAM_STAT.HOT then
    let d := { (d.put Reg.MEM_DRAM_STAT.HOT 0) with ecc := { d.ecc with cooling := true } }
    d.postAt 0xC010 sevInfo [1, fieldOf 32 temp, 0] (d.loc 0 5 1 0 0 0)
  else d

/-! ## PANIC (R399) -/

/-- A line begins with `kib` KiB fetched and not consumed in the prefetch buffer (R399). An episode's end posts DRAM_PANIC, at most once
per 100 ms. -/
def Dev.panicAt (d : Dev) (kib : Nat) : Dev :=
  let d :=
    if kib < 16 ∧ !d.on Reg.MEM_DRAM_STAT.PANIC then
      { (d.put Reg.MEM_DRAM_STAT.PANIC 1) with ecc := { d.ecc with panicAt := some d.tb, panics := d.ecc.panics + 1 } }
    else if 32 ≤ kib ∧ d.on Reg.MEM_DRAM_STAT.PANIC then
      let long := max d.ecc.longest (d.since (d.ecc.panicAt.getD d.tb))
      let d : Dev := { (d.put Reg.MEM_DRAM_STAT.PANIC 0) with ecc := { d.ecc with panicAt := none, longest := long } }
      if 100000000 ≤ d.since d.ecc.panicPost then
        let e := d.postAt 0xC016 sevInfo [d.ecc.panics, min (2 ^ 32 - 1) d.ecc.longest] (d.loc 0 5 1 0 0 0)
        { e with ecc := { e.ecc with panics := 0, longest := 0, panicPost := d.tb } }
      else d
    else d
  if d.on Reg.MEM_DRAM_STAT.PANIC then d.bump (Reg.MEM_DRAM_PCNT_n.PANIC 0) else d

/-! ## Self-refresh (R404) -/

/-- Nothing waits at a pseudo-channel. -/
def DramChan.idle (c : DramChan) : Bool := c.reads.isEmpty && c.writes.isEmpty && c.waiting.isEmpty

/-- SELF_REFRESH_ENTRY: the controller has issued all that was asked of it. -/
def execSelfRefreshEntry (dt : Nat) (s : State) : Host.Outcome State Fault Refusal :=
  s.act dt fun d =>
    let us := d.get Reg.MEM_DRAM_CFG.IDLE_US
    if d.mode = .run ∨ d.mode = .off ∨ us = 0 ∨ d.ecc.sweep.isSome ∨ d.on Reg.MEM_DRAM_STAT.SELF_REF ∨ d.since d.ecc.lastReq < us * 1000
        ∨ !d.ecc.chans.all DramChan.idle then d
    else
      let chans := d.ecc.chans.map fun c => { c with rows := [] }
      { (d.put Reg.MEM_DRAM_STAT.SELF_REF 1) with ecc := { d.ecc with owed := d.ecc.owed.map fun _ => 0, srAt := d.tb, chans := chans } }

/-- SELF_REFRESH_SCRUB: every 10 ms the held scrub reads issue, and the stack re-enters self-refresh. -/
def execSelfRefreshScrub (dt : Nat) (reads : List DramRead) (s : State) : Host.Outcome State Fault Refusal :=
  s.act dt fun d =>
    if d.mode = .off ∨ !d.on Reg.MEM_DRAM_STAT.SELF_REF ∨ d.since d.ecc.srAt < 10000000 ∨ reads.length ≠ d.ecc.heldScrubs then d
    else
      let d := { d with ecc := { d.ecc with heldScrubs := 0, srAt := d.tb } }
      reads.foldl Dev.dramScrub d

/-! ## Training (R405 to R407) -/

/-- The longest run of consecutive passing taps: its length and its first tap, the first of several (R405). -/
def longestRun (mask : Nat) : Nat × Nat :=
  let r := (List.range 64).foldl (fun (best, first, run) i =>
    if bitOf mask i then
      let run := run + 1
      if best < run then (run, i + 1 - run, run) else (best, first, run)
    else (best, first, 0)) (0, 0, 0)
  (r.1, r.2.1)

/-- The centre of a run. -/
def centreOf (r : Nat × Nat) : Nat := r.2 + (r.1 - 1) / 2

/-- A sweep begins to gather data. -/
def Dev.startSweep (d : Dev) (w : Sweep) : Dev :=
  (({ d with ecc := { d.ecc with sweep := some w } }).put Reg.MEM_DRAM_STAT.TRAINING 1).dramReq

/-- The eyes of a sweep: histograms, minima, and the lanes that fail. -/
def Dev.sweepEyes (d : Dev) (rd wr : List Nat) : Dev × List (Nat × (Nat × Nat) × (Nat × Nat)) :=
  let eyes := (List.range 128).map fun k => (k, longestRun (rd.getD k 0), longestRun (wr.getD k 0))
  let d := eyes.foldl (fun d (k, r, w) => (d.histogram (5200 + k) (r.1 / 4) r.1).histogram (5328 + k) (w.1 / 4) w.1) d
  let rmin := eyes.foldl (fun m (_, r, _) => min m r.1) 64
  let wmin := eyes.foldl (fun m (_, _, w) => min m w.1) 64
  let lane := (eyes.find? fun (_, r, w) => decide (min r.1 w.1 = min rmin wmin)).map (·.1)
  (((d.put Reg.MEM_DRAM_EYE.RD_MIN rmin).put Reg.MEM_DRAM_EYE.WR_MIN wmin).put Reg.MEM_DRAM_EYE.LANE (lane.getD 0), eyes)

/-- Lanes whose eyes pass take the centres; the others keep the delays they had. -/
def Dev.setDelays (d : Dev) (eyes : List (Nat × (Nat × Nat) × (Nat × Nat))) : Dev :=
  eyes.foldl (fun d (k, r, w) =>
    if r.1 < 8 ∨ w.1 < 8 then d
    else { d with ecc := { d.ecc with rdDelay := setAt d.ecc.rdDelay k (centreOf r), wrDelay := setAt d.ecc.wrDelay k (centreOf w) } }) d

/-- A power-up sweep ends: 3.2 Gb/s, then 4.8 Gb/s (R406). A failure names the pseudo-channel of the first lane that fails. -/
def Dev.powerSweep (d : Dev) (w : Sweep) (eyes : List (Nat × (Nat × Nat) × (Nat × Nat))) (fails first : Nat) : Dev :=
  let d := { (d.put Reg.MEM_DRAM_STAT.TRAINING 0) with ecc := { d.ecc with sweep := none } }
  if w.speed = 1 then
    if 0 < fails then d.selftestFail 5 (d.loc 1 0 (first / 4 / 2) (first / 4 % 2) 0 0) causeSelftest
    else ((d.setDelays eyes).put Reg.MEM_DRAM_STAT.SPEED_NOW 1).startSweep { w with speed := 0 }
  else
    let d := d.stageEnds 5 d.stageUs 6
    if 0 < fails then { d with ecc := { d.ecc with speedDown := some fails } }
    else if d.get Reg.MEM_DRAM_CFG.SPEED = 0 then (d.setDelays eyes).put Reg.MEM_DRAM_STAT.SPEED_NOW 0
    else d

/-- A sweep that a command asked for ends (R407). -/
def Dev.serviceSweep (d : Dev) (w : Sweep) (eyes : List (Nat × (Nat × Nat) × (Nat × Nat))) (fails first : Nat) : Dev :=
  let d := { ((d.setDelays eyes).put Reg.MEM_DRAM_STAT.TRAINING 0) with ecc := { (d.setDelays eyes).ecc with sweep := none } }
  let d := if fails = 0 then d else d.postAt 0xC015 sevWarn [w.speed, fails, first] (d.loc 1 0 (first / 4 / 2) (first / 4 % 2) 0 0)
  match w.deferred with
  | some sp => ((d.put Reg.MEM_DRAM_STAT.SPEED_NOW sp).put Reg.MEM_DRAM_STAT.DEFERRED 0).startSweep ⟨sp, none, none, true, w.tickets⟩
  | none =>
    if w.change && w.speed == 0 && decide (0 < fails) then
      (d.put Reg.MEM_DRAM_STAT.SPEED_NOW 1).startSweep ⟨1, some fails, none, false, w.tickets⟩
    else w.tickets.foldl (fun d t => d.complete t stOk (w.fallback.getD fails)) d

/-- TRAINING_SWEEP_DONE: the taps that pass, per byte lane, of the read and of the write delay. -/
def execTrainingSweepDone (dt : Nat) (rd wr : List (BitVec 64)) (s : State) : Host.Outcome State Fault Refusal :=
  s.act dt fun d =>
    match d.ecc.sweep with
    | none => d
    | some w =>
      if d.mode = .off then d
      else
        let (d, eyes) := d.sweepEyes (rd.map BitVec.toNat) (wr.map BitVec.toNat)
        let bad := eyes.filter fun (_, r, w) => decide (r.1 < 8 ∨ w.1 < 8)
        let first := (bad.map (·.1)).headD 0
        if d.mode = .selftest then d.powerSweep w eyes bad.length first else d.serviceSweep w eyes bad.length first

/-- What DRAM_TRAIN does, when it applies (R91). -/
def Dev.dramTrain (d : Dev) (t : Ticket) (x : Desc) : Dev :=
  if d.live?.isSome then d.complete t stRefused d.mode.code
  else match valueExtra x [0, 0, 0, 0] with
    | some w => d.complete t stBadParam w
    | none =>
      match d.ecc.sweep with
      | some w => { d with ecc := { d.ecc with sweep := some { w with tickets := w.tickets ++ [t] } } }
      | none => d.startSweep ⟨d.get Reg.MEM_DRAM_STAT.SPEED_NOW, none, none, false, [t]⟩

/-- DRAM_TRAIN (R407). -/
def execDramTrain (dt : Nat) (ring : Nat) (x : Desc) (s : State) : Host.Outcome State Fault Refusal :=
  s.act dt fun d => d.onParam ring x (· == 0xC003) [.setup, .ready] true fun d t => d.dramTrain t x

/-- What DRAM_SPEED does, when it applies (R91). -/
def Dev.dramSpeed (d : Dev) (t : Ticket) (x : Desc) : Dev :=
  if d.live?.isSome then d.complete t stRefused d.mode.code
  else if (valueExtra x [1, 0, 0, 0]).isSome then d.complete t stBadParam 6
  else
    let sp := x.w 6 % 2
    match d.ecc.sweep with
    | some w =>
      { (d.put Reg.MEM_DRAM_STAT.DEFERRED 1) with ecc := { d.ecc with sweep := some { w with deferred := some sp, tickets := w.tickets ++ [t] } } }
    | none => (d.put Reg.MEM_DRAM_STAT.SPEED_NOW sp).startSweep ⟨sp, none, none, true, [t]⟩

/-- DRAM_SPEED (R407). -/
def execDramSpeed (dt : Nat) (ring : Nat) (x : Desc) (s : State) : Host.Outcome State Fault Refusal :=
  s.act dt fun d => d.onParam ring x (· == 0xC002) [.setup, .ready] true fun d t => d.dramSpeed t x

end Sys2Proof.Machine
end

