-- ==== Sys2Proof/Machine/Record.lean ====
section
/-! DEFINITION. The start of a capture (R494 to R496), device-to-host buffers (R80, R91, R224, R498), write responses (R116, R121), and
the recorder's own commands (R489 to R493). -/
namespace Sys2Proof.Machine

/-! ## The CRC of the set-up (R496) -/

/-- The offsets of the instances of an array. -/
def dimOffsets : List RegDim → List Nat
  | [] => [0]
  | g :: t => (List.range g.count).flatMap fun i => (dimOffsets t).map fun o => i * g.stride + o

/-- The offsets of every register of a block that has an LK field, ascending. -/
def lkOffsets (block : Nat) : List Nat :=
  (((blockRegs block).filter fun r => r.fields.any fun f => f.acc == .lk).flatMap fun r =>
    (dimOffsets r.dims).map (r.base + ·)).mergeSort fun a b => decide (a ≤ b)

/-- A register as its LK fields hold it; the other bits count as 0. -/
def Dev.lkWord (d : Dev) (off : Nat) : Nat :=
  match regAt off with
  | none => 0
  | some r => r.fields.foldl (fun v f => if f.acc == .lk then v + d.get (f.at_ off) * 2 ^ f.lo else v) 0

/-- SETUP_CRC: every LK register of the LINK, CAM and PIPE blocks in ascending offset. -/
def Dev.setupCrc (d : Dev) : Nat :=
  crc32c (([9, 10, 11].flatMap lkOffsets).flatMap fun o => leBytes 4 (d.lkWord o))

/-! ## START and TABLE_IMAGE (R495) -/

/-- The body of START for a capture that begins at a line of a job, or with no job live. -/
def Dev.startBody (d : Dev) (at_ : Option (Job × Nat)) : List Nat :=
  let tag := (at_.map fun (j, _) => j.tag).getD 0
  let line := (at_.map (·.2)).getD 0
  let j0 := (at_.map fun (j, _) => j.base).getD 0
  [1, d.get Reg.REC_CAP_STAT.STRICT + 2 * b2n d.recd.noLineCrc, (if d.on Reg.RING_CFG.EN then d.node else 0), tag]
    ++ leBytes 4 (0x80000000 + d.get Reg.REC_CAP_STAT.COUNT) ++ leBytes 5 line ++ [0, 0, 0] ++ leBytes 6 j0 ++ [0, 0]
    ++ leBytes 8 d.readTime ++ leBytes 4 (d.get Reg.SVC_FW_VER.VERSION) ++ leBytes 2 (d.get Reg.GLB_ID.STEPPING) ++ [0, 0]
    ++ leBytes 4 d.setupCrc ++ (List.range 11).flatMap fun k => leBytes 4 (d.tableCrc (at_.map (·.1)) (k + 1))

/-- Table bytes as TABLE_IMAGE records of at most 65,536 bytes each, from an offset. -/
def Dev.tableImages (kind inst : Nat) : Nat → Nat → List Nat → Dev → Dev
  | 0, _, _, d => d
  | fuel + 1, ofs, bs, d =>
    if bs = [] then d
    else Dev.tableImages kind inst fuel (ofs + 65536) (bs.drop 65536)
      (d.capture 2 ([kind, inst, 0, 0] ++ leBytes 4 ofs ++ bs.take 65536))

/-- The TABLE_IMAGE records of the device-wide tables in force. -/
def Dev.allImages (d : Dev) : Dev :=
  let d := Dev.tableImages 1 0 64 0 (nozzleBytes (d.gzBank 0)) d
  let d := (List.range 16).foldl (fun d i => Dev.tableImages 7 i 2 0 (stitchSetBytes (d.gzBank 1) i) d) d
  Dev.tableImages 11 0 2 0 (alignBytes (d.gzBank 2)) d

/-- The capture that CAPTURE_ON asked for starts: at a line of a job, or with no job live. -/
def Dev.captureStart (d : Dev) (at_ : Option (Job × Nat)) : Dev :=
  match d.recd.capOn with
  | none => d
  | some t =>
    let ident := ((d.comp? capDest).map (·.ident)).getD 0
    let count := ident % 2 ^ 24
    let d := ((d.put Reg.REC_CAP_STAT.RUNNING 1).put Reg.REC_CAP_STAT.BROKEN 0).put Reg.REC_CAP_STAT.COUNT count
    let d := { d with recd := { d.recd with
      cap := .running, capOn := none, capRecords := 0, capDecoded := 0, gap := none
      dbWords := (List.range 32).map fun n => d.get (Reg.HOST_RING_CONS_n.PROD n) } }
    let d := ((d.capture 1 (d.startBody at_)).allImages).complete t stOk 0
    let line := (at_.map (·.2)).getD 0
    (d.post 0x100B sevInfo [ident, line % 2 ^ 32, line / 2 ^ 32, (at_.map fun (j, _) => j.tag).getD 0]).capMove

/-- CAPTURE_ON: with a job live it waits for the first frame whose line 0 Damask has not begun (R494). Its compressor holds context 15
from here on (R144). -/
def execCaptureOn (dt : Nat) (ring : Nat) (x : Desc) (s : State) : Host.Outcome State Fault Refusal :=
  s.act dt fun d =>
    d.onTake (d.take ring x 0x0D) fun d t =>
      let cap := x.f 5 0 5
      if d.recd.cap != .idle || d.on Reg.REC_RPL_CFG.EN then d.complete t stRefused d.mode.code
      else if !(d.on (Reg.HOST_RING_CFG_n.EN cap) && decide (d.get (Reg.HOST_RING_CFG_n.KIND cap) = 4)) then d.complete t stNoRing 0
      else
        let d := d.put Reg.REC_CAP_STAT.STRICT (x.f 4 0 1)
        let d := d.startComp (0x80000000 + d.recd.capCount % 2 ^ 24) capDest
        let d := { d with recd := { d.recd with
          cap := .armed, capOn := some t, noLineCrc := bitOf (x.w 4) 1, capRing := cap, capCount := d.recd.capCount + 1 } }
        if d.live?.isSome then d else d.captureStart none

/-! ## Buffers of the device-to-host rings (R80, R81, R91) -/

/-- Why a published buffer descriptor is not used: status and DETAIL. -/
def bufferBad (x : Desc) (op : Nat) : Option (Nat × Nat) :=
  if x.op ≠ op then some (if d2hOpcodes.contains x.op || opTable.any (fun r => r.code == x.op) then stBadRing else stBadOpcode, 0)
  else match (if x.f 0 18 6 ≠ 0 then some 0 else ([4, 5, 6, 7, 8, 9, 10, 11, 12, 13].find? fun i => decide (x.w i ≠ 0))) with
    | some w => some (stReserved, w)
    | none =>
      if x.addr % 64 ≠ 0 then some (stBadAddress, 0)
      else if x.len % 64 ≠ 0 ∨ x.len < 4096 ∨ 16777216 < x.len then some (stBadLength, 0)
      else none

/-- Take a buffer descriptor of a device-to-host ring; up to 8 are fetched ahead. -/
def Dev.takeBuf (d : Dev) (ring : Nat) (x : Desc) (kind op : Nat) (f : Dev → OpenBuf → Dev) : Dev :=
  let open_ := d.cal.open_.filter fun b => b.ring == ring
  if !d.mode.served || !d.ringReady ring || !x.own || 32 ≤ ring || d.get (Reg.HOST_RING_CFG_n.KIND ring) ≠ kind
      || 8 ≤ open_.length || (x.fence && open_ != []) || !d.inTurn ring x.fence then d
  else
    let idx := d.get (Reg.HOST_RING_CONS_n.CONS ring)
    let d := d.taking ring x.fence
    match bufferBad x op with
    | some (code, detail) => d.completeBuf ring idx x.op x.irq code detail []
    | none => f d ⟨ring, idx, x.op, x.addr, x.len, 0, false, 0, x.irq, none⟩

/-- A buffer joins those that wait to be filled. -/
def Dev.addOpen (d : Dev) (b : OpenBuf) : Dev := { d with cal := { d.cal with open_ := d.cal.open_ ++ [b] } }

/-- IMAGE_BUF: an empty image buffer. -/
def execImageBuf (dt : Nat) (ring : Nat) (x : Desc) (s : State) : Host.Outcome State Fault Refusal :=
  s.act dt fun d =>
    d.takeBuf ring x 5 0x50 fun d b =>
      let d := d.addOpen b
      [0, 1].foldl (fun d c => if d.camOn c && decide (d.get (Reg.CAM_CFG_n.IMG_RING c) = ring) then d.imageMove c else d) d

/-- COMPRESSOR_FLUSH: FLUSH_US after its first byte an open block closes (R149). -/
def execCompressorFlush (dt : Nat) (dest : Nat) (s : State) : Host.Outcome State Fault Refusal :=
  s.act dt fun d =>
    match d.comp? dest with
    | none => d
    | some c =>
      if c.block = [] ∨ d.since c.firstAt < d.get Reg.PIPE_CAL_CFG.FLUSH_US * 1000 then d
      else
        let d := d.closeBlock dest
        if dest = capDest then d.capMove else d.imageMove dest

/-! ## Write responses (R116, R121, R122) -/

/-- Take the oldest issued write of a channel away: it has its response. -/
def dropSent (ch : Nat) : List Wr → List Wr
  | [] => []
  | w :: t => if w.ch = ch ∧ w.sent then t else w :: dropSent ch t

/-- A write has failed. Of data: the rest of it is not issued, the buffer completes with the error and the channel stops. Of a write-back:
its descriptor keeps OWN = 1, and the channel stops; the PARAM of a list completes with the error (R121, R122). -/
def Dev.wrFail (d : Dev) (ch : Nat) (w : Wr) : Dev :=
  let own (x : Wr) : Bool := x.ch == ch && x.ring == w.ring && x.idx == w.idx
  let e : ChError := ⟨stWriteError, w.addr, (0, 0, 0), if 12 < ch then 0 else w.ring, decide (12 < ch), true⟩
  match w.kind with
  | .data k =>
    let d := { d with host := { d.host with writes := d.host.writes.filter fun x => !(own x && x.kind.isData && !x.sent) } }
    match d.cal.open_.find? fun b => b.ring == w.ring && b.idx == w.idx with
    | some b =>
      let d := { d with cal := { d.cal with open_ := d.cal.open_.erase b } }
      (d.completeBuf w.ring b.idx b.op b.irq stWriteError 0 [0, b.filled, 0]).stopAfter ch { e with idx := (k, 0, 0) }
    | none => d.stopAfter ch { e with idx := (k, 0, 0) }
  | _ =>
    let d := { d with host := { d.host with writes := d.host.writes.filter fun x => !(own x && !x.kind.isData) } }
    let d := match (d.chan ch).run with
      | some r => if r.backing.isSome then (d.setRun ch none).xferParam r stWriteError else d
      | none => d
    if d.chStopped ch then d else d.stopWith ch e

/-- DMA_WRITE_RESPONSE: the oldest write of channel `ch` that has been issued gets its response. Those that waited for it follow (R87,
R116). On a list's channel it may be the answer to a burst, or of the memory, with `landed` words of a refused store (R121). -/
def execDmaWriteResponse (dt : Nat) (ch : Nat) (ok : Bool) (landed : Nat) (s : State) : Host.Outcome State Fault Refusal :=
  s.actMem dt fun d m =>
    if !d.mode.served && d.mode != .safe then (d, m)
    else match d.host.writes.find? fun w => w.ch == ch && w.sent with
      | some w =>
        let d := { d with host := { d.host with writes := dropSent ch d.host.writes } }
        if !ok then ((d.wrFail ch w).drain ch |>.countTags, m)
        else
          let d := if w.kind.isData then Dev.reapBufs w.ring d.cal.open_.length d else d
          ((d.drain ch).countTags, m)
      | none =>
        match (d.chan ch).run with
        | some r =>
          match r.words with
          | some ws =>
            if r.backing.isSome then (d, m)
            else
              let (d, m) := d.xferAnswered m ch r ws ok landed
              (d.countTags, m)
          | none => (d, m)
        | none => (d, m)

/-! ## The recorder's own commands -/

/-- What REC_MARK does, when it applies (R91). -/
def Dev.recMark (d : Dev) (t : Ticket) (x : Desc) : Dev :=
  (d.recordNow 5 ([6, 7, 8, 9].flatMap fun i => leBytes 4 (x.w i))).complete t stOk 0

/-- REC_MARK: PARAM 0xE001 writes a MARK record (R489). -/
def execRecMark (dt : Nat) (ring : Nat) (x : Desc) (s : State) : Host.Outcome State Fault Refusal :=
  s.act dt fun d => d.onParam ring x (· == 0xE001) allServed true fun d t => d.recMark t x

/-- The first area is emptied (R490). -/
def Dev.clearFirst (d : Dev) : Dev :=
  let d := { d with recd := { d.recd with mem := d.recd.mem.filter fun (k, _) => decide (0x40000 / 8 ≤ k) } }
  ((d.put Reg.REC_FIRST_HEAD.HEAD 0).put Reg.REC_STAT.FIRST_FULL 0).put Reg.REC_STAT.FIRST_HELD 0

/-- Every histogram is emptied (R493). -/
def Dev.clearHists (d : Dev) : Dev := ({ d with recd := { d.recd with hists := [] } }).put Reg.REC_STAT.HIST_HELD 0

/-- FIRST_AREA_CLEAR: 1 is written to REC_STAT.FIRST_HELD. -/
def execFirstAreaClear (dt : Nat) (s : State) : Host.Outcome State Fault Refusal :=
  s.act dt fun d => if d.w1cOpen 0xE0004 then d.clearFirst else d

/-- HISTOGRAM_CLEAR: 1 is written to REC_STAT.HIST_HELD. -/
def execHistogramClear (dt : Nat) (s : State) : Host.Outcome State Fault Refusal :=
  s.act dt fun d => if d.w1cOpen 0xE0004 then d.clearHists else d

/-- The bin of a number of corrected bits (R492). -/
def ceBin (n : Nat) : Nat := if n = 0 then 0 else min 15 (Nat.log2 n + 1)

/-- The interval of corrected-bit samples: SRAM_S, or 10 s with scrub off. -/
def Dev.cePeriod (d : Dev) : Nat :=
  let s := d.get Reg.MEM_SCRUB_CFG.SRAM_S
  (if s = 0 then 10 else s) * 1000000000

/-- HISTOGRAM_SAMPLE: one sample of histogram `h`: the corrected bits since its last one, a receive eye width of a lane macro of a port
that is UP, or the latency of a crossing. The other histograms are sampled by sweeps and by line frames (R492). -/
def execHistogramSample (dt : Nat) (h sample : Nat) (s : State) : Host.Outcome State Fault Refusal :=
  s.act dt fun d =>
    if d.mode = .off then d
    else if h < 5120 then
      if d.since ((kvGet d.recd.histAt h).getD 0) < d.cePeriod then d else
      let d := { d with recd := { d.recd with histAt := kvPut d.recd.histAt h d.tb } }
      let n := (kvGet d.ecc.ceCount h).getD 0
      ({ d with ecc := { d.ecc with ceCount := kvDel d.ecc.ceCount h } }).histogram h (ceBin n) n
    else if h < 5200 then
      let p := (h - 5120) / 4
      if d.portIsUp p && (rxMacros p).contains (h % 4) then d.histogram h (sample / 4) sample else d
    else if 5472 ≤ h ∧ h < 5488 then d.histogram h (sample / 8) sample
    else d

/-- CAPTURE_HEAD_STATUS_SAMPLE: every 200 us per link, words 0 to 4 of its latest status with what has gathered since the last record
(R495). -/
def execCaptureHeadStatusSample (dt : Nat) (n : Nat) (s : State) : Host.Outcome State Fault Refusal :=
  s.act dt fun d =>
    let l := d.lk n
    if d.recd.cap != .running || 16 ≤ n || !d.on (Reg.LINK_CFG_n.EN n) || l.status.isEmpty
        || d.since (d.recd.headAt.getD n 0) < 200000 then d
    else
      let put (w lo wd v : Nat) : Nat := w - bitsOf w lo wd * 2 ^ lo + v % 2 ^ wd * 2 ^ lo
      let w0 := put (l.status.getD 0 0) 32 16 l.hfault
      let rows := (List.range 4).map fun r =>
        put (put (put (l.status.getD (r + 1) 0) 32 8 (l.held.getD r 0)) 40 8 (l.blanked.getD r 0)) 48 8 (l.rfault.getD r 0)
      let d := { d with recd := { d.recd with headAt := setAt d.recd.headAt n d.tb } }
      let d := d.modLk n fun l => { l with held := [0, 0, 0, 0], blanked := [0, 0, 0, 0], hfault := 0, rfault := [0, 0, 0, 0] }
      (d.capture 9 ([n, 0, 0, 0, 0, 0, 0, 0] ++ (w0 :: rows).flatMap (leBytes 8))).capMove

end Sys2Proof.Machine
end

