-- ==== Sys2Proof/Machine/Replay.lean ====
section
/-! DEFINITION. Replay as the render pipeline sees it (R502 to R505): which line is rendered next, and how a replay ends. -/
namespace Sys2Proof.Machine

/-- The type of a capture record (R495). -/
def recType (r : List Nat) : Nat := r.getD 0 0

/-- Tag and line of a LINE record. -/
def lineOfRec (r : List Nat) : Nat × Nat := (leAt r 13 1, leAt r 8 5)

/-- Tag, line and mask of a SWITCH record, and its CRCs by KIND. -/
def switchOfRec (r : List Nat) : Nat × Nat × Nat := (leAt r 8 1, leAt r 12 5, leAt r 10 2)

/-- The CRC that a SWITCH record gives for a KIND. -/
def switchCrc (r : List Nat) (kind : Nat) : Nat :=
  let mask := leAt r 10 2
  let before := ((List.range kind).filter fun k => decide (1 ≤ k) && bitOf mask k).length
  leAt r (24 + 4 * before) 4

/-- The line that a replay renders next: that of the LINE record at the head of the stream (R504). -/
def Replay.head (r : Replay) : Option (Nat × Nat) :=
  match r.queue with
  | x :: _ => if recType x = 8 ∧ r.begun then some (lineOfRec x) else none
  | [] => none

/-- In replay mode nothing is rendered but by a replay. -/
def Dev.replayIdle (d : Dev) : Bool := d.on Reg.REC_RPL_CFG.EN && d.recd.replay.isNone

/-- The SWITCH record that waits for a line. -/
def Dev.replaySwitch (d : Dev) (tag line : Nat) : Option (List Nat) :=
  d.recd.replay.bind fun r => r.waiting.find? fun x => recType x == 5 && (switchOfRec x).1 == tag && (switchOfRec x).2.1 == line

/-- A replay ends: registers, REPLAY_DONE, the REPLAY record, the command (R505). Result 0 matched, 1 diverged, 2 broken, 3 capture
mismatch. -/
def Dev.replayEnd (d : Dev) (result stage tag line link : Nat) : Dev :=
  match d.recd.replay with
  | none => d
  | some r =>
    let d := (d.put Reg.REC_RPL_STAT.STATE (3 + result)).put Reg.REC_RPL_STAT.STAGE stage
    let d := ((d.put Reg.REC_RPL_STAT.TAG tag).put Reg.REC_RPL_STAT.LINK link).put2 Reg.REC_RPL_LINE_LO.LINE_LO Reg.REC_RPL_LINE_HI.LINE_HI line
    let args := [result, stage, tag, line % 2 ^ 32, line / 2 ^ 32 + 2 ^ 8 * link, r.records]
    let d := { d with recd := { d.recd with replay := none } }
    let d := d.post 0xE002 (if result = 0 then sevInfo else sevWarn) args
    (d.recordNow 6 (args.flatMap (leBytes 4))).complete r.ticket stOk result

end Sys2Proof.Machine
end

