-- ==== Sys2Proof/Machine/Compose.lean ====
section
/-! DEFINITION. Damask composes lines (R168 to R182): planes, text and code fields, the code painter, PSO cues, and what a frame's lines
report. -/
namespace Sys2Proof.Machine

/-! ## What a frame is composed from -/

/-- The inputs of one frame. -/
structure FrameIn where
  job : Job
  frame : Nat
  num : Nat
  lay : List Nat
  layers : List Layer
  width : Nat
  /-- Fields of the record: offset and bytes. -/
  fields : List (Nat × List Nat)
  gs : Option (List Nat)
  planes : List Plane
  symbols : List Symbol
  /-- Poisoned data of this job. -/
  bad : List Datum
  deriving DecidableEq, Repr

/-- The record of a frame. -/
def Dev.record? (d : Dev) (tag frame : Nat) : Option Rec := d.dmk.records.find? fun r => r.tag == tag && r.frame == frame

/-- The inputs of a frame from its record and the layout that it names (R165). -/
def Dev.frameIn (d : Dev) (j : Job) (r : Rec) : FrameIn :=
  let lay := ((d.layout? j.tag r.layout).map (·.bytes)).getD []
  { job := j, frame := r.frame, num := r.layout, lay := lay, layers := layersOf lay, width := layWidth lay
    fields := (recFields r.bytes).getD [], gs := (d.glyphs? j.tag).map (·.bytes)
    planes := d.dmk.planes.filter fun p => p.tag == j.tag
    symbols := ((d.dmk.painted.find? fun p => p.tag == j.tag && p.frame == r.frame).map (·.symbols)).getD []
    bad := (d.ecc.poisoned ++ d.ecc.once).filter (datumOfJob j.tag) }

/-- The bytes of field `k`. -/
def FrameIn.field (f : FrameIn) (k : Nat) : List Nat := (f.fields.getD k (0, [])).2

/-- The offset in field `k` of its first poisoned byte. -/
def FrameIn.fieldPoison (f : FrameIn) (k : Nat) : Option Nat :=
  let (o, bs) := f.fields.getD k (0, [])
  (List.range bs.length).find? fun i => f.bad.any fun x => match x with
    | .record _ fr a => fr == f.frame && a / 8 == (o + i) / 8
    | _ => false

/-- Layer `i`'s entry, or with none the header, is poisoned. -/
def FrameIn.layoutPoison (f : FrameIn) (i : Option Nat) : Bool :=
  f.bad.any fun x => match x with
    | .layout _ n a => n == f.num && decide (a / 64 = (i.map (· + 1)).getD 0)
    | _ => false

/-! ## Operators (R168) -/

/-- d after one apply step: `op` 1 REPLACE, 2 DARKEN, 3 KNOCKOUT; source `s`, weight `a`. -/
def applyOp (op d s a : Nat) : Nat :=
  let s : Int := if op = 3 then 0 else s
  let d : Int := d
  let s : Int := if op = 2 then d + s - (d * s + 2047) / 4095 else s
  (d + ((s - d) * a + 2048) / 4096).toNat

/-! ## Planes (R155, R170) -/

/-- The byte offset of a sample of carried channel `rank` in the tiles, and the bit for a mask. -/
def Plane.place (p : Plane) (rank i j : Nat) : Nat × Nat :=
  let (tw, _, ch, tb) := planeShape p.pkind p.chMask p.w p.h
  let tile := ((j / 256) * tw + i / 256) * ch + rank
  let s := (j % 256) * 256 + i % 256
  let o := if p.pkind = 0 then s else if p.pkind = 1 then 2 * s else s / 8
  (tile * tb + o, s % 8)

/-- The rank of channel `c` among the carried channels. -/
def Plane.rank (p : Plane) (c : Nat) : Nat := popCount p.chMask c

/-- P(): a stored sample as 12 bits (R169). -/
def Plane.sample (p : Plane) (c i j : Nat) : Nat :=
  let o := (p.place (p.rank c) i j).1
  if p.pkind = 0 then
    let s := p.tiles.getD o 0
    16 * s + s / 16
  else leAt p.tiles o 2 % 4096

/-- A mask bit. -/
def Plane.bit (p : Plane) (i j : Nat) : Bool :=
  let (o, b) := p.place 0 i j
  bitOf (p.tiles.getD o 0) b

/-- The granule of a sample is poisoned. -/
def FrameIn.planePoison (f : FrameIn) (p : Plane) (c i j : Nat) : Bool :=
  let o := (p.place (if p.pkind = 2 then 0 else p.rank c) i j).1
  f.bad.any fun x => match x with
    | .plane _ s a => s == p.stream && a / 8 == o / 8
    | _ => false

/-- Print pixels per stored sample. -/
def Plane.f (p : Plane) : Nat := 2 ^ p.scale

def clampTo (x : Int) (hi : Nat) : Nat := min (hi - 1) x.toNat

/-- The sample at plane-local (x, y), and whether a stored sample that it comes from is poisoned. -/
def FrameIn.contone (f : FrameIn) (p : Plane) (bilinear : Bool) (c x y : Nat) : Nat × Bool :=
  let g := p.f
  if g = 1 ∨ !bilinear then (p.sample c (x / g) (y / g), f.planePoison p c (x / g) (y / g))
  else
    let n : Int := 2 * x + 1 - g
    let i := n / (2 * g : Nat)
    let wx := ((n - 2 * g * i) * 128 / g).toNat
    let m : Int := 2 * y + 1 - g
    let j := m / (2 * g : Nat)
    let wy := ((m - 2 * g * j) * 128 / g).toNat
    let i0 := clampTo i p.w
    let i1 := clampTo (i + 1) p.w
    let j0 := clampTo j p.h
    let j1 := clampTo (j + 1) p.h
    let top := p.sample c i0 j0 * (256 - wx) + p.sample c i1 j0 * wx
    let bot := p.sample c i0 j1 * (256 - wx) + p.sample c i1 j1 * wx
    ((top * (256 - wy) + bot * wy + 32768) / 65536,
     f.planePoison p c i0 j0 || f.planePoison p c i1 j0 || f.planePoison p c i0 j1 || f.planePoison p c i1 j1)

/-! ## Boxes (R171) -/

/-- The local box of a text or code layer; of a code layer by its symbol. -/
def FrameIn.box (f : FrameIn) (i : Nat) (l : Layer) : Nat × Nat :=
  if l.kind = 2 then (l.boxW, l.boxH)
  else match f.symbols.find? fun s => s.layer == i with
    | some s => codeBox l (s.rows, s.cols)
    | none => (0, 0)

/-- Columns and lines that a layer covers: left, top, width, height in the frame. -/
def FrameIn.span (f : FrameIn) (i : Nat) (l : Layer) : Int × Int × Nat × Nat :=
  if l.isField then
    let (w, h) := f.box i l
    if l.rot % 2 = 0 then (l.x, l.y, w, h) else (l.x, l.y, h, w)
  else match f.planes.find? fun p => p.stream == l.stream with
    | some p => (l.x, l.y, p.f * p.w, p.f * p.h)
    | none => (l.x, l.y, 0, 0)

/-- The layer's lines include line `y`. -/
def FrameIn.crosses (f : FrameIn) (i : Nat) (l : Layer) (y : Nat) : Bool :=
  let (_, t, _, h) := f.span i l
  decide (t ≤ (y : Int)) && decide ((y : Int) < t + h)

/-- The local coordinates of frame pixel (x, y) in a box of a rotation. -/
def unrotate (l : Layer) (bw bh : Nat) (x y : Nat) : Int × Int :=
  let dx : Int := x - l.x
  let dy : Int := y - l.y
  match l.rot with
  | 0 => (dx, dy)
  | 1 => (dy, (bh : Int) - 1 - dx)
  | 2 => ((bw : Int) - 1 - dx, (bh : Int) - 1 - dy)
  | _ => ((bw : Int) - 1 - dy, dx)

/-- The frame pixel of local (u, v). -/
def rotate (l : Layer) (bw bh : Nat) (u v : Int) : Int × Int :=
  match l.rot with
  | 0 => (l.x + u, l.y + v)
  | 1 => (l.x + bh - 1 - v, l.y + u)
  | 2 => (l.x + bw - 1 - u, l.y + bh - 1 - v)
  | _ => (l.x + v, l.y + bw - 1 - u)

def inBox (bw bh : Nat) (u v : Int) : Bool := decide (0 ≤ u) && decide (u < bw) && decide (0 ≤ v) && decide (v < bh)

/-! ## Text (R172) -/

/-- A glyph at its place: index, entry, u and v of its pixel (0, 0). -/
structure Placed where
  byte : Nat
  index : Nat
  glyph : Glyph
  u : Int
  v : Int
  deriving DecidableEq, Repr

/-- The glyphs of a text layer. -/
def FrameIn.glyphs (f : FrameIn) (l : Layer) : List Placed :=
  match f.gs with
  | none => []
  | some gs =>
    let gl := (f.field l.field).filterMap fun b => (fontGlyph gs (l.b 29) b).map fun g => (b, g, glyphAt gs g)
    let tw : Int := gl.foldl (fun n (_, _, g) => n + g.adv) 0 + l.track * ((gl.length : Int) - 1)
    let o : Int := if l.b 30 = 1 then ((l.boxW : Int) - tw) / 2 else if l.b 30 = 2 then (l.boxW : Int) - tw else 0
    (gl.foldl (fun (out, pen) (b, i, g) =>
      (out ++ [⟨b, i, g, o + pen + g.bx, (l.h 36 : Int) - g.by_⟩], pen + g.adv + l.track)) (([] : List Placed), (0 : Int))).1

/-- The coverage of glyph pixel (gx, gy), 0 to 4,096 (R169). -/
def glyphCover (gs : List Nat) (g : Glyph) (gx gy : Nat) : Nat :=
  let o := gsMap gs + g.ofs + gy * g.rowBytes
  if g.depth = 0 then (if bitOf (leAt gs (o + gx / 8) 1) (gx % 8) then 4096 else 0)
  else
    let v := leAt gs (o + gx / 2) 1 / 16 ^ (gx % 2) % 16
    273 * v + 273 * v / 2048

/-- The bytes of the glyph set that a glyph pixel comes from: its map entry, its directory entry, its bits. -/
def glyphBytes (l : Layer) (gs : List Nat) (p : Placed) (gx gy : Nat) : List Nat :=
  let dir := gsDir gs + 16 * p.index
  [16 + 512 * l.b 29 + 2 * p.byte, dir, dir + 8, gsMap gs + p.glyph.ofs + gy * p.glyph.rowBytes + (if p.glyph.depth = 0 then gx / 8 else gx / 2)]

/-- The coverage of local pixel (u, v), the largest of the glyphs that reach it, and whether any of them is poisoned there. -/
def FrameIn.textCover (f : FrameIn) (l : Layer) (ps : List Placed) (u v : Int) : Nat × Bool :=
  match f.gs with
  | none => (0, false)
  | some gs =>
    ps.foldl (fun (a, bad) p =>
      let gx := (u - p.u).toNat
      let gy := (v - p.v).toNat
      if decide (p.u ≤ u) && decide (gx < p.glyph.w) && decide (p.v ≤ v) && decide (gy < p.glyph.h) then
        let hit := (glyphBytes l gs p gx gy).any fun o => f.bad.any fun x => match x with
          | .glyph _ b => b / 8 == o / 8
          | _ => false
        (max a (glyphCover gs p.glyph gx gy), bad || hit)
      else (a, bad)) (0, false)

/-- The pixels that a text layer loses: their lines in the frame (R172). -/
def FrameIn.lost (f : FrameIn) (l : Layer) : List Int :=
  match f.gs with
  | none => []
  | some gs =>
    (f.glyphs l).flatMap fun p => (List.range p.glyph.h).flatMap fun (gy : Nat) => (List.range p.glyph.w).filterMap fun (gx : Nat) =>
      let u := p.u + (gx : Int)
      let v := p.v + (gy : Int)
      let (x, y) := rotate l l.boxW l.boxH u v
      let inside := inBox l.boxW l.boxH u v && decide (0 ≤ x) && decide (x < f.width) && decide (0 ≤ y) && decide (y < f.job.frameLines)
      if glyphCover gs p.glyph gx gy ≠ 0 && !inside then some y else none

/-! ## Codes (R173) -/

/-- Local pixel (u, v) of a code field lies on a dark module. -/
def darkAt (l : Layer) (s : Symbol) (u v : Int) : Bool :=
  let k := u / l.module - l.qz
  let r := if l.sym = 2 then 0 else v / l.module - l.qz
  decide (0 ≤ k) && decide (k < s.cols) && decide (0 ≤ r) && decide (r < s.rows) && s.dark.getD (r.toNat * s.cols + k.toNat) false

/-! ## Composing (R168, R169, R180) -/

/-- One pixel of one layer on channel `c`: the operator to apply with source and weight, and poison; none where the layer leaves the
sample alone. -/
def FrameIn.source (f : FrameIn) (i : Nat) (l : Layer) (ps : List Placed) (c x y : Nat) : Option (Nat × Nat × Nat × Bool) :=
  let op := l.op c
  let fill := l.fill.getD c 0
  let entry := f.layoutPoison (some i)
  if op = 0 then none
  else if l.kind ≤ 1 then
    match f.planes.find? fun p => p.stream == l.stream with
    | none => none
    | some p =>
      let dx : Int := x - l.x
      let dy : Int := y - l.y
      if decide (0 ≤ dx) && decide (dx < p.f * p.w) && decide (0 ≤ dy) && decide (dy < p.f * p.h) then
        if l.kind = 0 then
          let (s, bad) := f.contone p l.bilinear c dx.toNat dy.toNat
          some (op, s, 4096, bad || entry)
        else if p.bit dx.toNat dy.toNat || f.planePoison p c dx.toNat dy.toNat then
          some (op, fill, if p.bit dx.toNat dy.toNat then 4096 else 0, f.planePoison p c dx.toNat dy.toNat || entry)
        else none
      else none
  else
    let (bw, bh) := f.box i l
    let (u, v) := unrotate l bw bh x y
    let bad := entry || (f.fieldPoison l.field).isSome
    if !inBox bw bh u v then none
    else if l.kind = 2 then
      let (a, hit) := f.textCover l ps u v
      if a = 0 ∧ !hit then none else some (op, fill, a, bad || hit)
    else match f.symbols.find? fun s => s.layer == i with
      | none => none
      | some s =>
        let bad := bad || s.poison
        if op = 3 then some (3, 0, 4096, bad)
        else if darkAt l s u v then some (op, fill, 4096, bad)
        else if l.clear then some (1, 0, 4096, bad)
        else none

/-- The composed samples of line `y` of a frame, per channel, and the poisoned granules of 4. -/
def FrameIn.compose (f : FrameIn) (y : Nat) : List (List Nat) × List (Nat × Nat) :=
  let ls := ((List.range f.layers.length).zip f.layers).filter fun (i, l) => f.crosses i l y
  let ls := ls.map fun (i, l) => (i, l, if l.kind = 2 then f.glyphs l else [])
  let head := f.layoutPoison none
  let px := (List.range f.job.channels).map fun c => (List.range f.width).map fun x =>
    ls.foldl (fun (d, bad) (i, l, ps) => match f.source i l ps c x y with
      | none => (d, bad)
      | some (op, s, a, p) => (applyOp op d s a, bad || p)) (layBase f.lay c, head)
  let bad := (List.range f.job.channels).flatMap fun c =>
    (List.range (cdiv f.width 4)).filterMap fun g =>
      if (((px.getD c []).drop (4 * g)).take 4).any (·.2) then some (c, g) else none
  (px.map fun l => l.map (·.1), bad)

/-- The cycles that line `y` costs (R179). -/
def FrameIn.cycles (f : FrameIn) (y : Nat) : Nat :=
  ((List.range f.layers.length).zip f.layers).foldl (fun n (i, l) =>
    if f.crosses i l y then
      let (x, _, w, _) := f.span i l
      let cols := (min (f.width : Int) (x + w) - max 0 x).toNat
      n + cdiv (cols * ((List.range f.job.channels).filter fun c => l.op c ≠ 0).length) 128
    else n) 16

/-- The first light-area pixel of a code layer on line `y` above LIMIT: sample and channel (R177). -/
def FrameIn.lightBad (f : FrameIn) (i : Nat) (l : Layer) (y limit : Nat) (px : List (List Nat)) : Option (Nat × Nat) :=
  match f.symbols.find? fun s => s.layer == i with
  | none => none
  | some s =>
    let (bw, bh) := f.box i l
    (List.range f.width).findSome? fun x =>
      let (u, v) := unrotate l bw bh x y
      if !inBox bw bh u v || darkAt l s u v then none
      else (List.range f.job.channels).findSome? fun c =>
        let v := (px.getD c []).getD x 0
        if l.op c ≠ 0 ∧ limit < v then some (v, c) else none

/-! ## Which line comes next -/

/-- The next line to compose: after the newest one, across a splice into the new job; with none composed yet, or after a job's end, line 0
of the live job. A replay renders the line that its stream names, one at a time (R504). -/
def Dev.nextCompose (d : Dev) : Option (Job × Nat) :=
  let fresh (not : Nat) : Option (Job × Nat) := (d.live?.filter fun j => j.tag != not).map fun j => (j, 0)
  match d.recd.replay with
  | some r => if d.dmk.screened.isSome || d.dmk.mapped.isSome then none else match r.head with
    | some (t, l) => (d.job? t).map fun j => (j, l)
    | none => none
  | none => match d.dmk.front with
  | none => fresh 0
  | some (t, l) =>
    match d.job? t, d.lineFrom t l with
    | some _, some x => some x
    | _, _ => fresh t

/-- A line goes on to Twill: the slot behind Damask takes it, and the next line is the one after it. -/
def Dev.composedLine (d : Dev) (j : Job) (line : Nat) (px : List (List Nat)) (bad : List (Nat × Nat)) : Dev :=
  { d with dmk := { d.dmk with composed := some ⟨j.tag, line, px, bad⟩, front := some (j.tag, line + 1), starved := none } }

/-- Line 0 of a frame begins: its PSO cues take slots (R70), an armed capture starts (R494), what is reported once per frame begins anew. -/
def Dev.frameBegins (d : Dev) (j : Job) (line : Nat) (f : FrameIn) : Dev :=
  let d := { d with dmk := { d.dmk with width := f.width, qzPosted := [], poisonPosted := [] } }
  let start := pwAdd j.base (256 * line)
  let d := ((List.range 8).map (cueAt f.lay)).foldl (fun d (out, level, edge, valid, ofs) =>
    if valid then (d.scheduleNow 3 ⟨pwAdd start ofs, .pso out level, if edge then .edge else .predict⟩).1 else d) d
  let d := d.captureStart (some (j, line))
  if f.layers.any fun l => l.kind == 3 then d else d.modFrame j.tag f.frame fun r => { r with painted := true }

/-- The argument word of a Damask event that names layer and layout. -/
def layerArg (i num : Nat) : Nat := i + 2 ^ 8 * num

/-- The fields that line `y` crosses and that hold a poisoned byte: once per frame each (R180, R181). -/
def Dev.fieldsPoisoned (d : Dev) (f : FrameIn) (y : Nat) : Dev :=
  ((List.range f.layers.length).zip f.layers).foldl (fun d (i, l) =>
    if !l.isField || !f.crosses i l y || d.dmk.poisonPosted.contains l.field then d
    else match f.fieldPoison l.field with
      | none => d
      | some o =>
        let d := { d with dmk := { d.dmk with poisonPosted := d.dmk.poisonPosted ++ [l.field] } }
        (d.finding f.job.tag f.frame vReject cCodeField (some y) none).post 0xB013 sevWarn [f.job.tag, f.frame, l.field, layerArg i f.num, y, o]) d

/-- The light areas of the code fields that line `y` crosses (R177). -/
def Dev.lightAreas (d : Dev) (f : FrameIn) (y : Nat) (px : List (List Nat)) : Dev :=
  ((List.range f.layers.length).zip f.layers).foldl (fun d (i, l) =>
    if l.kind ≠ 3 || !f.crosses i l y || d.dmk.qzPosted.contains i then d
    else match f.lightBad i l y (d.get Reg.PIPE_DMK_QZ.LIMIT) px with
      | none => d
      | some (v, c) =>
        let d := { d with dmk := { d.dmk with qzPosted := d.dmk.qzPosted ++ [i] } }
        let d := d.finding f.job.tag f.frame (if l.qzSuspect then vSuspect else vReject) cLightArea (some y) none
        (d.bump Reg.PIPE_DMK_CNT.QZ_VIOL).post 0xB011 sevWarn [f.job.tag, f.frame, l.field, layerArg i f.num, y, v + 2 ^ 12 * c]) d

/-- FIELD_CLIPPED for each field that lost a pixel, after the frame's last image line (R172). A field whose lost pixels all lie on no line of
the frame has no stated line: a free value. -/
def Dev.fieldsClipped (d : Dev) (f : FrameIn) : Dev :=
  let texts := ((List.range f.layers.length).zip f.layers).filter fun (_, l) => l.kind == 2
  (List.range (layFields f.lay)).foldl (fun d k =>
    let hit := (texts.filter fun (_, l) => decide (l.field = k)).map fun (i, l) => (i, f.lost l)
    let hit := hit.filter fun (_, l) => l != []
    match hit with
    | [] => d
    | (i, _) :: _ =>
      let all : List Int := hit.flatMap (·.2)
      let lines := (all.filter fun y => decide (0 ≤ y) && decide (y < (f.job.frameLines : Int))).map Int.toNat
      let (line, d) := match lines with
        | [] => d.draw 32
        | y :: t => (t.foldl min y, d)
      (d.bump Reg.PIPE_DMK_RES.CLIPPED).post 0xB010 sevInfo [f.job.tag, f.frame, k, layerArg i f.num, line, min (2 ^ 32 - 1) all.length]) d

/-- A frame's last image line has been composed: its record leaves the buffer with its symbols (R106). -/
def Dev.frameComposed (d : Dev) (f : FrameIn) : Dev :=
  let d := d.fieldsClipped f
  let other (t n : Nat) : Bool := !(t == f.job.tag && n == f.frame)
  let mine (x : Datum) : Bool := match x with
    | .record t n _ => !other t n
    | _ => false
  let d := (d.clearPoison mine).modFrame f.job.tag f.frame fun r => { r with composed := true }
  let records := d.dmk.records.filter fun r => other r.tag r.frame
  let painted := d.dmk.painted.filter fun p => other p.tag p.frame
  { d with dmk := { d.dmk with records := records, painted := painted } }

/-- Compose one image line. `residues` are granules whose residue check fails (R180). -/
def Dev.composeImage (d : Dev) (j : Job) (line y : Nat) (r : Rec) (residues : List (Nat × Nat)) : Dev :=
  let f := d.frameIn j r
  let d := if y = 0 then d.frameBegins j line f else d
  let (px, bad) := f.compose y
  let met := f.bad.filter fun x => (({ f with bad := [x] }).compose y).2 != []
  let d := ((d.ueRead met).bumpBy Reg.PIPE_DMK_RES.RESIDUE residues.length).fieldsPoisoned f y
  let d := d.lightAreas f y px
  let cost := min 65535 (f.cycles y)
  let d := if d.get Reg.PIPE_DMK_LINE.CYCLES_MAX < cost then d.put Reg.PIPE_DMK_LINE.CYCLES_MAX cost else d
  let d := { d with ecc := { d.ecc with once := d.ecc.once.filter fun x => !datumOfJob j.tag x } }
  let d := if y + 1 = j.frameLines then d.frameComposed f else d
  d.composedLine j line px (bad ++ residues.filter fun g => !bad.contains g)

/-- Line 0 of this frame waits for its code symbols (R178). -/
def Dev.paintWaits (d : Dev) (tag frame : Nat) : Bool :=
  match d.dmk.paintWait with
  | some (t, n, _) => t == tag && n == frame
  | none => false

/-- PAINT_LATE once the symbols that line 0 of a frame waited for are there: field and layer are free values (log entry 48), the layout is the
frame's. A wait for a frame that is composed no more has no end. -/
def Dev.paintLate (d : Dev) (tag frame layout : Nat) : Dev :=
  match d.dmk.paintWait with
  | none => d
  | some (_, _, t) =>
    let late := d.paintWaits tag frame
    let d := { d with dmk := { d.dmk with paintWait := none } }
    if !late then d
    else
      let (fld, d) := d.draw 32
      let (layer, d) := d.draw 8
      d.post 0xB014 sevInfo [tag, frame, fld, layerArg layer layout, 0, min (2 ^ 32 - 1) (d.since t)]

/-- The frame's code fields have all been painted. -/
def Dev.isPainted (d : Dev) (f : FrameIn) : Bool :=
  !(f.layers.any fun l => l.kind == 3) || d.dmk.painted.any fun p => p.tag == f.job.tag && p.frame == f.frame

/-! ## The code painter (R174 to R176, R178) -/

/-- The next record whose symbols have not been painted. -/
def Dev.nextPaint (d : Dev) : Option Rec :=
  d.dmk.records.find? fun r => !(d.dmk.painted.any fun p => p.tag == r.tag && p.frame == r.frame)

/-- CODE_PAINT: both paths encode the code fields of the next frame. `differ` are the layers whose paths disagree, with what differs: [0]
codewords, [1] check values, [2] module CRC. The line of CODE_MISMATCH is not stated: a free value. -/
def execCodePaint (dt : Nat) (differ : List (Nat × Nat)) (s : State) : Host.Outcome State Fault Refusal :=
  s.act dt fun d =>
    if !d.mode.printing ∨ d.renderPaused then d
    else match d.nextPaint with
      | none => d
      | some r =>
        match d.job? r.tag with
        | none => d
        | some j =>
          let f := d.frameIn j r
          let codes := ((List.range f.layers.length).zip f.layers).filter fun (_, l) => l.kind == 3
          let bad (i : Nat) : Nat := ((differ.find? fun x => x.1 == i).map fun x => x.2 % 8).getD 0
          let symbols := codes.filterMap fun (i, l) =>
            (codeSymbol l.sym l.size l.gs1 (f.field l.field)).map fun (rows, cols, dark) =>
              (⟨i, rows, cols, dark, bad i ≠ 0 || (f.fieldPoison l.field).isSome⟩ : Symbol)
          let p : Painted := ⟨r.tag, r.frame, symbols⟩
          let d := { d with dmk := { d.dmk with painted := d.dmk.painted ++ [p] } }
          let d := d.put Reg.PIPE_DMK_SYMBOLS.SYMBOLS (d.get Reg.PIPE_DMK_SYMBOLS.SYMBOLS + symbols.length)
          let d := codes.foldl (fun d (i, l) =>
            if bad i = 0 then d
            else
              let (line, d) := d.draw 32
              let d := (d.bump Reg.PIPE_DMK_CNT.CODE_MISMATCH).finding r.tag r.frame vReject cCodeField none none
              d.post 0xB012 sevFault [r.tag, r.frame, l.field, layerArg i r.layout, line, bad i]) d
          d.modFrame r.tag r.frame fun q => { q with painted := true }

end Sys2Proof.Machine
end

