-- ==== Sys2Proof/Machine/Twill.lean ====
section
/-! DEFINITION. Per-job tables as loaded (R185 to R197) and Twill screening (R183, R198 to R206). -/
namespace Sys2Proof.Machine

/-! ## Loads of the per-job tables -/

/-- Another job holds a bank beside this one (R185). -/
def Dev.shared (d : Dev) (tag : Nat) : Bool := (d.otherHolder tag).isSome

/-- Twill has begun a line of a job. -/
def Dev.twillBegun (d : Dev) (tag : Nat) : Bool :=
  match d.twl.begun with
  | some (t, _) => t == tag
  | none => false

/-- A load of a per-job table: the job and its bank, INSTANCE, OFFSET, LEN (R185, R188, R534). -/
def Dev.jobTable (d : Dev) (ring : Nat) (x : Desc) (kind : Nat) (perChannel : Bool) (ofsOk : Nat → Nat → Bool) (lenOk : Nat → Nat → Bool)
    (f : Dev → Ticket → Job → Dev) : Dev :=
  d.onTake (d.takeTable ring x kind) fun d t =>
    match d.job? (tlTag x) with
    | none => d.complete t stNoJob 0
    | some j =>
      if j.phase = .ending then d.complete t stNoJob 0
      else if (if perChannel then j.channels else 1) ≤ tlInst x then d.complete t stBadParam 4
      else if !ofsOk (tlOfs x) x.len then d.complete t stBadParam 5
      else if !lenOk (tlOfs x) x.len then d.complete t stBadLength 0
      else if d.shared j.tag && (j.phase == .live || d.twillBegun j.tag) then d.complete t stTableInUse 0
      else f d t j

/-- The bank that a load changes: the inactive one of a live job, else the job's own. -/
def Dev.loadBank (d : Dev) (j : Job) : TwlBank :=
  if j.phase = .live then d.twlMask (31 - j.bank % 32) else d.twlOf j

/-- What a load of a per-job table writes of bank `b`: its kind (0 to 4), its channel, and of a curve its entries, of the ramps whole
ramps, from `lo` on, `n` of them (R377). -/
def tableDatum (kind bank c lo n : Nat) : Datum → Bool
  | .curve b k e => kind == 0 && b == bank && k == c && decide (lo ≤ e) && decide (e < lo + n)
  | .matrix b k _ => kind == 1 && b == bank && k == c
  | .ramp b q _ => kind == 2 && b == bank && decide (lo ≤ q) && decide (q < lo + n)
  | .kernel b _ => kind == 3 && b == bank
  | .level b k _ => kind == 4 && b == bank && k == c
  | _ => false

/-- A load of kind `k` is complete: into the live job's inactive bank, where it waits for the switch (R186), or at once into the job's own
bank. A job that holds both banks and is not live keeps them equal. -/
def Dev.storeTable (d : Dev) (t : Ticket) (j : Job) (k c lo n : Nat) (src : TwlBank) : Dev :=
  let live := j.phase == .live
  let bank := b2n (bitOf j.bank k != live)
  let both := !live && !d.shared j.tag
  let d := d.clearPoison fun p => tableDatum k bank c lo n p || (both && tableDatum k (1 - bank) c lo n p)
  let d := d.putTwl j live k src
  let d := if live then { d with twl := { d.twl with pending := setBit d.twl.pending k true } }
    else if d.shared j.tag then d else d.putTwl j true k src
  let d := if live then d.mirror 10 j.tag (d.freshFrame * j.repeat_) (.switch (2 ^ (k + 3))) else d
  d.complete t stOk 0

/-- The entries of a knot load (R191). -/
def knotCurve (kn : List (Nat × Nat)) : List Nat :=
  (List.range 4096).map fun (i : Nat) =>
    match (kn.zip (kn.drop 1)).find? fun (_, b) => decide (i ≤ b.1) with
    | some ((xa, ya), (xb, yb)) =>
      let num : Int := ((i : Int) - xa) * ((yb : Int) - ya)
      let den : Int := (xb : Int) - xa
      ((ya : Int) + (2 * num + den) / (2 * den)).toNat
    | none => 0

/-- The index of the first knot that breaks R190. -/
def knotBad (bs : List Nat) : Option Nat :=
  let n := bs.length / 8
  let x (i : Nat) : Nat := leAt bs (8 * i) 2
  (List.range n).find? fun i =>
    leAt bs (8 * i + 4) 4 ≠ 0 || (i == 0 && x 0 != 0) || (i != 0 && decide (x i ≤ x (i - 1))) || (i + 1 == n && x i != 4095)

/-- Entries as little-endian 16-bit words. -/
def words16 (bs : List Nat) : List Nat := (List.range (bs.length / 2)).map fun i => leAt bs (2 * i) 2

/-- TONE_CURVE_LOAD. `residue` says that the knot fill fails its residue check (R380). -/
def execToneCurveLoad (dt : Nat) (ring : Nat) (x : Desc) (data : Fetch) (residue : Bool) (s : State) : Host.Outcome State Fault Refusal :=
  s.act dt fun d =>
    let knots := bitOf (tlOfs x) 31
    d.jobTable ring x 2 true
      (fun o n => if knots then decide (o = 0x80000000) else decide (o < 4096 ∧ o + n / 2 ≤ 4096))
      (fun _ n => !knots || decide (16 ≤ n ∧ n ≤ 32768)) fun d t j =>
      d.tableData t x data fun d bytes =>
        let c := tlInst x
        let b := d.loadBank j
        if knots then
          match knotBad bytes with
          | some i => d.complete t stTableBad i
          | none =>
            if residue then d.complete t stTableBad 0xFFFD
            else
              let kn := (List.range (bytes.length / 8)).map fun i => (leAt bytes (8 * i) 2, leAt bytes (8 * i + 2) 2)
              d.storeTable t j 0 c 0 4096 { b with curves := kvPut b.curves c (knotCurve kn) }
        else
          let old := (List.range 4096).map fun i => b.curve c i
          let new := old.take (tlOfs x) ++ words16 bytes ++ old.drop (tlOfs x + bytes.length / 2)
          d.storeTable t j 0 c (tlOfs x) (bytes.length / 2) { b with curves := kvPut b.curves c new }

/-- THRESHOLD_MATRIX_LOAD (R196). -/
def execThresholdMatrixLoad (dt : Nat) (ring : Nat) (x : Desc) (data : Fetch) (s : State) : Host.Outcome State Fault Refusal :=
  s.act dt fun d =>
    d.jobTable ring x 3 true (fun o _ => decide (o = 0)) (fun _ n => decide (24 ≤ n)) fun d t j =>
      d.tableData t x data fun d bytes =>
        let mw := leAt bytes 0 1 + 1
        let mh := leAt bytes 1 1 + 1
        let n := mw * mh
        let px := leAt bytes 2 1
        let py := leAt bytes 3 1
        let entries := words16 ((bytes.drop 16).take (2 * n))
        if bytes.length ≠ cdiv (16 + 2 * n) 8 * 8 then d.complete t stBadLength 0
        else if mw ≤ px ∨ mh ≤ py ∨ !((bytes.take 16).drop 4).all (· == 0) then d.complete t stTableBad 0xFFFF
        else match (List.range n).find? fun i => decide (entries.getD i 0 / 4096 = 15) with
          | some i => d.complete t stTableBad i
          | none =>
            if !(bytes.drop (16 + 2 * n)).all (· == 0) then d.complete t stTableBad 0xFFFF
            else
              let b := d.loadBank j
              let m : Matrix := ⟨mw, mh, px, py, entries⟩
              d.storeTable t j 1 (tlInst x) 0 0 { b with matrices := kvPut b.matrices (tlInst x) m }

/-- The DETAIL of the first boundary of ramp `q` that breaks R197 for NL levels, and whether its reserved bytes are 0. -/
def rampBad (nl q : Nat) (bs : List Nat) : Option Nat :=
  let b (j : Nat) : Nat := leAt bs (4 * (j - 1)) 2
  let s (j : Nat) : Nat := leAt bs (4 * (j - 1) + 2) 2
  ((List.range (nl - 1)).map (· + 1)).findSome? fun j =>
    if j + 1 < nl ∧ (b (j + 1) < b j ∨ b (j + 1) + s (j + 1) < b j + s j) then some (16 * q + j) else none

/-- THRESHOLD_RAMPS_LOAD (R197). A reserved byte that is not 0 fails it; the DETAIL of that is not stated: a free value. -/
def execThresholdRampsLoad (dt : Nat) (ring : Nat) (x : Desc) (data : Fetch) (s : State) : Host.Outcome State Fault Refusal :=
  s.act dt fun d =>
    d.jobTable ring x 4 false (fun o n => decide (o ≤ 14) && (n % 64 ≠ 0 || decide (o + n / 64 ≤ 15))) (fun _ n => decide (n % 64 = 0)) fun d t j =>
      d.tableData t x data fun d bytes =>
        let n := bytes.length / 64
        let ramp (i : Nat) : List Nat := (bytes.drop (64 * i)).take 64
        match (List.range n).findSome? fun i => rampBad j.levels (tlOfs x + i) (ramp i) with
        | some detail => d.complete t stTableBad detail
        | none =>
          if (List.range n).any fun i => leAt (ramp i) 60 4 ≠ 0 then
            let (detail, d) := d.draw 16
            d.complete t stTableBad detail
          else
            let b := d.loadBank j
            let new := (List.range n).foldl (fun m i => (List.range 15).foldl (fun m k =>
              kvPut m (16 * (tlOfs x + i) + k + 1) (leAt (ramp i) (4 * k) 2, leAt (ramp i) (4 * k + 2) 2)) m) (b.ramps.getD [])
            d.storeTable t j 2 0 (tlOfs x) n { b with ramps := some new }

/-- The DETAIL of the first failing check of a kernel table for a number of channels (R194). -/
def kernelBad (channels : Nat) (bs : List Nat) : Option Nat :=
  let b (o : Nat) : Nat := leAt bs o 1
  let bad := (List.range 8).find? fun c =>
    decide (1 < b (4 * c)) || decide (4 < b (4 * c + 1)) || decide (1 < b (4 * c + 2)) || b (4 * c + 3) != 0
      || (decide (channels ≤ c) && leAt bs (4 * c) 4 != 0)
  let taps := (List.range 7).map fun i => b (32 + i)
  let uses4 := (List.range 8).any fun c => b (4 * c + 1) == 4
  match bad with
  | some c => some c
  | none =>
    match (List.range 7).find? fun i => decide (16 < taps.getD i 0) with
    | some i => some (32 + i)
    | none =>
      if uses4 && taps.all (· == 0) then some 32
      else match (if uses4 then (List.range 7).find? fun i => decide (16 < (taps.take (i + 1)).foldl (· + ·) 0) else none) with
        | some i => some (32 + i)
        | none => if b 39 = 0 then none else some 39

/-- DIFFUSION_KERNEL_LOAD (R194, R195). -/
def execDiffusionKernelLoad (dt : Nat) (ring : Nat) (x : Desc) (data : Fetch) (s : State) : Host.Outcome State Fault Refusal :=
  s.act dt fun d =>
    d.jobTable ring x 5 false (fun o _ => decide (o = 0)) (fun _ n => decide (n = 40)) fun d t j =>
      d.tableData t x data fun d bytes =>
        match kernelBad j.channels bytes with
        | some detail => d.complete t stTableBad detail
        | none =>
          let b := d.loadBank j
          let new : TwlBank := { b with kernel := bytes }
          match (if j.phase = .live then new.lacks j.channels else none) with
          | some c => d.complete t stTableBad (0xF000 + c)
          | none => d.storeTable t j 3 0 0 0 new

/-- The first failing entry of a level-to-drop table (R193). -/
def levelsBad (nl : Nat) (bs : List Nat) : Option Nat :=
  let v (k : Nat) : Nat := leAt bs (4 * k) 2
  (List.range 16).find? fun k =>
    leAt bs (4 * k + 3) 1 != 0
      || (if k < nl then (k != 0 && decide (v k < v (k - 1))) || decide (nl ≤ leAt bs (4 * k + 2) 1) else leAt bs (4 * k) 4 != 0)

/-- LEVEL_TO_DROP_LOAD (R193). -/
def execLevelToDropLoad (dt : Nat) (ring : Nat) (x : Desc) (data : Fetch) (s : State) : Host.Outcome State Fault Refusal :=
  s.act dt fun d =>
    d.jobTable ring x 6 true (fun o _ => decide (o = 0)) (fun _ n => decide (n = 64)) fun d t j =>
      d.tableData t x data fun d bytes =>
        match levelsBad j.levels bytes with
        | some k => d.complete t stTableBad k
        | none =>
          let b := d.loadBank j
          let v := (List.range 16).map fun k => leAt bytes (4 * k) 2
          let g := (List.range 16).map fun k => leAt bytes (4 * k + 2) 1
          d.storeTable t j 4 (tlInst x) 0 0 { b with levels := kvPut b.levels (tlInst x) (v, g) }

/-! ## Screening one sample (R183, R198) -/

/-- The scaled value w of a sample. -/
def scaled (t g : Nat) : Nat := min 65535 ((t * g + 16384) / 32768)

/-- The level of THRESHOLD mode. -/
def thrLevel (b : TwlBank) (nl c x n w : Nat) : Nat :=
  match kvGet b.matrices c with
  | none => 0
  | some m =>
    let e := m.entries.getD ((n + m.py) % m.mh * m.mw + (x + m.px) % m.mw) 0
    let r := e % 4096
    let q := e / 4096
    (List.range (nl - 1)).foldl (fun k j =>
      let (bb, ss) := b.ramp q (j + 1)
      if bb + r * ss / 4096 ≤ w then k + 1 else k) 0

/-- The seven taps of a kernel: (dx, dy, weight) in table order (R199). -/
def tapsOf (b : TwlBank) (k : Nat) : List (Int × Nat × Nat) :=
  let w : List Nat := match k with
    | 0 => [7, 0, 0, 3, 5, 1, 0]
    | 1 => [4, 2, 1, 2, 4, 2, 1]
    | 2 => [8, 0, 0, 4, 4, 0, 0]
    | 3 => [6, 2, 1, 2, 3, 1, 1]
    | _ => (List.range 7).map fun i => b.kernelByte (32 + i)
  let at_ : List (Int × Nat) := [(1, 0), (2, 0), (-2, 1), (-1, 1), (0, 1), (1, 1), (2, 1)]
  ((at_.zip w).map fun ((dx, dy), w) => (dx, dy, w)).filter fun (_, _, w) => decide (0 < w)

/-- Saturation to 22 bits signed. -/
def sat22 (x : Int) : Int := max (-2097152) (min 2097151 x)

/-- The highest level whose threshold u reaches (R200, R201). -/
def edLevel (v : List Nat) (nl : Nat) (u : Int) : Nat :=
  ((List.range (nl - 1)).map (· + 1)).foldl (fun best k =>
    let m : Nat := (v.getD (k - 1) 0 + v.getD k 0 + 1) / 2
    if 16 * (m : Int) ≤ u then k else best) 0

/-- A diffusion pass at work: both rows of the window, levels emitted, saturated additions and the first column of one. -/
structure Pass where
  cur : List Int
  next : List Int
  out : List (Nat × Nat)
  sat : Nat
  satAt : Option Nat
  deriving DecidableEq, Repr

/-- Add a part into an entry. -/
def Pass.add (p : Pass) (tx i dy : Nat) (part : Int) : Pass :=
  let row := if dy = 0 then p.cur else p.next
  let sum := row.getD i 0 + part
  let row := setAt row i (sat22 sum)
  let p := if sat22 sum = sum then p else { p with sat := p.sat + 1, satAt := match p.satAt with
    | some a => some a
    | none => some tx }
  if dy = 0 then { p with cur := row } else { p with next := row }

/-- One column of a pass; `fails` says that a residue check fails there (R206). -/
def Pass.column (p : Pass) (taps : List (Int × Nat × Nat)) (v : List Nat) (nl lo hi : Nat) (dir : Int) (x w : Nat) (fails : Bool) : Pass :=
  let p := if fails then { p with cur := p.cur.map fun _ => 0, next := p.next.map fun _ => 0 } else p
  let u : Int := 16 * (w : Int) + p.cur.getD (x - lo) 0
  let k := edLevel v nl u
  let err := u - 16 * (v.getD k 0 : Int)
  let p := taps.foldl (fun p (dx, dy, wt) =>
    let tx : Int := (x : Int) + dir * dx
    if (lo : Int) ≤ tx ∧ tx ≤ hi then p.add tx.toNat (tx.toNat - lo) dy ((err * (wt : Int) + 8) / 16) else p) p
  { p with out := p.out ++ [(x, k)] }

/-! ## Stripes (R202, R203) -/

/-- The segments of stripe `s`: channel, first and last body column. -/
def segmentsOf (channels width s : Nat) : List (Nat × Nat × Nat) :=
  (List.range channels).filterMap fun c =>
    let f0 := 4096 * s
    let a := f0 - c * width
    let b := min width (f0 + 4096 - c * width)
    if c * width < f0 + 4096 ∧ a < b then some (c, a, b - 1) else none

/-- Everything that screening one line needs. -/
structure ScreenIn where
  bank : TwlBank
  bankBits : Nat
  nl : Nat
  width : Nat
  line : Nat
  gains : GzBank
  gainBank : Nat
  ntw : Nat
  samples : List (List Nat)
  cpoison : List (Nat × Nat)
  bad : List Datum
  residues : List (Nat × Nat × Nat)
  deriving DecidableEq, Repr

def ScreenIn.sample (i : ScreenIn) (c x : Nat) : Nat := (i.samples.getD c []).getD x 0

/-- w of a logical nozzle. -/
def ScreenIn.w (i : ScreenIn) (c x : Nat) : Nat := scaled (i.bank.curve c (i.sample c x)) (neGain (i.gains.entry (c * i.ntw + x)))

/-- V of a channel, one entry per level. -/
def ScreenIn.v (i : ScreenIn) (c : Nat) : List Nat := (List.range i.nl).map fun k => i.bank.level i.nl c k

/-- The bank of kind `k` that the line uses. -/
def ScreenIn.bk (i : ScreenIn) (k : Nat) : Nat := b2n (bitOf i.bankBits k)

/-- The stripe unit whose body holds a nozzle (R202). -/
def ScreenIn.stripe (i : ScreenIn) (c x : Nat) : Nat := (c * i.width + x) / 4096

/-- An input that screening a nozzle to level `k` consumed is poisoned (R206): a mark counts for its whole 8-byte granule. Of a ramp the
step consumes the boundaries below NL, of the levels in diffusion every V in use and in THRESHOLD mode the one CODE, of the kernel table
the channel's entry and, for kernel 4, the taps. A marked error-row entry marks the granule of its own column alone (log entry 150). -/
def ScreenIn.poisoned (i : ScreenIn) (c x k : Nat) : Bool :=
  let smp := i.sample c x
  let thr := i.bank.threshold c
  i.cpoison.contains (c, x / 4) || i.bad.any fun q => match q with
    | .composed cc g => cc == c && g == x / 4
    | .nozzle b e => b == i.gainBank && e == c * i.ntw + x
    | .curve b cc e => b == i.bk 0 && cc == c && e / 4 == smp / 4
    | .matrix b cc e => thr && b == i.bk 1 && cc == c && (match kvGet i.bank.matrices c with
        | some m => e / 4 == ((i.line + m.py) % m.mh * m.mw + (x + m.px) % m.mw) / 4
        | none => false)
    | .ramp b q j => thr && b == i.bk 2 && decide ((j - 1) / 2 * 2 + 1 < i.nl) && (match kvGet i.bank.matrices c with
        | some m => q == m.entries.getD ((i.line + m.py) % m.mh * m.mw + (x + m.px) % m.mw) 0 / 4096
        | none => false)
    | .kernel b e => b == i.bk 3 && (e / 8 == c / 2 || (!thr && i.bank.kernelByte (4 * c + 1) == 4 && e / 8 == 4))
    | .errorRow s cc e => !thr && s == i.stripe c x && cc == c && e == x
    | .level b cc e => b == i.bk 4 && cc == c && (if thr then e / 2 == k / 2 else decide (e / 2 * 2 < i.nl))
    | _ => false

/-- A residue check fails at a column of a stripe. -/
def ScreenIn.fails (i : ScreenIn) (s c x : Nat) : Bool := i.residues.contains (s, c, x)

/-- What one segment gives: levels of its body, the error row that stays, columns scanned, columns with a residue failure, saturated
additions, first column of one. -/
structure SegOut where
  levels : List (Nat × Nat)
  row : List Int
  lo : Nat
  scanned : Nat
  failed : List Nat
  sat : Nat
  satAt : Option Nat
  deriving DecidableEq, Repr

/-- One pass of R201, or the threshold levels of a segment (R198). -/
def ScreenIn.segment (i : ScreenIn) (s c a b : Nat) (old : List Int) : SegOut :=
  if i.bank.threshold c then
    let xs := (List.range (b + 1 - a)).map (a + ·)
    ⟨xs.map fun x => (x, thrLevel i.bank i.nl c x i.line (i.w c x)), [], a, b + 1 - a, xs.filter (i.fails s c), 0, none⟩
  else
    let back := i.bank.serp c && decide (i.line % 2 = 1)
    let lo := a - 32
    let hi := min (b + 32) (i.width - 1)
    let xs := if back then ((List.range (hi + 1 - a)).map (a + ·)).reverse else (List.range (b + 1 - lo)).map (lo + ·)
    let n := hi + 1 - lo
    let taps := tapsOf i.bank (i.bank.kernelByte (4 * c + 1))
    let p := xs.foldl (fun p x => Pass.column p taps (i.v c) i.nl lo hi (if back then -1 else 1) x (i.w c x) (i.fails s c x))
      ⟨if old = [] then List.replicate n 0 else old, List.replicate n 0, [], 0, none⟩
    ⟨p.out.filter fun (x, _) => decide (a ≤ x ∧ x ≤ b), p.next, lo, xs.length, xs.filter (i.fails s c), p.sat, p.satAt⟩

/-- Stripes of a line. -/
def stripesOf (channels width : Nat) : Nat := cdiv (channels * width) 4096

/-! ## SCREEN_LINE -/

/-- The bits that two masks of 8 kinds share. -/
def maskOf (a b : Nat) : Nat := Nat.land a b

/-- At line 0 of a frame both error rows of every stripe are zero (R200), and no mark is left in them. -/
def Dev.zeroRows (d : Dev) : Dev :=
  let poisoned := d.ecc.poisoned.filter fun x => match x with
    | .errorRow _ _ _ => false
    | _ => true
  { d with twl := { d.twl with err := [], satPosted := [] }, ecc := { d.ecc with poisoned := poisoned } }

/-- Line 0 of a frame: the banks with loads waiting switch, and the device-wide tables with them (R186, R210); error rows are zero (R200). On
a unit that is not ACTIVE only the kinds switch that the active has named (R361). -/
def Dev.frameSwitch (d : Dev) (j : Job) (line frame : Nat) : Dev :=
  let p := if j.phase = .live then d.twl.pending else 0
  let open_ := if d.duplexed && !d.active then d.net.gate else 255
  let p := maskOf p (open_ / 8)
  let late := d.gz.pending - maskOf d.gz.pending open_
  let d := { d with gz := { d.gz with pending := d.gz.pending - late }, net := { d.net with gate := d.net.gate - maskOf d.net.gate (8 * p + d.gz.pending - late) } }
  let d :=
    if p = 0 then d
    else
      let bank := Nat.xor j.bank p
      let d := d.modJob j.tag fun k => { k with bank := bank }
      let d := (d.put Reg.PIPE_TWL_BANK.ACTIVE bank).put Reg.PIPE_TWL_BANK.FRAME frame
      let d := d.copyKinds { j with bank := bank } p
      let d := { d with twl := { d.twl with pending := d.twl.pending - p } }
      d.post 0xB021 sevInfo [j.tag, frame, 0, 0, 0, p]
  let (d, g) := d.gzSwitch j.tag frame
  let d := { d with gz := { d.gz with pending := late } }
  let d := d.switchRecord j.tag line (4 * p + g)
  let d := if d.twl.pending = 0 then d.openWaiting else d
  d.zeroRows

/-- The KINDs of a SWITCH record have changes that wait, so that the switch can be made; a job that goes live brings its own banks. -/
def Dev.switchReady (d : Dev) (r : List Nat) : Bool :=
  let (_, _, mask) := switchOfRec r
  (bitOf mask 0 || [2, 3, 4, 5, 6].all fun k => !bitOf mask k || bitOf d.twl.pending (k - 2))
    && (!bitOf mask 1 || bitOf d.gz.pending 0) && (!bitOf mask 7 || bitOf d.gz.pending 1) && (!bitOf mask 11 || bitOf d.gz.pending 2)

/-- In a replay, the KIND whose CRC after a switch is not the captured one. -/
def Dev.switchDiffers (d : Dev) (tag : Nat) (r : List Nat) : Bool :=
  let mask := (switchOfRec r).2.2
  ((List.range 12).filter fun k => decide (1 ≤ k) && bitOf mask k).any fun k => d.tableCrc (d.job? tag) k != switchCrc r k

/-- Events and counts of one screened segment. -/
def Dev.segmentDone (d : Dev) (tag frame y s c : Nat) (thr : Bool) (o : SegOut) : Dev :=
  let d := o.failed.foldl (fun d x =>
    (d.bump (if thr then Reg.PIPE_TWL_RES.RES_THR else Reg.PIPE_TWL_RES.RES_ED)).post 0xB020 sevWarn
      [tag, frame, y, c, x, b2n (!thr) + 2 * s]) d
  let d := d.bumpBy Reg.PIPE_TWL_SAT.SAT o.sat
  match o.satAt with
  | some x =>
    if d.twl.satPosted.contains s then d
    else ({ d with twl := { d.twl with satPosted := d.twl.satPosted ++ [s] } }).post 0xB022 sevInfo [tag, frame, y, c, x, s]
  | none => d

/-- A datum that Twill alone reads. -/
def twillDatum : Datum → Bool
  | .composed _ _ | .errorRow _ _ _ | .curve _ _ _ | .matrix _ _ _ | .ramp _ _ _ | .kernel _ _ | .level _ _ _ => true
  | _ => false

/-- The rest of SCREEN_LINE for an image line. -/
def Dev.screenImage (d : Dev) (j : Job) (cl : CLine) (residues : List (Nat × Nat × Nat)) : Dev × List (List Nat) × List (List Nat) × List (Nat × Nat) :=
  let width := (cl.samples.headD []).length
  let i : ScreenIn := {
    bank := d.twlOf j, bankBits := j.bank, nl := j.levels, width := width, line := cl.line, gains := d.gzBank 0
    gainBank := bitsOf (d.get Reg.PIPE_GZ_BANK.ACTIVE) 0 1, ntw := d.ntW, samples := cl.samples, cpoison := cl.poison
    bad := d.ecc.poisoned ++ d.ecc.once, residues := residues }
  let used := stripesOf j.channels width
  let frame := cl.line / j.repeat_
  let y := cl.line % j.repeat_
  let segs := (List.range used).flatMap fun s => (segmentsOf j.channels width s).map fun (c, a, b) =>
    let old := ((d.twl.err : List ErrRow).find? fun (r : ErrRow) => r.stripe == s && r.channel == c).map fun (r : ErrRow) => r.cur
    (s, c, a, b, i.segment s c a b (old.getD []))
  let d := segs.foldl (fun d (s, c, _, _, o) => d.segmentDone j.tag frame y s c (i.bank.threshold c) o) d
  let rows : List ErrRow := (segs.filter fun (_, c, _, _, _) => !i.bank.threshold c).map fun (s, c, _, _, o) => ⟨s, c, o.lo, o.row⟩
  let d := { d with twl := { d.twl with err := rows } }
  let cost (s : Nat) : Nat := (segs.filter fun x => x.1 == s).foldl (fun n (_, _, _, _, o) => n + o.scanned + 16) 0
  let top := min 8191 (((List.range used).map cost).foldl max 0)
  let d := if d.get Reg.PIPE_TWL_CYC.CYCLES_MAX < top then d.put Reg.PIPE_TWL_CYC.CYCLES_MAX top else d
  let chans (p : Nat → Bool) : Nat := ((List.range j.channels).filter p).foldl (fun m c => m + 2 ^ c) 0
  let d := ((d.put Reg.PIPE_TWL_STRIPES.USED used).put Reg.PIPE_TWL_STRIPES.CH_THR (chans i.bank.threshold)).put
    Reg.PIPE_TWL_STRIPES.CH_SERP (chans fun c => !i.bank.threshold c && i.bank.serp c)
  let levels := (List.range j.channels).map fun c =>
    let mine := (segs.filter fun x => x.2.1 == c).flatMap fun (_, _, _, _, o) => o.levels
    (List.range width).map fun x => ((mine.find? fun y => y.1 == x).map (·.2)).getD 0
  let failed := segs.flatMap fun (_, c, a, b, o) => (o.failed.filter fun x => decide (a ≤ x ∧ x ≤ b)).map fun x => (c, x)
  let bad := (List.range j.channels).flatMap fun c => (List.range (cdiv width 8)).filterMap fun g =>
    let xs := ((List.range 8).map (8 * g + ·)).filter (· < width)
    if xs.any fun x => i.poisoned c x ((levels.getD c []).getD x 0) || failed.contains (c, x) then some (c, g) else none
  let met := i.bad.filter fun p => twillDatum p && (List.range j.channels).any fun c => (List.range width).any fun x =>
    ({ i with bad := [p], cpoison := [] }).poisoned c x ((levels.getD c []).getD x 0)
  ((d.ueRead met).bumpBy Reg.PIPE_TWL_POISON.GRANULES bad.length, levels,
   ((List.range j.channels).zip levels).map fun (c, l) => l.map fun k => i.bank.code c k, bad)

/-- DMK_CRC of a line (R496). -/
def dmkCrc (tag line : Nat) (samples : List (List Nat)) : Nat :=
  crc32c ([0xFF, 0x71] ++ leBytes 5 line ++ [tag] ++ samples.flatMap fun l => l.flatMap (leBytes 2))

/-- Twill begins a line and screens it. -/
def Dev.screen (d : Dev) (j : Job) (cl : CLine) (residues : List (Nat × Nat × Nat)) : Dev :=
  let d := { d with twl := { d.twl with begun := some (cl.tag, cl.line) } }
  let image := decide (cl.line % j.repeat_ < j.frameLines)
  let (d, levels, codes, bad) :=
    if image then d.screenImage j cl residues
    else
      let b := d.twlOf j
      (d, cl.samples.map fun l => l.map fun _ => 0, ((List.range j.channels).zip cl.samples).map fun (c, l) => l.map fun _ => b.code c 0, [])
  let sl : SLine := ⟨cl.tag, cl.line, dmkCrc cl.tag cl.line cl.samples, codes, levels, bad⟩
  let d := { d with ecc := { d.ecc with
    once := d.ecc.once.filter (fun x => !twillDatum x)
    poisoned := d.ecc.poisoned.filter fun x => match x with
      | .composed _ _ => false
      | .errorRow _ _ _ => !image
      | _ => true } }
  { d with dmk := { d.dmk with composed := none, screened := some sl } }

/-- SCREEN_LINE: `residues` are the columns (stripe, channel, column) whose residue check fails. -/
def execScreenLine (dt : Nat) (residues : List (Nat × Nat × Nat)) (s : State) : Host.Outcome State Fault Refusal :=
  s.act dt fun d =>
    if (d.mode ≠ .run ∧ d.mode ≠ .hold) ∨ d.renderPaused ∨ d.dmk.screened.isSome ∨ d.replayIdle then d
    else match d.dmk.composed with
      | none => d
      | some cl =>
        match d.job? cl.tag with
        | none => { d with dmk := { d.dmk with composed := none } }
        | some j =>
          let frame := cl.line / j.repeat_
          if cl.line % j.repeat_ ≠ 0 then d.screen j cl residues
          else if d.recd.replay.isNone then
            let d := (d.partnerDue cl.tag cl.line).frameSwitch j cl.line frame
            d.screen ((d.job? cl.tag).getD j) cl residues
          else match d.replaySwitch cl.tag cl.line with
            | none => d.zeroRows.screen j cl residues
            | some r =>
              if !d.switchReady r then d
              else
                let d := d.frameSwitch j cl.line frame
                if d.switchDiffers cl.tag r then
                  ({ d with dmk := { d.dmk with composed := none } }).replayEnd 1 5 cl.tag cl.line 0
                else
                  let left := d.recd.replay.map fun (p : Replay) => { p with waiting := p.waiting.filter (· != r) }
                  let d := { d with recd := { d.recd with replay := left } }
                  d.screen ((d.job? cl.tag).getD j) cl residues

end Sys2Proof.Machine
end

