-- ==== Sys2Proof/Machine/Gauze.lean ====
section
/-! DEFINITION. From level to slot (R211 to R217): shift, stitch blending, compensation, the dashes of the gutter, and poison. -/
namespace Sys2Proof.Machine

/-! ## The dither value (R212) -/

/-- h(L, x), from 0 to 255. -/
def dither (line x : Nat) : Nat :=
  let i := x % 16
  let a := Nat.xor i (line % 16)
  bitRev 8 ((List.range 4).foldl (fun z b => z + b2n (bitOf a b) * 2 ^ (2 * b + 1) + b2n (bitOf i b) * 2 ^ (2 * b)) 0)

/-! ## Bands (R219, R234) -/

/-- An entry at channel `c`, column `x` of word `e` has a dash of a band on a line. DISABLED entries have none. -/
def Band.dash (b : Band) (i e c x line : Nat) : Bool :=
  decide (b.first ≤ line) && decide (line < b.first + b.lines) && decide (neState e ≠ nsDisabled) && decide (neLink e = b.link)
    && (if b.align then decide (neRow e = b.sub) && decide (x % 16 = 0)
        else decide (c = b.sub) && decide ((line - b.first) / max 1 b.ld = (if i < shadow0 then 0 else b.p) + x % max 1 b.p))

/-! ## One line -/

/-- Everything that mapping one line needs. -/
structure GauzeIn where
  line : Nat
  image : Bool
  channels : Nat
  nl : Nat
  width : Nat
  ntw : Nat
  /-- The entries in use. -/
  used : List Nat
  nz : GzBank
  /-- The enabled stitches. -/
  st : List (Nat × Stitch)
  align : List (Nat × (Int × Int))
  bank : TwlBank
  levels : List (List Nat)
  weights : List Nat
  bands : List Band
  deriving DecidableEq, Repr

def GauzeIn.entry (g : GauzeIn) (i : Nat) : Nat := g.nz.entry i

def GauzeIn.place (g : GauzeIn) (i : Nat) : Nat × Nat := placeOf g.ntw g.st i

/-- Main entry (c, x). -/
def GauzeIn.main (g : GauzeIn) (c x : Nat) : Nat := c * g.ntw + x

def GauzeIn.ok (g : GauzeIn) (i : Nat) : Bool := nePrints (g.entry i)

/-- The column that an entry takes its level from: x - SHIFT, where that column exists (R211, R233). -/
def GauzeIn.source (g : GauzeIn) (i : Nat) : Option Nat :=
  let e := g.entry i
  let x := (g.place i).2
  let xo := ((kvGet g.align (4 * neLink e + neRow e)).getD (0, 0)).2
  let sx : Int := (x : Int) - (xo + 8) / 16
  if 0 ≤ sx ∧ sx < g.width ∧ x < g.width then some sx.toNat else none

/-- The level that reaches an entry before blending. -/
def GauzeIn.q0 (g : GauzeIn) (i : Nat) : Nat :=
  match g.source i with
  | some sx => (g.levels.getD (g.place i).1 []).getD sx 0
  | none => 0

/-! ## Stitches (R214) -/

/-- The stitches that overlap (c, x): number, stitch, overlap column. -/
def GauzeIn.stitchesAt (g : GauzeIn) (c x : Nat) : List (Nat × Stitch × Nat) :=
  (g.st.filter fun (_, s) => s.ch == c && decide (s.x0 ≤ x) && decide (x < s.x0 + s.ov)).map fun (n, s) => (n, s, x - s.x0)

/-- The left head prints overlap column `j` of a stitch on this line. -/
def GauzeIn.left (g : GauzeIn) (s : Stitch) (j : Nat) : Bool :=
  decide (dither g.line (s.gx0 + j) < s.share.getD ((2 * j + 1) * 128 / max 1 s.ov) 0)

/-- The shadow entry of overlap column `j` of stitch `s`. -/
def shadowIdx (s j : Nat) : Nat := shadow0 + 128 * s + j

/-- Blending takes the level from an entry. -/
def GauzeIn.blanked (g : GauzeIn) (i : Nat) : Bool :=
  if i < shadow0 then
    let (c, x) := g.place i
    (g.stitchesAt c x).any fun (n, s, j) => match s.type with
      | 1 => g.ok i && g.ok (shadowIdx n j) && !g.left s j
      | 2 => !g.left s j
      | _ => g.left s j
  else
    let (n, j) := shadowOf i
    match kvGet g.st n with
    | some s => g.ok (g.main s.ch (s.x0 + j)) && g.ok i && g.left s j
    | none => false

/-- A shadow entry prints the column of a main entry that cannot. -/
def GauzeIn.covered (g : GauzeIn) (i : Nat) : Bool :=
  let (c, x) := g.place i
  (g.stitchesAt c x).any fun (n, s, j) => s.type == 1 && !g.ok i && g.ok (shadowIdx n j)

/-- The level of an entry after blending. -/
def GauzeIn.q (g : GauzeIn) (i : Nat) : Nat := if g.blanked i then 0 else g.q0 i

/-! ## Compensation (R216) -/

/-- A main entry whose work moves to its partners. -/
def GauzeIn.donor (g : GauzeIn) (i : Nat) : Bool :=
  g.image && decide (i < shadow0) && decide ((g.place i).1 < g.channels) && !g.ok i && !g.covered i && decide (0 < g.q i)

/-- The weights of a donor's left and right partner. -/
def GauzeIn.weightsOf (g : GauzeIn) (e : Nat) : Nat × Nat :=
  let w (k : Nat) : Nat := if k = 0 then 0 else g.weights.getD (k - 1) 0
  let wl := w (nePartL e)
  let wr := w (nePartR e)
  (if nePartR e = 0 then min 16 (2 * wl) else wl, if nePartL e = 0 then min 16 (2 * wr) else wr)

/-- What a donor at column `x` adds to its left partner, and to its right one. -/
def GauzeIn.parts (g : GauzeIn) (i x : Nat) : Nat × Nat :=
  let h := dither g.line x
  let w := g.weightsOf (g.entry i)
  ((g.q i * w.1 * 16 + h) / 256, (g.q i * w.2 * 16 + (255 - h)) / 256)

/-- The donors of a main entry: the donor, and what it adds. -/
def GauzeIn.donorsOf (g : GauzeIn) (i : Nat) : List (Nat × Nat) :=
  let (c, x) := g.place i
  if shadow0 ≤ i ∨ g.width ≤ x then []
  else [1, 2, 3].flatMap fun k =>
    let r := g.main c (x + k)
    let l := g.main c (x - k)
    (if x + k < g.ntw ∧ g.donor r ∧ nePartL (g.entry r) = k then [(r, (g.parts r (x + k)).1)] else [])
      ++ (if k ≤ x ∧ g.donor l ∧ nePartR (g.entry l) = k then [(l, (g.parts l (x - k)).2)] else [])

/-- The donors that have no partner. -/
def GauzeIn.uncompensated (g : GauzeIn) : List Nat :=
  g.used.filter fun i => g.donor i && nePartL (g.entry i) == 0 && nePartR (g.entry i) == 0

/-! ## Codes -/

/-- An entry has a dash on this line. -/
def GauzeIn.dashed (g : GauzeIn) (i : Nat) : Bool :=
  let (c, x) := g.place i
  g.bands.any fun b => b.dash i (g.entry i) c x g.line

/-- The drop code of an entry in use (R211). -/
def GauzeIn.code (g : GauzeIn) (i : Nat) : Nat :=
  let c := (g.place i).1
  if g.channels ≤ c then 0
  else if !g.image then g.bank.code c (if g.dashed i then g.nl - 1 else 0)
  else if g.ok i then g.bank.code c (min (g.nl - 1) (g.q i + ((g.donorsOf i).map (·.2)).foldl (· + ·) 0))
  else g.bank.code c 0

/-- SLOT, ROW and LINK of an entry as one number. -/
def slotKey (e : Nat) : Nat := bitsOf e 0 20

/-- The drop code of a slot, given the codes of the entries in use by slot: 0 if none maps there. -/
def slotCode (codes : List (Nat × Nat)) (nl link row p : Nat) : Nat :=
  match (codes.filter fun x => x.1 == p + 2 ^ 14 * row + 2 ^ 16 * link).map (·.2) with
  | [] => 0
  | [v] => v
  | l => Config.clashCode link row p l % nl

/-- The rows of every link. -/
def Dev.slotRows (d : Dev) (g : GauzeIn) : List (List (List Nat)) :=
  let codes := g.used.map fun i => (slotKey (g.entry i), g.code i)
  (List.range 16).map fun n => (List.range (d.rowsOf n)).map fun r => (List.range (d.slotsOf n r)).map fun p => slotCode codes g.nl n r p

/-! ## Poison (R217) -/

/-- Every row in use of a link. -/
def Dev.rowsAll (d : Dev) (n : Nat) : List (Nat × Nat) := (List.range (d.rowsOf n)).map fun r => (n, r)

/-- The links that carry a channel. -/
def GauzeIn.linksOf (g : GauzeIn) (c : Nat) : List Nat :=
  (List.range 16).filter fun n => g.used.any fun i => (g.place i).1 == c && neLink (g.entry i) == n

/-- The poisoned rows of a line: `bad` are the poisoned data, `active` the banks in force, `levels` the poisoned granules of Twill. -/
def Dev.mapPoison (d : Dev) (g : GauzeIn) (bad : List Datum) (active : Nat) (levels : List (Nat × Nat)) : List (Nat × Nat) :=
  let bk (k : Nat) : Nat := b2n (bitOf active k)
  let whole := bad.any fun x => match x with
    | .nozzle b i => b == bk 0 && g.used.contains i
    | _ => false
  let links : List Nat := if whole then List.range 16 else bad.flatMap fun x => match x with
    | .stitch b s => if b == bk 1 then g.linksOf ((kvGet g.st s).map (·.ch) |>.getD 0) else []
    | .align b n => if b == bk 2 then [n / 4] else []
    | _ => []
  let taken (i : Nat) : Bool := match g.source i with
    | some sx => levels.contains ((g.place i).1, sx / 8)
    | none => false
  let hit := if !g.image then [] else g.used.filter fun i => taken i || (g.donorsOf i).any fun (f, _) => taken f
  let rows := links.flatMap d.rowsAll ++ hit.map fun i => (neLink (g.entry i), neRow (g.entry i))
  ((List.range 16).flatMap d.rowsAll).filter fun x => rows.contains x

/-- A datum that Gauze reads. -/
def gauzeDatum : Datum → Bool
  | .nozzle _ _ | .stitch _ _ | .align _ _ => true
  | _ => false

/-- The entries in use beside the stitch set in force. -/
def Dev.usedEntries (d : Dev) : List Nat :=
  let st := (d.gzBank 1).stitches
  (List.range (d.ntCh * d.ntW) ++ st.flatMap fun (s, x) => if x.type = 1 then (List.range x.ov).map (shadowIdx s) else [])

/-- The mapping of a screened line of a job. -/
def Dev.gauzeIn (d : Dev) (j : Job) (sl : SLine) : GauzeIn := {
  line := sl.line, image := decide (sl.line % j.repeat_ < j.frameLines), channels := j.channels, nl := j.levels
  width := (sl.levels.headD []).length, ntw := d.ntW, used := d.usedEntries, nz := d.gzBank 0
  st := (d.gzBank 1).stitches.filter (fun (_, s) => s.type != 0), align := (d.gzBank 2).align, bank := d.twlOf j, levels := sl.levels
  weights := [d.get Reg.PIPE_GZ_COMP.W1, d.get Reg.PIPE_GZ_COMP.W2, d.get Reg.PIPE_GZ_COMP.W3]
  bands := d.gz.bands.filter fun b => b.tag == j.tag }

end Sys2Proof.Machine
end

