-- ==== Sys2Proof/Machine/Ladder.lean ====
section
/-! DEFINITION. The nozzle ladder and the alignment pattern (R218 to R220, R234), camera triggers (R223), and what is decided from them
(R225 to R235). -/
namespace Sys2Proof.Machine

/-! ## Units (R218) -/

/-- The camera whose CH_MASK holds a channel. -/
def Dev.camOf (d : Dev) (c : Nat) : Option Nat := [0, 1].find? fun n => bitOf (d.get (Reg.CAM_CFG_n.CH_MASK n)) c

/-- An entry in use of channel `c` maps to link `n`. -/
def Dev.carries (d : Dev) (n c : Nat) : Bool :=
  let st := (d.gzBank 1).stitches
  d.usedEntries.any fun i => neLink ((d.gzBank 0).entry i) == n && (placeOf d.ntW st i).1 == c

/-- The units of a set of links: one channel of one link, ascending links, ascending channels. -/
def Dev.unitsOf (d : Dev) (links : List Nat) (channels : Nat) : List (Nat × Nat) :=
  links.flatMap fun n => ((List.range (min channels d.ntCh)).filter (d.carries n)).map fun c => (n, c)

/-- Put a unit in its place; one of the same link and channel stays. -/
def insertUnit (u : LadderUnit) : List LadderUnit → List LadderUnit
  | [] => [u]
  | v :: t =>
    if v.link = u.link ∧ v.ch = u.ch then v :: t
    else if u.link < v.link ∨ (u.link = v.link ∧ u.ch < v.ch) then u :: v :: t
    else v :: insertUnit u t

/-- LADDER_SKIPPED waits for the ladder slot of the gutter (R66). -/
def Dev.ladderSkipped (d : Dev) (reason link ch : Nat) : Dev :=
  { d with gz := { d.gz with skips := d.gz.skips ++ [(none, reason, link, ch)] } }

/-- The LADDER_SKIPPED events that waited go to a ladder slot. -/
def Dev.skipsTo (d : Dev) (slot : Nat) : Dev :=
  { d with gz := { d.gz with skips := d.gz.skips.map fun x => (x.1.or (some slot), x.2) } }

/-- Units join the round, or start one. A unit whose channel no camera covers is skipped. -/
def Dev.addUnits (d : Dev) (us : List (Nat × Nat)) (tag gutter : Nat) (t : Option Ticket) : Dev :=
  let d := (us.filter fun u => (d.camOf u.2).isNone).foldl (fun d u => d.ladderSkipped 2 u.1 u.2) d
  let mine := us.filter fun u => (d.camOf u.2).isSome
  let r := d.gz.round.getD ⟨[], false, []⟩
  let units := mine.foldl (fun l (u : Nat × Nat) => insertUnit ⟨u.1, u.2, tag, gutter⟩ l) r.units
  let tickets := r.tickets ++ t.toList
  if units = [] then
    tickets.foldl (fun d t => d.complete t stOk 0) { d.postSkips none with gz := { d.gz with round := none } }
  else { d with gz := { d.gz with round := some { r with units := units, tickets := tickets } } }

/-- The next gutter that Damask has not begun: tag of the job, number of the gutter. -/
def Dev.nextGutter (d : Dev) : Nat × Nat :=
  match d.dmk.front with
  | none => ((d.live?.map (·.tag)).getD 0, 0)
  | some (t, l) =>
    match d.lineFrom t l with
    | none => ((d.live?.map (·.tag)).getD t, 0)
    | some (j, l) => (j.tag, if l % j.repeat_ ≤ j.frameLines then l / j.repeat_ else l / j.repeat_ + 1)

/-- A unit may print in the gutter after frame `f` of a job: it was due there or before, in this job or an earlier one. -/
def Dev.unitDue (d : Dev) (j : Job) (f : Nat) (u : LadderUnit) : Bool :=
  if u.tag = j.tag then decide (u.gutter ≤ f)
  else !(d.dmk.front.any fun x => x.1 == u.tag)

/-! ## A gutter begins (R218 to R220, R223, R234) -/

/-- The first lines of the bands that fit, one after another. -/
def fitBands (cap : Nat) : Nat → List Nat → List Nat
  | _, [] => []
  | at_, n :: t => if at_ + n ≤ cap then at_ :: fitBands cap (at_ + n) t else []

/-- The lines of a ladder band of a channel (R219). -/
def Dev.bandLines (d : Dev) (ch : Nat) : Nat :=
  let two := (d.gzBank 1).stitches.any fun (_, s) => s.type == 1 && s.ch == ch
  d.get Reg.PIPE_GZ_LADDER.P * (if two then 2 else 1) * d.get Reg.PIPE_GZ_LADDER.LD

/-- The camera of an alignment band: that of the lowest channel in the row. -/
def Dev.rowCam (d : Dev) (n r : Nat) : Option Nat :=
  let st := (d.gzBank 1).stitches
  let chans := (d.usedEntries.filter fun i => neLink ((d.gzBank 0).entry i) == n && neRow ((d.gzBank 0).entry i) == r).map
    fun i => (placeOf d.ntW st i).1
  ((List.range 8).find? chans.contains).bind d.camOf

/-- A window on a camera for the bands of a gutter; false if its slots could not be had. -/
def Dev.openWindow (d : Dev) (cam tag base gutter last reason : Nat) : Dev × Bool :=
  let m := d.get (Reg.CAM_TRIG_n.MARGIN cam)
  let dist := d.get (Reg.CAM_DIST_n.DIST cam)
  let id := d.gz.nextBand
  let a := pw48 ((base : Int) + 256 * ((gutter : Int) - m) + dist)
  let b := pw48 ((base : Int) + 256 * ((last : Int) + 1 + m) + dist)
  if d.passed a then (d.calLate 1 a, false)
  else match d.schedule 1 ⟨a, .window cam true id, .predict⟩ with
    | none => (d.calendarFull 1 a, false)
    | some e => match e.schedule 1 ⟨b, .window cam false id, .predict⟩ with
      | none => (d.calendarFull 1 b, false)
      | some e =>
        let w : Window := ⟨id, cam, tag, gutter, a, b, false, false, a, [], 0, 0, 0, 0, reason, 0, 0, false, false⟩
        ({ e with gz := { e.gz with windows := e.gz.windows ++ [w], nextBand := id + 1 } }, true)

/-- The windows of a gutter's bands; a camera with no window leaves its bands without one. -/
def Dev.openWindows (d : Dev) (tag base gutter : Nat) (bands : List Band) : Dev × List Band :=
  let last := (bands.map fun b => b.first + b.lines - 1).foldl max 0
  [0, 1].foldl (fun (d, bs) c =>
    let mine := bs.filter fun (b : Band) => b.cam == some c
    let off := bs.map fun (b : Band) => if b.cam = some c then { b with cam := none } else b
    if mine = [] then (d, bs)
    else if !d.camOn c then (d, off)
    else
      let (reason, d) := if mine.all (·.align) then (1, d) else if mine.any (·.align) then d.draw 1 else (0, d)
      let (d, ok) := d.openWindow c tag base gutter last reason
      (d, if ok then bs else off)) (d, bands)

/-- Number bands. -/
def numberBands : Nat → List Band → List Band
  | _, [] => []
  | n, b :: t => { b with id := n } :: numberBands (n + 1) t

/-! ## Alignment results (R234, R235) -/

/-- The mean of a list, rounded down; 0 of none. -/
def meanOf (l : List Int) : Int := l.foldl (· + ·) 0 / max 1 l.length

/-- A quantity in 1/256, rounded to the nearest whole one. -/
def round256 (x : Int) : Int := (x + 128) / 256

/-- FO and XO are within R232's range. -/
def alignRange (fo xo : Int) : Bool := decide (-8388608 ≤ fo ∧ fo ≤ 8388607 ∧ -16384 ≤ xo ∧ xo ≤ 16383)

/-- An entry of an alignment set; one of two zeros is not listed. -/
def putAlign (l : List (Nat × (Int × Int))) (n : Nat) (fo xo : Int) : List (Nat × (Int × Int)) :=
  if fo = 0 ∧ xo = 0 then kvDel l n else kvPut l n (fo, xo)

/-- The last band of an ALIGN_NOW has been analysed: results for every row, and with APPLY into the inactive bank. -/
def Dev.alignFinish (d : Dev) : Dev :=
  match d.gz.alignRun with
  | none => d
  | some r =>
    if r.rows ≠ [] ∨ d.gz.bands.any (·.align) then d
    else
      let meas := r.results.filterMap (·.2)
      let u := meanOf (meas.map (·.1))
      let dl := meanOf (meas.map (·.2))
      let set := (d.gzBank 2).align
      let d := { d with gz := { d.gz with alignRun := none } }
      let d := r.results.foldl (fun d (n, m) =>
        let (fo0, xo0) := (kvGet set n).getD (0, 0)
        let (xo, fo, flags) := match m with
          | none => (xo0, fo0, 6)
          | some (un, dn) =>
            let xo := round256 (un - u)
            let fo := fo0 - round256 (dn - dl)
            (xo, fo, if alignRange fo xo then b2n r.apply else 2)
        let d := if flags = 1 then
            let d := d.modIdle 2 fun b => { b with align := putAlign b.align n fo xo }
            let d := { d with gz := { d.gz with pending := setBit d.gz.pending 2 true } }
            let (tag, line) := d.switchLine
            (d.mirror 10 tag line (.align n fo xo)).mirror 10 tag line (.switch 4)
          else d
        d.post 0xB035 sevInfo [n, fieldOf 32 xo, fieldOf 32 fo, fieldOf 32 u, fieldOf 32 dl, flags]) d
      (d.gzDue).complete r.ticket stOk 0

/-- Bands without a window: nothing measures them. -/
def Dev.bandsBlind (d : Dev) (bs : List Band) : Dev :=
  let rows := (bs.filter fun b => b.align && b.cam.isNone).map fun b => (4 * b.link + b.sub, (none : Option (Int × Int)))
  { d with gz := { d.gz with alignRun := d.gz.alignRun.map fun (r : AlignRun) => { r with results := r.results ++ rows } } }

/-- The gutter after frame `f` begins at a line: a round may start, and the gutter takes its bands. -/
def Dev.gutterBegins (d : Dev) (j : Job) (f line : Nat) : Dev :=
  let every := d.get Reg.PIPE_GZ_LADDER.EVERY
  let mask := d.get Reg.PIPE_GZ_LINKS.MASK
  let d := if every ≠ 0 ∧ (f + 1) % every = 0 then
      let us := if mask ≠ 0 then d.unitsOf (d.linksOn.filter (bitOf mask)) j.channels
        else (d.unitsOf d.linksOn j.channels).filter fun u => (d.camOf u.2).isSome
      d.addUnits us j.tag f none
    else d
  let base := j.base
  let gOfs := d.get Reg.PIPE_GZ_LADDER.G_OFS
  let p := d.get Reg.PIPE_GZ_LADDER.P
  let ld := d.get Reg.PIPE_GZ_LADDER.LD
  let band (align : Bool) (link sub first lines : Nat) (cam : Option Nat) : Band := ⟨0, j.tag, align, link, sub, line, line + first, lines, p, ld, gOfs, base, cam⟩
  -- alignment bands come first
  let rows := ((d.gz.alignRun.filter fun r => d.unitDue j f ⟨0, 0, r.tag, r.gutter⟩).map fun r => r.rows).getD []
  let aOfs := fitBands j.gutterLines gOfs (rows.map fun _ => 16)
  let aBands := (rows.zip aOfs).map fun ((n, r), o) => band true n r o 16 (d.rowCam n r)
  let start := gOfs + 16 * aBands.length
  -- the units that the job uses
  let units := ((d.gz.round.map fun r => r.units).getD []).filter fun u => !d.unitDue j f u || decide (u.ch < j.channels)
  let due := units.filter (d.unitDue j f)
  let uOfs := fitBands j.gutterLines start (due.map fun u => d.bandLines u.ch)
  let uBands := (due.zip uOfs).map fun (u, o) => band false u.link u.ch o (d.bandLines u.ch) (d.camOf u.ch)
  let d := match due, d.gz.round with
    | u :: _, some r =>
      if j.gutterLines < gOfs + d.bandLines u.ch ∧ !r.skipped then
        ({ d with gz := { d.gz with round := some { r with skipped := true } } }).ladderSkipped 1 u.link u.ch
      else d
    | _, _ => d
  let bands := aBands ++ uBands
  let keep (us : List LadderUnit) (d : Dev) : Dev :=
    { d with gz := { d.gz with round := d.gz.round.bind fun (r : Round) => if us = [] then none else some { r with units := us } } }
  let finish (d : Dev) : Dev := match d.gz.round with
    | some r => if units = [] then r.tickets.foldl (fun d t => d.complete t stOk 0) d else d
    | none => d
  match bands with
  | [] => keep units (finish (d.postSkips none))
  | b :: _ =>
    let at_ := pwAdd base (256 * b.first)
    if d.passed at_ then keep units (finish ((d.calLate 2 at_).postSkips none))
    else match d.schedule 2 ⟨at_, .ladder d.gz.nextBand, .line⟩ with
      | none => keep units (finish ((d.calendarFull 2 at_).postSkips none))
      | some d =>
        let d := d.skipsTo d.gz.nextBand
        let d := match uBands, d.gz.round with
          | _ :: _, some r =>
            let e : Dev := { d with gz := { d.gz with round := some { r with tickets := [] } } }
            r.tickets.foldl (fun (d : Dev) t => d.complete t stOk 0) e
          | _, _ => d
        let bands := numberBands d.gz.nextBand bands
        let d := { d with gz := { d.gz with nextBand := d.gz.nextBand + bands.length } }
        let (d, bands) := d.openWindows j.tag base line bands
        let left : List LadderUnit := units.filter fun (u : LadderUnit) => !(uBands.any fun b => b.link == u.link && b.sub == u.ch)
        let run := d.gz.alignRun.map fun (r : AlignRun) => { r with rows := r.rows.drop aBands.length }
        let d := { d with gz := { d.gz with bands := d.gz.bands ++ bands, alignRun := run } }
        keep left (d.bandsBlind bands)

/-- Line 0 of a frame: bands that nothing measures are done with. -/
def Dev.bandsDone (d : Dev) : Dev :=
  ({ d with gz := { d.gz with bands := d.gz.bands.filter fun b => b.cam.isSome } }).alignFinish

/-- LADDER_NOW (R91, R218). -/
def execLadderNow (dt : Nat) (ring : Nat) (x : Desc) (s : State) : Host.Outcome State Fault Refusal :=
  s.act dt fun d =>
    d.onTake (d.take ring x 0x0C) fun d t =>
      let mask := x.f 4 0 16
      let (tag, g) := d.nextGutter
      let channels := ((d.job? tag).map (·.channels)).getD 8
      let links := if mask = 0 then d.linksOn else d.linksOn.filter (bitOf mask)
      d.addUnits (d.unitsOf links channels) tag g (some t)

/-- ALIGN_NOW (R234). A second one waits for the first. -/
def execAlignNow (dt : Nat) (ring : Nat) (x : Desc) (s : State) : Host.Outcome State Fault Refusal :=
  s.act dt fun d =>
    if d.gz.alignRun.isSome then d
    else d.onTake (d.takeParam ring x (· == 0xB3F1) [.run] false) fun d t =>
      match valueExtra x [0x1FFFF, 0, 0, 0] with
      | some w => d.complete t stBadParam w
      | none =>
        let mask := x.f 6 0 16
        let links := if mask = 0 then d.linksOn else d.linksOn.filter (bitOf mask)
        if links.any fun n => (List.range d.ntCh).any fun c => d.carries n c && (d.camOf c).isNone then d.complete t stBadParam 6
        else
          let rows := links.flatMap d.rowsAll
          let (tag, g) := d.nextGutter
          ({ d with gz := { d.gz with alignRun := some ⟨t, bitOf (x.w 6) 16, tag, g, rows, []⟩ } }).alignFinish

/-! ## Trigger pulses (R223) -/

/-- CAMERA_TRIGGER: PW, or its prediction, has reached the next trigger position of the open window. -/
def execCameraTrigger (dt : Nat) (cam : Nat) (s : State) : Host.Outcome State Fault Refusal :=
  s.act dt fun d =>
    match d.gz.windows.find? fun w => w.cam == cam && w.opened && !w.closed with
    | none => d
    | some w =>
      let at_ := pwAdd w.openPos (w.next * d.get (Reg.CAM_TRIG_n.TRIG_FC cam))
      if !d.mode.served || !d.camOn cam || decide (0 ≤ pwDiff at_ w.closePos) || !(d.passed at_ || d.reachedNow at_) then d
      else
        let d := d.modWindows (fun v => v.id == w.id) fun v => { v with triggers := v.triggers ++ [⟨at_, d.tb, none⟩], next := v.next + 1 }
        let stop := tbPlus d.tb (d.get (Reg.CAM_TRIG_n.PULSE cam) * 10)
        let d := { d with gz := { d.gz with cams := modAt d.gz.cams cam fun c => { c with pulseEnd := some stop } } }
        d.setPso (d.get (Reg.CAM_CFG_n.TRIG_PSO cam)) true

/-- TRIGGER_PULSE_END: the pulse has lasted PULSE x 10 ns. -/
def execTriggerPulseEnd (dt : Nat) (cam : Nat) (s : State) : Host.Outcome State Fault Refusal :=
  s.act dt fun d =>
    match (d.gz.cams.getD cam ⟨none, none⟩).pulseEnd with
    | none => d
    | some t =>
      if d.tb < t then d
      else
        let d := { d with gz := { d.gz with cams := modAt d.gz.cams cam fun c => { c with pulseEnd := none } } }
        d.setPso (d.get (Reg.CAM_CFG_n.TRIG_PSO cam)) false

/-! ## Decisions (R227 to R229) -/

/-- R228: GAIN and BOOST of an entry whose state changes to `new`. -/
def reboost (weakAdd e new : Nat) : Nat :=
  let g := neGain e - neBoost e
  if new = nsWeak then
    let b := min weakAdd (65535 - g)
    neSet (neSet e 20 16 (g + b)) 52 12 b
  else neSet (neSet e 20 16 g) 52 12 0

/-- Counters after a detection: 0 NONE, 1 BAD, 2 WEAK, 3 GOOD. -/
def counted (e det : Nat) : Nat × Nat × Nat :=
  match det with
  | 1 => (min 7 (neBad e + 1), 0, 0)
  | 2 => (0, 0, min 3 (neWeak e + 1))
  | 3 => (0, min 15 (neGood e + 1), 0)
  | _ => (neBad e, neGood e, neWeak e)

/-- The transition that counters (BAD, GOOD, WEAK) take an entry's state through, tested in order. -/
def transition (kFail kOk kWeak st : Nat) (c : Nat × Nat × Nat) : Option Nat :=
  if (st = nsOk ∨ st = nsWeak) ∧ kFail ≤ c.1 then some nsFailed
  else if (st = nsOk ∨ st = nsFailed) ∧ kWeak ≤ c.2.2 then some nsWeak
  else if (st = nsWeak ∨ st = nsFailed) ∧ kOk ≤ c.2.1 then some nsOk
  else none

/-- One detection of an entry: the entry after it, and the change of state with the counters that decided it. -/
def Dev.decideEntry (d : Dev) (e det : Nat) : Nat × Option (Nat × Nat × Nat × Nat × Nat) :=
  let c := counted e det
  let st := neState e
  let kept := neCounts e c.1 c.2.1 c.2.2
  if det = 0 then (e, none)
  else match transition (d.get Reg.PIPE_GZ_DECIDE.K_FAIL) (d.get Reg.PIPE_GZ_DECIDE.K_OK) (d.get Reg.PIPE_GZ_DECIDE.K_WEAK) st c with
    | none => (kept, none)
    | some new =>
      if neOvr e then (kept, some (st, new, c))
      else (neSet (neCounts (reboost (d.get Reg.PIPE_GZ_DECIDE.WEAK_ADD) e new) 0 0 0) 36 2 new, some (st, new, c))

/-- The detections of one band, written to the inactive bank as one change; a decision for an entry that a load has written is dropped. A
unit that is not ACTIVE takes the active's decisions instead (R361). -/
def Dev.decideBand (d : Dev) (dets : List (Nat × Nat)) : Dev :=
  if !d.active then d else
  let idle := d.gzIdle 0
  let out := dets.map fun (i, det) => (i, neOvr (idle.entry i), d.decideEntry (idle.entry i) det)
  let free := out.filter fun (i, _, _, _) => !d.gz.loaded.contains i
  let changed := free.filter fun (i, _, e, _) => e != idle.entry i
  let d := changed.foldl (fun d (i, _, e, _) => d.modIdle 0 fun b => b.setEntry i e) d
  let d := if changed = [] then d else { d with gz := { d.gz with pending := setBit d.gz.pending 0 true } }
  let (onTag, onLine) := d.switchLine
  let d := changed.foldl (fun d (i, _, e, _) => d.mirror 10 onTag onLine (.nozzle i e)) d
  let d := if changed = [] then d else d.mirror 10 onTag onLine (.switch 1)
  let parts := d.setPartners (d.gzIdle 0).nozzles
  let moves : List Decision := out.filterMap fun (i, ovr, _, m) => m.bind fun (a, b, c) =>
    let e := (kvGet parts i).getD 0
    if ovr then none else some ⟨i, a, b, c.1, c.2.1, c.2.2, nePartL e, nePartR e⟩
  let d := { d with gz := { d.gz with decided := d.gz.decided ++ moves } }
  let frame := d.switchFrame
  let d := free.foldl (fun d (i, ovr, _, m) =>
    match m with
    | none => d
    | some (a, b, c) =>
      let e := (kvGet parts i).getD 0
      d.decisionEvent i a b c (if ovr then ndSuppressed else 0) frame (nePartL e, nePartR e)) d
  d.gzDue

/-- The entries that a ladder band draws, ascending. -/
def Dev.bandEntries (d : Dev) (b : Band) : List Nat :=
  let st := (d.gzBank 1).stitches
  d.usedEntries.filter fun i =>
    let e := (d.gzBank 0).entry i
    neLink e == b.link && neState e != nsDisabled
      && (if b.align then neRow e == b.sub && decide ((placeOf d.ntW st i).2 % 16 = 0) else (placeOf d.ntW st i).1 == b.sub)

/-! ## Analysis (R225, R226, R234) -/

/-- One valid camera line of a window: the job line it was triggered in, its PW, its pixels. -/
abbrev Shot := Int × Nat × List Nat

/-- The valid camera lines of a window, seen from a band's job. -/
def Dev.shots (d : Dev) (w : Window) (b : Band) : List Shot :=
  let origin := pw48 ((b.base : Int) + d.get (Reg.CAM_DIST_n.DIST w.cam))
  w.triggers.filterMap fun t => t.pixels.map fun px => (pwDiff t.pw origin / 256, t.pw, px)

/-- The shots of job lines `a` to `z`. -/
def shotsIn (l : List Shot) (a z : Int) : List Shot := l.filter fun s => decide (a ≤ s.1 ∧ s.1 ≤ z)

/-- Wp of a pixel, in 1/256. -/
def whiteOf (white : List Shot) (p : Nat) : Nat :=
  256 * (white.foldl (fun n s => n + s.2.2.getD p 0) 0) / max 1 white.length

/-- The pixels within XP of an expected centre (1/256 pixel), with their white reference. -/
def Dev.nearPixels (d : Dev) (cam : Nat) (white : List Shot) (pc : Int) : List (Nat × Nat) :=
  ((List.range (d.get (Reg.CAM_NPIX_n.NPIX cam))).filter fun (p : Nat) =>
    decide ((256 * (p : Int) - pc).natAbs * 65536 ≤ d.get (Reg.CAM_XP_n.XP cam))).map fun p => (p, whiteOf white p)

/-- Sums over shots of dk and of p x dk, in 1/256. -/
def darkSums (near : List (Nat × Nat)) (l : List Shot) : Nat × Nat :=
  l.foldl (fun (a, b) s => near.foldl (fun (a, b) (p, w) =>
    let dk := w - 256 * s.2.2.getD p 0
    (a + dk, b + p * dk)) (a, b)) (0, 0)

/-- The expected centre of column `x` with an offset of `xo` / 16 columns, in 1/256 pixel. -/
def Dev.centre (d : Dev) (cam x : Nat) (xo : Int) : Int :=
  (d.get (Reg.CAM_X0_n.X0 cam) : Int) + (16 * (x : Int) + xo) * (d.get (Reg.CAM_XP_n.XP cam) : Int) / 1048576

/-- What the lines of one dash show: entry, count of lines, sum dk, sum p x dk, expected centre. -/
def Dev.dashOf (d : Dev) (cam : Nat) (shots white : List Shot) (b : Band) (i : Nat) : Nat × Nat × Nat × Nat × Int :=
  let st := (d.gzBank 1).stitches
  let e := (d.gzBank 0).entry i
  let x := (placeOf d.ntW st i).2
  let step := (if i < shadow0 then 0 else b.p) + x % max 1 b.p
  let trim := b.ld / 4
  let a : Int := (b.first + step * b.ld + trim : Nat)
  let mine := shotsIn shots a (a + (b.ld : Int) - 1 - 2 * (trim : Int))
  let pc := d.centre cam x ((kvGet (d.gzBank 2).align (4 * neLink e + neRow e)).getD (0, 0)).2
  let sums := darkSums (d.nearPixels cam white pc) mine
  (i, mine.length, sums.1, sums.2, pc)

/-- The detection of one dash (R226), given the reference. -/
def Dev.detect (d : Dev) (cam : Nat) (whites ref : Nat) (x : Nat × Nat × Nat × Nat × Int) : Nat :=
  let (_, n, dk, pdk, pc) := x
  if whites < 2 ∨ n < 2 ∨ ref = 0 then 0
  else
    let rho := 256 * (dk / n) / ref
    let c : Int := (256 * pdk / max 1 dk : Nat)
    if rho < d.get Reg.CAM_ANALYSIS.BAD_PCT ∨ dk = 0
        ∨ d.get Reg.CAM_ANALYSIS.DEV_MAX * d.get (Reg.CAM_XP_n.XP cam) < 1048576 * (c - pc).natAbs then 1
    else if rho < d.get Reg.CAM_ANALYSIS.WEAK_PCT then 2
    else 3

/-- The white reference lines of a band's gutter. -/
def whiteShots (l : List Shot) (b : Band) : List Shot := shotsIn l b.gutter ((b.gutter : Int) + b.gOfs - 1)

/-- The detections of a ladder band: entry and detection, ascending. -/
def Dev.detections (d : Dev) (w : Window) (b : Band) : List (Nat × Nat) :=
  let shots := d.shots w b
  let white := whiteShots shots b
  let dashes := (d.bandEntries b).map (d.dashOf w.cam shots white b)
  let good := (dashes.filter fun x => neState ((d.gzBank 0).entry x.1) == nsOk && decide (0 < x.2.1)).map fun x => x.2.2.1 / x.2.1
  let sorted := good.mergeSort fun a b => decide (a ≤ b)
  let ref := sorted.getD ((sorted.length - 1) / 2) 0
  dashes.map fun x => (x.1, d.detect w.cam white.length ref x)

/-- Two bits per detection, lowest first, as bytes (R495). -/
def detBytes (dets : List Nat) : List Nat :=
  let v := dets.reverse.foldl (fun v x => 4 * v + x % 4) 0
  leBytes (cdiv dets.length 4) v

/-- A ladder band is analysed: the DETECT record, the decisions, LADDER_DONE. -/
def Dev.analyseLadder (d : Dev) (w : Window) (b : Band) : Dev :=
  let dets := d.detections w b
  let n (k : Nat) : Nat := (dets.filter fun x => x.2 == k).length
  let d := d.capture 7 ([b.link, b.sub] ++ leBytes 2 dets.length ++ leBytes 5 b.first ++ [b.tag, 0, 0, 0, 0, 0, 0] ++ detBytes (dets.map (·.2)))
  (d.decideBand dets).post 0xB033 sevInfo [b.link, b.sub, n 3, n 2, n 1, n 0]

/-- What an alignment band shows: u and delta in 1/256, or nothing with fewer than 4 dashes measured or no edge found. -/
def Dev.measureAlign (d : Dev) (w : Window) (b : Band) : Option (Int × Int) :=
  let st := (d.gzBank 1).stitches
  let shots := d.shots w b
  let white := whiteShots shots b
  let core := shotsIn shots ((b.first : Int) + 4) ((b.first : Int) + 11)
  let xp := d.get (Reg.CAM_XP_n.XP w.cam)
  let dashes := (d.bandEntries b).filterMap fun i =>
    let x := (placeOf d.ntW st i).2
    let near := d.nearPixels w.cam white (d.centre w.cam x 0)
    let (dk, pdk) := darkSums near core
    if dk = 0 then none else some (x, near, 256 * pdk / dk)
  if dashes.length < 4 ∨ white = [] then none
  else
    let dev : Int := (dashes.map fun (x, _, c) => ((c : Int) - d.get (Reg.CAM_X0_n.X0 w.cam)) * 65536 - (x * xp : Nat)).foldl (· + ·) 0
    let u := 4096 * dev / (max 1 (xp * dashes.length) : Nat)
    let sum (s : Shot) : Nat := (dashes.map fun (_, near, _) => (darkSums near [s]).1).foldl (· + ·) 0
    let mean := (core.map sum).foldl (· + ·) 0 / max 1 core.length
    let l := shotsIn shots ((b.first : Int) - 4) ((b.first : Int) + 11)
    let pairs := (none :: l.map some).zip l
    let start := pw48 ((b.base : Int) + 256 * (b.first : Int) + d.get (Reg.CAM_DIST_n.DIST w.cam))
    (pairs.find? fun (_, s) => decide (mean ≤ 2 * sum s)).map fun (prev, s) =>
      let ahead : Int := 256 * pwDiff s.2.1 start
      match prev with
      | none => (u, ahead)
      | some q =>
        let lo := sum q
        let hi := sum s
        let step : Int := pwDiff s.2.1 q.2.1
        (u, 256 * pwDiff q.2.1 start + 128 * step * ((mean : Int) - 2 * lo) / (max 1 (hi - lo) : Nat))

/-- A band of a window is analysed. -/
def Dev.analyse (d : Dev) (w : Window) (b : Band) : Dev :=
  let d := { d with gz := { d.gz with bands := d.gz.bands.filter fun x => x.id != b.id } }
  if b.align then
    let m := d.measureAlign w b
    { d with gz := { d.gz with alignRun := d.gz.alignRun.map fun (r : AlignRun) => { r with results := r.results ++ [(4 * b.link + b.sub, m)] } } }
  else d.analyseLadder w b

/-- BAND_ANALYSIS: the bands of a closed window, once its triggers are answered, and at the latest 500 us after it closed. -/
def execBandAnalysis (dt : Nat) (window : Nat) (s : State) : Host.Outcome State Fault Refusal :=
  s.act dt fun d =>
    match d.gz.windows.find? fun w => w.id == window && w.closed && !w.analysed with
    | none => d
    | some w =>
      if !w.answered && decide (d.since w.closedAt < 500000) then d
      else
        let mine := d.gz.bands.filter fun b => b.cam == some w.cam && b.tag == w.tag && b.gutter == w.gutter
        let d := mine.foldl (fun d b => d.analyse w b) d
        let d := d.modWindows (fun v => v.id == w.id) fun v => { v with analysed := true }
        (d.dropWindows).alignFinish

end Sys2Proof.Machine
end

