-- ==== Sys2Proof/Machine/NozzleLoads.lean ====
section
/-! DEFINITION. Loads of the device-wide tables (R209, R213, R230, R232, R295, R322, R462), NOZZLE_SET (R236) and the PARAMs of R237. -/
namespace Sys2Proof.Machine

/-- A datum of bank `b` of a KIND. -/
def kindDatum (kind b : Nat) (x : Datum) : Bool := bankOf x == some (kind, b)

/-- The number of the inactive bank of a device-wide table. -/
def Dev.idleBank (d : Dev) (bit : Nat) : Nat := b2n (!bitOf (d.get Reg.PIPE_GZ_BANK.ACTIVE) bit)

/-- A change of table kind `bit` is in the inactive bank and waits for the switch point. -/
def Dev.gzPending (d : Dev) (bit : Nat) : Dev :=
  let d := { d with gz := { d.gz with pending := setBit d.gz.pending bit true } }
  let (tag, line) := d.switchLine
  (d.mirror 10 tag line (.switch (2 ^ bit))).gzDue

/-- The nozzle table and the stitch set that will be in force together: the pending bank where there is one. -/
def Dev.nextNozzles (d : Dev) : GzBank := if bitOf d.gz.pending 0 then d.gzIdle 0 else d.gzBank 0
def Dev.nextStitches (d : Dev) : GzBank := if bitOf d.gz.pending 1 then d.gzIdle 1 else d.gzBank 1

/-- An entry breaks R209, beside a stitch set; `keys` are the slots of the entries in use. -/
def Dev.entryBad (d : Dev) (st : List (Nat × Stitch)) (keys : List Nat) (i e : Nat) : Bool :=
  if !d.entryUsed st i then e != 0
  else
    decide ((keys.filter (· == slotKey e)).length ≠ 1)
      || decide (d.get (Reg.LINK_CFG_n.ROWS (neLink e)) < neRow e) || decide (d.slotsOf (neLink e) (neRow e) ≤ neSlot e)
      || (neBoost e != 0 && neState e != nsWeak) || (decide (shadow0 ≤ i) && (nePartL e != 0 || nePartR e != 0))

/-- The first entry of a nozzle table that breaks R209. -/
def Dev.nozzlesBad (d : Dev) (nz : List (Nat × Nat)) (st : List (Nat × Stitch)) : Option Nat :=
  let at_ (i : Nat) : Nat := (kvGet nz i).getD 0
  let keys := ((List.range 264192).filter (d.entryUsed st)).map fun i => slotKey (at_ i)
  (List.range 264192).find? fun i => d.entryBad st keys i (at_ i)

/-- NOZZLE_TABLE_LOAD. -/
def execNozzleTableLoad (dt : Nat) (ring : Nat) (x : Desc) (data : Fetch) (s : State) : Host.Outcome State Fault Refusal :=
  s.act dt fun d =>
    d.deviceTable ring x 0x01 1 (fun o n => decide (o + n / 8 ≤ 264192)) (fun _ => true) fun d t =>
      d.tableData t x data fun d bytes =>
        let o := tlOfs x
        let n := bytes.length / 8
        let new := (List.range n).foldl (fun (b : GzBank) i => b.setEntry (o + i) (leAt bytes (8 * i) 8)) (d.gzIdle 0)
        match d.nozzlesBad new.nozzles d.nextStitches.stitches with
        | some i => d.complete t stTableBad (min 65535 i)
        | none =>
          let bank := d.idleBank 0
          let d := d.clearPoison fun p => match p with
            | .nozzle b i => b == bank && decide (o ≤ i) && decide (i < o + n)
            | _ => false
          let d := d.modIdle 0 fun _ => new
          let written := (List.range n).map (o + ·)
          let d := { d with gz := { d.gz with loaded := d.gz.loaded ++ written.filter fun i => !d.gz.loaded.contains i } }
          (d.gzPending 0).complete t stOk 0

/-! ## Stitch sets (R213) -/

/-- A stitch from its 576 bytes. -/
def stitchOf (bs : List Nat) : Stitch :=
  ⟨leAt bs 0 1 % 4, leAt bs 1 1, leAt bs 2 1 % 128 + 1, leAt bs 4 4, leAt bs 8 4, (List.range 256).map fun e => leAt bs (64 + 2 * e) 2⟩

/-- Columns of two stitches overlap. -/
def stitchMeets (a b : Stitch) : Bool := a.ch == b.ch && decide (a.x0 < b.x0 + b.ov) && decide (b.x0 < a.x0 + a.ov)

/-- DETAIL of the first check of R213 that a stitch fails. -/
def Dev.stitchBad (d : Dev) (s : Nat) (bs : List Nat) (st : List (Nat × Stitch)) : Option Nat :=
  let x := stitchOf bs
  let reserved := (3 :: (List.range 52).map (12 + ·)).find? fun o => leAt bs o 1 ≠ 0
  let share := (List.range 256).find? fun e => decide (256 < leAt bs (64 + 2 * e) 2)
  let place := match x.type with
    | 1 => decide (x.x0 + x.ov ≤ d.ntW)
    | 2 => decide (x.x0 + x.ov = d.ntW)
    | _ => decide (x.x0 = 0)
  if 4 ≤ leAt bs 0 1 then some 0
  else if x.type = 0 then
    match (List.range 64).find? fun o => leAt bs o 1 ≠ 0 with
    | some o => some o
    | none => share.map fun e => 64 + 2 * e
  else if d.ntCh ≤ x.ch then some 1
  else if 128 ≤ leAt bs 2 1 then some 2
  else if !place || st.any (fun (n, y) => n != s && y.type != 0 && stitchMeets x y) then some 4
  else match reserved with
    | some o => some o
    | none => share.map fun e => 64 + 2 * e

/-- STITCH_SET_LOAD: checked against the nozzle table that will be in force beside it. -/
def execStitchSetLoad (dt : Nat) (ring : Nat) (x : Desc) (data : Fetch) (s : State) : Host.Outcome State Fault Refusal :=
  s.act dt fun d =>
    d.deviceTable ring x 0x07 16 (fun o _ => decide (o = 0)) (fun n => decide (n = 576)) fun d t =>
      d.tableData t x data fun d bytes =>
        let n := tlInst x
        match d.stitchBad n bytes (d.gzIdle 1).stitches with
        | some o => d.complete t stTableBad o
        | none =>
          let new := kvPut (d.gzIdle 1).stitches n (stitchOf bytes)
          match d.nozzlesBad d.nextNozzles.nozzles new with
          | some i => d.complete t stTableBad (min 65535 i)
          | none =>
            let bank := d.idleBank 1
            let d := d.clearPoison fun p => match p with
              | .stitch b i => b == bank && i == n
              | _ => false
            let d := d.modIdle 1 fun b => { b with stitches := new }
            (d.gzPending 1).complete t stOk 0

/-! ## The alignment set (R232) -/

/-- ALIGNMENT_SET_LOAD. -/
def execAlignmentSetLoad (dt : Nat) (ring : Nat) (x : Desc) (data : Fetch) (s : State) : Host.Outcome State Fault Refusal :=
  s.act dt fun d =>
    d.deviceTable ring x 0x0B 1 (fun o _ => decide (o = 0)) (fun n => decide (n = 512)) fun d t =>
      d.tableData t x data fun d bytes =>
        let fo (n : Nat) : Int := signedOf 32 (leAt bytes (8 * n) 4)
        let xo (n : Nat) : Int := signedOf 16 (leAt bytes (8 * n + 4) 2)
        match (List.range 64).find? fun n => !alignRange (fo n) (xo n) || decide (leAt bytes (8 * n + 6) 2 ≠ 0) with
        | some n => d.complete t stTableBad n
        | none =>
          let bank := d.idleBank 2
          let d := d.clearPoison (kindDatum 11 bank)
          let d := d.modIdle 2 fun b => { b with align := (List.range 64).foldl (fun l n => putAlign l n (fo n) (xo n)) [] }
          (d.gzPending 2).complete t stOk 0

/-! ## Policy tables -/

/-- DETAIL of the first field of a policy table that fails: INSTANCE 0x20 Gauze (R230), 0x21 links (R295), 0x22 Linen (R322), 0x23 mains
(R462). -/
def policyBad (inst : Nat) (bs : List Nat) : Option Nat :=
  let b (o : Nat) : Nat := leAt bs o 1
  match inst with
  | 0x20 => (List.range 16).find? fun n => decide (3 < b (4 * n)) || decide (leAt bs (4 * n + 1) 3 ≠ 0)
  | 0x21 => (List.range 16).find? fun n => decide (1 < b (4 * n)) || decide (1 < b (4 * n + 1)) || decide (leAt bs (4 * n + 2) 2 ≠ 0)
  | 0x22 => (List.range 64).find? fun o => if (o < 48 ∧ o % 4 < 2) ∨ o = 48 then decide (2 < b o) else decide (b o ≠ 0)
  | _ => (List.range 64).find? fun o =>
      if o < 6 then decide (2 < b o)
      else if o = 8 then decide (leAt bs 8 4 = 0) || decide (4194303 < leAt bs 8 4)
      else if o = 9 ∨ o = 10 ∨ o = 11 ∨ o = 15 then false
      else if o = 12 then decide (100 < b 12)
      else if o = 14 then decide (leAt bs 14 2 = 0)
      else decide (b o ≠ 0)

/-- POLICY_TABLE_LOAD: at once with no job live, else at the switch point. -/
def execPolicyTableLoad (dt : Nat) (ring : Nat) (x : Desc) (data : Fetch) (s : State) : Host.Outcome State Fault Refusal :=
  s.act dt fun d =>
    d.onTake (d.takeTable ring x 0x09) fun d t =>
      if tlTag x ≠ 0 ∨ tlInst x < 0x20 ∨ 0x23 < tlInst x then d.complete t stBadParam 4
      else if tlOfs x ≠ 0 then d.complete t stBadParam 5
      else if x.len ≠ 64 then d.complete t stBadLength 0
      else d.tableData t x data fun d bytes =>
        match policyBad (tlInst x) bytes with
        | some o => d.complete t stTableBad o
        | none =>
          let d := { d with gz := { d.gz with policyNext := kvPut d.gz.policyNext (tlInst x) bytes } }
          d.gzDue.complete t stOk 0

/-! ## NOZZLE_SET (R236) -/

/-- The entry that NOZZLE_SET makes of one. -/
def nozzleSet (weakAdd e w7 w8 : Nat) : Nat :=
  let new := if bitOf w7 2 then w7 % 4 else neState e
  let g := if bitOf w8 16 then w8 % 65536 else neGain e - neBoost e
  let bare := neSet (neSet e 20 16 g) 52 12 0
  let e := if new = nsWeak ∧ neState e = nsWeak ∧ !bitOf w8 16 then e else reboost weakAdd bare new
  let e := neSet e 36 2 new
  let e := if bitOf w7 4 then neSet e 51 1 (bitsOf w7 3 1) else e
  let e := if bitOf w7 9 then nePart e (bitsOf w7 5 2) (bitsOf w7 7 2) else e
  if bitOf w7 10 then neCounts e 0 0 0 else e

/-- NOZZLE_SET: one entry of the inactive bank, whatever AT_FRAME says. -/
def execNozzleSet (dt : Nat) (ring : Nat) (x : Desc) (s : State) : Host.Outcome State Fault Refusal :=
  s.act dt fun d =>
    d.onTake (d.takeParam ring x (· == 0xB3F0) readyRunHold true) fun d t =>
      match valueExtra x [0x7FFFF, 0x7FF, 0x1FFFF, 0] with
      | some w => d.complete t stBadParam w
      | none =>
        let i := x.w 6
        if !d.entryUsed d.nextStitches.stitches i then d.complete t stBadParam 6
        else
          let e := (d.gzIdle 0).entry i
          let ovr := if bitOf (x.w 7) 4 then bitOf (x.w 7) 3 else neOvr e
          if bitOf (x.w 7) 9 && !ovr then d.complete t stBadParam 7
          else
            let d := d.modIdle 0 fun b => b.setEntry i (nozzleSet (d.get Reg.PIPE_GZ_DECIDE.WEAK_ADD) e (x.w 7) (x.w 8))
            let d := { d with gz := { d.gz with hostSet := if d.gz.hostSet.contains i then d.gz.hostSet else d.gz.hostSet ++ [i] } }
            (d.gzPending 0).complete t stOk 0

/-! ## Registers by PARAM (R237) -/

/-- The bits of a register that R237 names, and whether a value passes the set-up check. -/
def gzRegOk (off v : Nat) : Bool :=
  match off with
  | 0xB0308 => decide (Nat.land v 0xF000FC08 = 0) && decide (v % 8 ≠ 0) && decide (bitsOf v 4 4 ≠ 0) && decide (bitsOf v 8 2 ≠ 0)
  | 0xB030C => decide (Nat.land v 0xFFE0E0E0 = 0) && decide (v % 32 ≤ 16) && decide (bitsOf v 8 5 ≤ 16) && decide (bitsOf v 16 5 ≤ 16)
  | 0xB0310 => decide (1 ≤ v) && decide (v ≤ 1000)
  | 0xB0314 => decide (Nat.land v 0x0080E000 = 0) && decide (2 ≤ bitsOf v 8 5) && decide (bitsOf v 8 5 ≤ 16) && decide (8 ≤ bitsOf v 16 7)
      && decide (bitsOf v 16 7 ≤ 64)
  | 0xB0318 => decide (v < 65536)
  | _ => decide (v < 2 ^ 24) && decide (v % 256 < bitsOf v 8 8)

/-- A register value that waits for the switch point. -/
def Dev.gzRegParam (d : Dev) (t : Ticket) (x : Desc) (off : Nat) : Dev :=
  match valueExtra x [0xFFFFFFFF, 0, 0, 0] with
  | some w => d.complete t stBadParam w
  | none =>
    if !gzRegOk off (x.w 6) then d.complete t stBadParam 6
    else (({ d with gz := { d.gz with regs := kvPut d.gz.regs off (x.w 6) } }).gzDue).complete t stOk 0

/-- GAUZE_REGISTER_PARAM: IDs 0xB308 to 0xB318. -/
def execGauzeRegisterParam (dt : Nat) (ring : Nat) (x : Desc) (s : State) : Host.Outcome State Fault Refusal :=
  s.act dt fun d =>
    d.onTake (d.takeParam ring x (fun id => [0xB308, 0xB30C, 0xB310, 0xB314, 0xB318].contains id) allServed false) fun d t =>
      d.gzRegParam t x (0xB0000 + paramId x % 4096)

/-- CAM_ANALYSIS_PARAM: ID 0xA080. -/
def execCamAnalysisParam (dt : Nat) (ring : Nat) (x : Desc) (s : State) : Host.Outcome State Fault Refusal :=
  s.act dt fun d =>
    d.onTake (d.takeParam ring x (· == 0xA080) allServed false) fun d t => d.gzRegParam t x 0xA0080

end Sys2Proof.Machine
end

