-- ==== Sys2Proof/Machine/ReplayRun.lean ====
section
/-! DEFINITION. A replay at work (R502 to R505): the stream, its records in order, REPLAY_GO, and CAPTURE_BUF in both directions. -/
namespace Sys2Proof.Machine

def Dev.modReplay (d : Dev) (f : Replay → Replay) : Dev := { d with recd := { d.recd with replay := d.recd.replay.map f } }

/-- The line that a divergence names where none has been compared: the next line to render. -/
def Replay.nextLine (r : Replay) : Nat × Nat :=
  match r.queue.find? fun x => recType x == 8 with
  | some x => lineOfRec x
  | none => match r.last, r.start with
    | some (t, l), _ => (t, l + 1)
    | none, some (t, l, _, _) => (t, l)
    | none, none => (0, 0)

/-- The replay ends where no line diverged: the line reported is the last one compared. -/
def Dev.replayStop (d : Dev) (result : Nat) : Dev :=
  let x := (d.recd.replay.bind (·.last)).getD (0, 0)
  d.replayEnd result 0 x.1 x.2 0

/-- The replay diverges before the next line is rendered: stage 1 or 5. -/
def Dev.replayDiverge (d : Dev) (stage : Nat) : Dev :=
  let x := (d.recd.replay.map Replay.nextLine).getD (0, 0)
  d.replayEnd 1 stage x.1 x.2 0

/-! ## Records before the first line -/

/-- START: what it must agree with (result 3). -/
def Dev.startAgrees (d : Dev) (x : List Nat) : Bool :=
  leAt x 40 4 == d.get Reg.SVC_FW_VER.VERSION && leAt x 44 2 == d.get Reg.GLB_ID.STEPPING && leAt x 48 4 == d.setupCrc && !bitOf (leAt x 9 1) 1

/-- Change both banks of the device-wide tables. -/
def Dev.bothBanks (d : Dev) (f : GzBank → GzBank) : Dev := { d with gz := { d.gz with bank0 := f d.gz.bank0, bank1 := f d.gz.bank1 } }

/-- A TABLE_IMAGE is written into both banks of its kind. -/
def Dev.tableImage (d : Dev) (x : List Nat) : Dev :=
  let kind := leAt x 8 1
  let ofs := leAt x 12 4
  let bs := x.drop 16
  match kind with
  | 1 =>
    let n := min (bs.length / 8) (264192 - ofs / 8)
    (d.bothBanks fun b => (List.range n).foldl (fun (b : GzBank) i => b.setEntry (ofs / 8 + i) (leAt bs (8 * i) 8)) b).countStates
  | 7 => (d.bothBanks fun b => { b with stitches := kvPut b.stitches (leAt x 9 1 % 16) (stitchOf bs) }).countStates
  | 11 => (d.bothBanks fun b => { b with
      align := (List.range 64).foldl (fun l n => putAlign l n (signedOf 32 (leAt bs (8 * n) 4)) (signedOf 16 (leAt bs (8 * n + 4) 2))) [] }).alignRem
  | _ => d

/-- The TBL_CRCs of START agree with the tables in force (R504, R505). -/
def Dev.tablesAgree (d : Dev) (j : Option Job) (crcs : List Nat) : Bool :=
  (List.range 11).all fun k => crcs.getD k 0 == d.tableCrc j (k + 1)

/-- The job of START is staged, or there is none: it goes live and the tables are compared. None while the replay waits. -/
def Dev.replayBegin (d : Dev) (tag line j0 : Nat) (crcs : List Nat) : Option Dev :=
  let begun (d : Dev) : Dev := d.modReplay fun r => { r with begun := true, next := some (tag, line) }
  if tag = 0 then some (if d.tablesAgree none crcs then begun d else d.replayDiverge 1)
  else match d.job? tag with
    | none => none
    | some j =>
      if j.phase ≠ .staged then none
      else
        let d := d.goLive tag j0 false
        some (if d.tablesAgree (d.job? tag) crcs then begun d else d.replayDiverge 1)

/-! ## Records between lines -/

/-- A DESC record of a kind that is compared: opcode, tag, identity, CRC field. -/
def descOfRec (x : List Nat) : Nat × Nat × Nat × Nat := (leAt x 9 1, leAt x 11 1, leAt x 24 4, leAt x 20 4)

/-- Remove the first descriptor that satisfies `p`. -/
def dropDesc (p : Nat × Nat × Nat × Nat → Bool) : List (Nat × Nat × Nat × Nat) → List (Nat × Nat × Nat × Nat)
  | [] => []
  | x :: t => if p x then t else x :: dropDesc p t

/-- The first entries decided by a DETECT record. -/
def Dev.replayDetect (d : Dev) (x : List Nat) : Dev :=
  let b : Band := ⟨0, leAt x 17 1, false, leAt x 8 1, leAt x 9 1, 0, leAt x 12 5, 0, 1, 1, 0, 0, none⟩
  let n := leAt x 10 2
  let dets := (List.range n).map fun i => bitsOf (leAt x (24 + i / 4) 1) (2 * (i % 4)) 2
  d.decideBand ((d.bandEntries b).zip dets)

/-- A SWITCH with bit 0: the job goes live where the last line rendered ends, or at the captured J0. None while it is not staged. -/
def Dev.replayLive (d : Dev) (r : Replay) (tag : Nat) : Option Dev :=
  match d.job? tag with
  | none => none
  | some j =>
    if j.phase = .live then some d
    else if j.phase ≠ .staged then none
    else match d.live? with
      | none => some (d.goLive tag ((r.start.map fun s => s.2.2.1).getD 0) false)
      | some old =>
        let line := match r.last with
          | some (t, l) => if t = old.tag then l + 1 else 0
          | none => 0
        let pos := pwAdd old.j0 (256 * line)
        some ((d.goLive tag pos true).endJob { old with phase := .ending } (line / old.repeat_ - 1) 0)

/-- The records of earlier frames of a job are not composed any more. -/
def Dev.dropEarlier (d : Dev) (tag frame : Nat) : Dev :=
  let old (t f : Nat) : Bool := t == tag && decide (f < frame)
  { d with dmk := { d.dmk with
    records := d.dmk.records.filter (fun r => !old r.tag r.frame), painted := d.dmk.painted.filter fun p => !old p.tag p.frame } }

/-- One record at the head of the queue: none where the replay waits there. -/
def Dev.replayRecord (d : Dev) (r : Replay) (x : List Nat) : Option Dev :=
  let past (d : Dev) : Dev := d.modReplay fun r => { r with queue := r.queue.drop 1 }
  let type := recType x
  match r.start with
  | none =>
    if type ≠ 1 then some (d.replayStop 2)
    else if !d.startAgrees x then some (d.replayStop 3)
    else
      let crcs := (List.range 11).map fun k => leAt x (52 + 4 * k) 4
      some (past (d.modReplay fun r => { r with start := some (leAt x 11 1, leAt x 16 5, leAt x 24 6, crcs) }))
  | some (tag, line, j0, crcs) =>
    if type = 2 then some (past (d.tableImage x))
    else if !r.begun then d.replayBegin tag line j0 crcs
    else match type with
      | 4 =>
        let (op, t, id, crc) := descOfRec x
        if !([0x02, 0x03, 0x20, 0x28].contains op) then some (past d)
        else
          let same (y : Nat × Nat × Nat × Nat) : Bool := y.1 == op && y.2.1 == t && y.2.2.1 == id
          match d.recd.rplDescs.find? same with
          | none => none
          | some y =>
            if y.2.2.2 ≠ crc then some (d.replayDiverge 1)
            else some (past { d with recd := { d.recd with rplDescs := dropDesc same d.recd.rplDescs } })
      | 5 =>
        let (t, _, mask) := switchOfRec x
        let kinds := (List.range 12).filter fun k => decide (1 ≤ k) && bitOf mask k
        if t = 0 then (if kinds.all fun k => d.tableCrc none k == switchCrc x k then some (past d) else none)
        else
          let wait (d : Dev) : Dev := if kinds = [] then past d else past (d.modReplay fun r => { r with waiting := r.waiting ++ [x] })
          if bitOf mask 0 then (d.replayLive r t).map wait else some (wait d)
      | 7 => some (past (d.replayDetect x))
      | 8 =>
        let (t, l) := lineOfRec x
        let d' := match d.job? t with
          | some j => d.dropEarlier t (l / j.repeat_)
          | none => d
        if d'.dmk = d.dmk then none else some d'
      | 15 => some (d.replayStop 2)
      | 16 => some (d.replayStop 0)
      | _ => some (past d)

/-- Work through the records up to the next line to render. -/
def Dev.replayPump : Nat → Dev → Dev
  | 0, d => d
  | fuel + 1, d =>
    match d.recd.replay with
    | none => d
    | some r =>
      match r.queue with
      | [] => if r.ended then d.replayStop 2 else d
      | x :: _ => match d.replayRecord r x with
        | none => d
        | some d => Dev.replayPump fuel d

def Dev.replayGo (d : Dev) : Dev := Dev.replayPump 1048576 d

/-! ## The stream (R502, R504) -/

/-- Cut whole records off decoded bytes (R495); none at a length that no record has. -/
def cutRecords : Nat → List Nat → Option (List (List Nat) × List Nat)
  | 0, bs => some ([], bs)
  | fuel + 1, bs =>
    if bs.length < 8 then some ([], bs)
    else
      let n := 8 * leAt bs 2 2
      if n < 16 then none
      else if bs.length < n then some ([], bs)
      else (cutRecords fuel (bs.drop n)).map fun (l, t) => (bs.take n :: l, t)

/-- Capture descriptors complete once their bytes have been decoded; END is the end of them all. -/
def Dev.replayBuffers (d : Dev) : Dev :=
  match d.recd.replay with
  | none => d
  | some r =>
    let gone := r.open_.filter fun (_, _, _, e) => r.ended || decide (e ≤ r.decoded)
    let d := d.modReplay fun r => { r with open_ := r.open_.filter fun x => !gone.contains x }
    gone.foldl (fun d (ring, idx, irq, _) => d.completeBuf ring idx 0x48 irq stOk 0 []) d

/-- More bytes of the stream. A block that does not decode, or a record of no length, breaks the stream. -/
def Dev.replayBytes (d : Dev) (bs : List Nat) : Dev :=
  match d.recd.replay with
  | none => d
  | some r =>
    if r.ended then d.replayBuffers
    else
      let input := r.input ++ bs
      match r.dec.run Reads.clean none (decFuel input.length) input with
      | .error _ => d.replayStop 2
      | .ok (s, rest, ended) =>
        let new := (s.rev.take (s.total - r.dec.total)).reverse
        match cutRecords (r.tail.length + new.length) (r.tail ++ new) with
        | none => d.replayStop 2
        | some (l, tail) =>
          let d := d.modReplay fun r => { r with
            input := rest, decoded := r.decoded + input.length - rest.length, dec := s, ended := ended, tail := tail
            queue := r.queue ++ l, records := r.records + l.length }
          d.replayBuffers.replayGo

/-- CAPTURE_BUF: an empty buffer for the capture stream, or in replay mode a buffer of the stream to be replayed, which waits in the ring
until a replay runs. -/
def execCaptureBuf (dt : Nat) (ring : Nat) (x : Desc) (data : Fetch) (s : State) : Host.Outcome State Fault Refusal :=
  s.act dt fun d =>
    if !d.on Reg.REC_RPL_CFG.EN then d.takeBuf ring x 4 0x48 fun d b => (d.addOpen b).capMove
    else match d.recd.replay with
      | none => d
      | some r =>
        d.takeBuf ring x 4 0x48 fun d b =>
          let d := d.reads (d.channelOf ring) x.addr x.len
          match fetched data x.len with
          | .error code =>
            let (e, d) := d.readError ring x.addr x.len (failedAt data) code
            (d.completeBuf ring b.idx b.op b.irq code 0 []).stopAfter 8 e
          | .ok bytes =>
            let d := d.movedRing ring x.len
            let upto := r.decoded + r.input.length + bytes.length
            (d.modReplay fun r => { r with open_ := r.open_ ++ [(ring, b.idx, b.irq, upto)] }).replayBytes bytes

/-- REPLAY_GO (R503): the device enters RUN. -/
def execReplayGo (dt : Nat) (ring : Nat) (x : Desc) (s : State) : Host.Outcome State Fault Refusal :=
  s.act dt fun d =>
    d.onTake (d.takeParam ring x (· == 0xE002) (if d.on Reg.REC_RPL_CFG.EN then [.ready] else []) true) fun d t =>
      if bitsOf (x.w 6) 24 8 ≠ 0x80 ∨ 65536 ≤ x.w 8 ∨ x.w 9 ≠ 0 then d.complete t stBadParam 6
      else
        let r : Replay := {
          ticket := t, ident := x.w 6, stopTag := x.f 8 8 8, stopLine := x.w 7 + 2 ^ 32 * x.f 8 0 8, input := [], decoded := 0, open_ := []
          dec := Dec.start (x.w 6), ended := false, tail := [], queue := [], records := 0, waiting := [], start := none, begun := false
          next := none, last := none }
        let d := { d with recd := { d.recd with replay := some r } }
        (d.put Reg.REC_RPL_STAT.STATE 2).enterRun

/-- A change that the stream waits for may have come: a job staged, a table loaded, a record published. -/
def Dev.replayPoke (d : Dev) : Dev := if d.recd.replay.isSome then d.replayGo else d

end Sys2Proof.Machine
end

