-- ==== Sys2Proof/Machine/Deliver.lean ====
section
/-! DEFINITION. The pipeline's steps around the banks: COMPOSE_LINE (R168), GAUZE_LINE (R211), LINE_QUEUE (R271, R272), and the throttle
pause (R450). -/
namespace Sys2Proof.Machine

/-! ## COMPOSE_LINE -/

/-- COMPOSE_LINE: Damask composes the next line once its record and symbols are there. `kib` is what the RT prefetch buffer holds at the
line's start, `residues` its failing granules. While a training sweep gathers data the stack serves no read (R405). -/
def execComposeLine (dt : Nat) (kib : Nat) (residues : List (Nat × Nat)) (s : State) : Host.Outcome State Fault Refusal :=
  s.act dt fun d =>
    let d := d.replayPoke
    if (d.mode ≠ .run ∧ d.mode ≠ .hold) ∨ d.renderPaused ∨ d.dmk.composed.isSome ∨ d.replayIdle
        ∨ d.on Reg.MEM_DRAM_STAT.TRAINING then d
    else match d.nextCompose with
      | none => d
      | some (j, line) =>
        let y := line % j.repeat_
        let n := line / j.repeat_
        let fetch (d : Dev) : Dev := d.dramReq.panicAt kib
        if j.frameLines ≤ y then
          let d := fetch d
          let d := if d.get Reg.PIPE_DMK_LINE.CYCLES_MAX < 16 then d.put Reg.PIPE_DMK_LINE.CYCLES_MAX 16 else d
          d.composedLine j line (List.replicate j.channels (List.replicate d.dmk.width 0)) []
        else match d.record? j.tag n with
          | none =>
            if d.dmk.starved = some (j.tag, n) then d
            else ({ d with dmk := { d.dmk with starved := some (j.tag, n) } }).post 0x1005 sevWarn [j.tag, n]
          | some r =>
            if y = 0 ∧ !d.isPainted (d.frameIn j r) then
              (if d.paintWaits j.tag n then d else { d with dmk := { d.dmk with paintWait := some (j.tag, n, d.tb) } })
            else (fetch (d.paintLate j.tag n r.layout)).composeImage j line y r residues

/-! ## GAUZE_LINE -/

/-- TWL_CRC of a line (R496). -/
def twlCrc (tag line : Nat) (codes : List (List Nat)) : Nat := crc32c ([0xFF, 0x72] ++ leBytes 5 line ++ [tag] ++ codes.flatten)

/-- Payload words of a row: slot p in bits b x p to b x p + b - 1 (R275). -/
def packSlots (words bits : Nat) (slots : List Nat) : List Nat :=
  let per := 64 / bits
  (List.range words).map fun w => (((slots.drop (w * per)).take per).reverse).foldl (fun v x => v * 2 ^ bits + x % 2 ^ bits) 0

/-- UNCOMPENSATED donors of a line: counted, the frame SUSPECT (R216, R231); after the frame's last image line each is posted (R238). -/
def Dev.uncompLine (d : Dev) (j : Job) (line : Nat) (donors : List Nat) : Dev :=
  let y := line % j.repeat_
  let frame := line / j.repeat_
  let d := donors.foldl (fun (d : Dev) i =>
    let n := kvGet d.gz.uncomp i
    let d := d.bump Reg.PIPE_GZ_UNCOMP.DONORS
    let d := { d with gz := { d.gz with uncomp := kvPut d.gz.uncomp i (n.getD 0 + 1) } }
    if n.isSome then d else d.finding j.tag frame vSuspect cUncompensated (some y) none) d
  if y + 1 = j.frameLines then
    let l := d.gz.uncomp
    l.foldl (fun d (i, n) => d.post 0xB037 sevWarn [i, frame, n]) { d with gz := { d.gz with uncomp := [] } }
  else d

/-- Line 0 of a frame: degraded rows give it their verdict (R230, R231). -/
def Dev.degradedFrame (d : Dev) (j : Job) (line : Nat) : Dev :=
  d.gz.degraded.foldl (fun d g =>
    if g.action = 0 then d
    else d.finding j.tag (line / j.repeat_) (if g.action = 1 then vSuspect else vReject) cDegraded none (some g.link)) d

/-- Gauze has finished a line: after every 64 at a throttle level L the pipeline pauses for L x PAUSE_STEP us (R450). -/
def Dev.batchLine (d : Dev) : Dev :=
  let n := d.sense.batch + 1
  let level := d.get Reg.SENSE_THERM_STAT.LEVEL
  if n < 64 then { d with sense := { d.sense with batch := n } }
  else if level = 0 then { d with sense := { d.sense with batch := 0 } }
  else
    let stop := tbPlus d.tb (level * d.get Reg.SENSE_THERM_CFG.PAUSE_STEP * 1000)
    ({ d with sense := { d.sense with batch := 0, pause := some stop } }).bump Reg.SENSE_THERM_STAT.PAUSES

/-- The mapped line as the rows of link `n` carry it. -/
def Dev.linkPayloads (d : Dev) (m : MLine) (bits n : Nat) : List (List Nat) :=
  ((List.range (d.rowsOf n)).zip (m.rows.getD n [])).map fun (r, slots) => packSlots (d.rowWords n r bits) bits slots

/-- The links of a LINE record: link, CRC, whether a row has a line-check class. -/
def linksOfRec (x : List Nat) : List (Nat × Nat × Bool) :=
  let mask := maskList (leAt x 14 2) 16
  ((List.range mask.length).zip mask).map fun (i, n) =>
    (n, leAt x (24 + 8 * i) 4, (List.range 4).any fun r => bitsOf (leAt x (28 + 8 * i + r) 1) 4 2 != 0)

/-- The first check of R505 that a line fails against its LINE record: stage and link. -/
def Dev.lineDiffers (d : Dev) (m : MLine) (bits : Nat) (x : List Nat) : Option (Nat × Nat) :=
  if leAt x 16 4 ≠ m.dmkCrc then some (2, 0)
  else if leAt x 20 4 ≠ m.twlCrc then some (3, 0)
  else (linksOfRec x).findSome? fun (n, crc, checked) =>
    let rows := (d.linkPayloads m bits n).map fun p => (⟨p, 0, false, none, 0, none, [], 0, 0, 0, false, none⟩ : RowEntry)
    if lineSummary n m.line m.tag rows = crc then none else some (if checked then 6 else 4, n)

/-- In a replay the line goes to null sinks: PW follows it, it is compared, and the records after it are read. -/
def Dev.replayLine (d : Dev) (j : Job) (m : MLine) : Dev :=
  match d.recd.replay with
  | none => d
  | some r =>
    let d := { d with pos := { d.pos with pw := pwAdd j.base (256 * m.line) }, link := { d.link with newest := some (m.tag, m.line) } }
    let d := d.batchLine.positionReached
    match d.lineDiffers m (depthBits j.depth) (r.queue.headD []) with
    | some (stage, link) => d.replayEnd 1 stage m.tag m.line link
    | none =>
      let d := d.modReplay fun r => { r with queue := r.queue.drop 1, last := some (m.tag, m.line), next := none }
      if r.stopTag = m.tag ∧ r.stopTag ≠ 0 ∧ r.stopLine = m.line then d.replayStop 0 else d.replayGo

/-- Gauze maps one screened line of a job. -/
def Dev.gauze (d : Dev) (j : Job) (sl : SLine) : Dev :=
  let y := sl.line % j.repeat_
  let d := if y = 0 then (d.bandsDone).degradedFrame j sl.line else d
  let f := sl.line / j.repeat_
  let d := if y = j.frameLines then d.gutterBegins j f sl.line
    else if j.gutterLines = 0 ∧ y + 1 = j.frameLines then d.gutterBegins j f (sl.line + 1) else d
  let g := d.gauzeIn j sl
  let active := d.get Reg.PIPE_GZ_BANK.ACTIVE
  let bad := d.mapPoison g d.badData active sl.poison
  let d := d.ueRead (d.badData.filter fun x => d.mapPoison g [x] active [] != [])
  let m : MLine := ⟨sl.tag, sl.line, sl.dmkCrc, twlCrc sl.tag sl.line sl.codes, d.slotRows g, bad⟩
  let d := if g.image then d.uncompLine j sl.line g.uncompensated else d
  let d := { d with dmk := { d.dmk with screened := none }, ecc := { d.ecc with once := d.ecc.once.filter fun x => !gauzeDatum x } }
  if d.recd.replay.isSome then d.replayLine j m else { d with dmk := { d.dmk with mapped := some m } }

/-- GAUZE_LINE: the next screened line is mapped once the one before it is in the FIFOs. -/
def execGauzeLine (dt : Nat) (s : State) : Host.Outcome State Fault Refusal :=
  s.act dt fun d =>
    if (d.mode ≠ .run ∧ d.mode ≠ .hold) ∨ d.renderPaused ∨ d.dmk.mapped.isSome ∨ d.replayIdle then d
    else match d.dmk.screened with
      | none => d
      | some sl =>
        match d.job? sl.tag with
        | none => { d with dmk := { d.dmk with screened := none } }
        | some j => d.gauze j sl

/-! ## LINE_QUEUE (R271, R272) -/

/-- The line in the FIFO of one link: rows that were settled before it came hold their outcome. -/
def Dev.queueLink (d : Dev) (m : MLine) (bits n : Nat) : Dev :=
  let ps := d.linkPayloads m bits n
  let ahead := (d.lk n).lateAhead
  let rows := ((List.range ps.length).zip ps).map fun (r, p) =>
    let o := (ahead.find? fun x => x.1 == r && x.2.1 == m.tag && x.2.2.1 == m.line).map (·.2.2.2)
    (⟨p, sourceCheck n r m.line m.tag p, m.poison.contains (n, r), o, 0, none, [], 0, 0, 0, false, none⟩ : RowEntry)
  (d.modLk n fun l => { l with
    fifo := l.fifo ++ [⟨m.tag, m.line, m.dmkCrc, m.twlCrc, d.tb, rows⟩]
    lateAhead := l.lateAhead.filter fun x => !(x.2.1 == m.tag && x.2.2.1 == m.line) }).release n

/-- LINE_QUEUE: the mapped line enters the FIFOs of all enabled links at once; while one of them is full Gauze waits. -/
def execLineQueue (dt : Nat) (s : State) : Host.Outcome State Fault Refusal :=
  s.act dt fun d =>
    match d.dmk.mapped with
    | none => d
    | some m =>
      if (d.mode ≠ .run ∧ d.mode ≠ .hold) ∨ d.renderPaused ∨ d.on Reg.MEM_DRAM_STAT.TRAINING
          ∨ d.linksOn.any (fun n => decide (d.get Reg.LINK_FIFO.DEPTH ≤ (d.lk n).fifo.length)) then d
      else match d.job? m.tag with
        | none => { d with dmk := { d.dmk with mapped := none } }
        | some j =>
          let rel : Released := ⟨m.tag, m.line, m.dmkCrc, m.twlCrc, []⟩
          let d := d.dramReq
          let d := { d with link := { d.link with released := d.link.released ++ [rel], newest := some (m.tag, m.line) }
                            linen := { d.linen with finished := (d.tb :: d.linen.finished).take 81921, finN := d.linen.finN + 1 }
                            dmk := { d.dmk with mapped := none } }
          let d := d.linksOn.foldl (fun d n => d.queueLink m (depthBits j.depth) n) d
          (Dev.releaseRecords 65536 d).batchLine.lineSummaries m.tag m.line (d.linksOn.map fun n =>
            (n, linkCrc (linePrefix n 0x30 m.line m.tag) (d.linkPayloads m (depthBits j.depth) n).flatten))

/-- THROTTLE_PAUSE_END: the pause has lasted its time (R450). -/
def execThrottlePauseEnd (dt : Nat) (s : State) : Host.Outcome State Fault Refusal :=
  s.act dt fun d =>
    match d.sense.pause with
    | some t => if t ≤ d.tb then { d with sense := { d.sense with pause := none } } else d
    | none => d

end Sys2Proof.Machine
end

