-- ==== Sys2Proof/Machine/Frames.lean ====
section
/-! DEFINITION. Verdicts as they are posted (R409 to R411, R416), the end of an ENDING job (R101), the pulse-mode mark (R418), and the
host's CRC units (R420 to R423). -/
namespace Sys2Proof.Machine

/-! ## FRAME_VERDICT -/

/-- The frame whose verdict is due next: of the earliest job that has one, once it is final. -/
def Dev.verdictDue (d : Dev) : Option (Job × Nat) :=
  match d.jobsInOrder.find? fun j => !d.allPosted j with
  | none => none
  | some j => let f := d.nextFrame j; if d.frameFinal j (d.frame j.tag f) then some (j, f) else none

/-- Whether FRAME_VERDICT says that the frame is marked: by the level that its slot drove, or will drive (R424). -/
def Dev.saysMarked (d : Dev) (r : FrameRec) : Bool :=
  match r.marked with
  | some (m, _) => m
  | none => d.marks r.verdict && d.markWaits r.tag r.frame

/-- Count a verdict and make it the last (CHK registers). -/
def Dev.countVerdict (d : Dev) (r : FrameRec) : Dev :=
  let d := if r.verdict = vPass then d.wrap Reg.CHK_PASS.PASS
    else d.bump (if r.verdict = vSuspect then Reg.CHK_CNT.SUSPECT else Reg.CHK_CNT.REJECT)
  let d := { d with chk := { d.chk with lastFrame := r.frame % 2 ^ 32 } }
  ((d.put Reg.CHK_LAST.FRAME r.frame).put Reg.CHK_LAST.TAG r.tag).put Reg.CHK_LAST.VERDICT r.verdict

/-- FRAME_VERDICT as posted: the event unless it is a PASS that is only counted, its capture record, and a follower's message (R410,
R416). -/
def Dev.postFrame (d : Dev) (r : FrameRec) : Dev :=
  let d := d.countVerdict r
  let d := if r.verdict = vPass ∧ !d.on Reg.CHK_CFG.REPORT_PASS then d
    else
      let d := d.postVerdict 0xD001 [r.tag, r.frame, r.verdict + 4 * b2n (d.saysMarked r), r.causes, r.firstLine.getD 0xFFFFFFFF, r.links]
        (r.verdict == vReject)
      d.capture 14 ([r.tag, r.verdict, 0, 0] ++ leBytes 4 r.frame ++ leBytes 4 r.causes)
  if d.follower then d.ringSend 0x05 d.masterNode false [r.tag + r.frame % 2 ^ 32 * 2 ^ 8 + r.verdict * 2 ^ 40] else d

/-- Post the verdict of a frame; in replay none is posted (R502). -/
def Dev.frameVerdict (d : Dev) (tag frame : Nat) : Dev :=
  let r := d.frame tag frame
  let d := d.modFrame tag frame fun r => { r with posted := true }
  if d.on Reg.REC_RPL_CFG.EN then d else d.postFrame r

/-- The partner has posted every verdict up to a frame of a job: they are posted here without an event (R365, R416). -/
def Dev.partnerPosted (d : Dev) (tag frame : Nat) : Dev :=
  if !(d.jobsInOrder.any fun j => j.tag == tag) then d
  else
    let before := (d.jobsInOrder.takeWhile fun j => j.tag != tag).filterMap fun j => j.endFrame.map fun e => (j, e)
    let mine := (d.jobsInOrder.filter fun j => j.tag == tag).map fun j => (j, frame)
    let d := (before ++ mine).foldl (fun d (j, last) =>
      ((List.range (last + 1)).drop (d.nextFrame j)).foldl (fun d f => d.modFrame j.tag f fun r => { r with posted := true }) d) d
    d.retireJobs

/-- FRAME_VERDICT: the next final verdict is posted. A standby posts none (R416); no verdict is posted in SAFE (R411). -/
def execFrameVerdict (dt : Nat) (s : State) : Host.Outcome State Fault Refusal :=
  s.act dt fun d =>
    if !d.mode.printing || !d.active then d
    else
      let d := match d.verdictDue with
        | some (j, f) => d.frameVerdict j.tag f
        | none => d
      d.retireJobs

/-! ## MARK_PULSE_END -/

/-- MARK_PULSE_END: the pulse ends by time (R418). -/
def execMarkPulseEnd (dt : Nat) (s : State) : Host.Outcome State Fault Refusal :=
  s.act dt fun d =>
    match d.chk.pulseEnd with
    | some t => if t ≤ d.tb then ({ d with chk := { d.chk with pulseEnd := none } }).driveMark false else d
    | none => d

/-! ## CRC_RUN -/

/-- Bits of word `i` of a CRC block that are not reserved (R422). -/
def crcBlockMask (i : Nat) : Nat :=
  let full := 0xFFFFFFFF
  [0x8000007F, full, 0xFF, full, full, full, full, full, full, full].getD i full

/-- A 64-bit field of a CRC block. -/
def crcWord2 (ws : List Nat) (i : Nat) : Nat := ws.getD i 0 + 2 ^ 32 * ws.getD (i + 1) 0

/-- The device address of a CRC block. -/
def crcDev (ws : List Nat) : Nat := ws.getD 1 0 + 2 ^ 32 * (ws.getD 2 0 % 256)

/-- The check of a CRC block that fails first: status and detail. -/
def Dev.crcBlockBad (d : Dev) (ws : List Nat) : Option (Nat × Nat) :=
  let w0 := ws.getD 0 0
  if !bitOf w0 31 then some (stNotOwned, 0)
  else match (List.range 10).find? fun i => decide (Nat.land (ws.getD i 0) (Nat.xor 0xFFFFFFFF (crcBlockMask i)) ≠ 0) with
    | some i => some (stReserved, i)
    | none =>
      if crcDev ws % 8 ≠ 0 ∨ !devRange (crcDev ws) 1 then some (stBadAddress, 0)
      else if ws.getD 3 0 = 0 ∨ !devRange (crcDev ws) (ws.getD 3 0) then some (stBadLength, 0)
      else if d.on (Reg.CHK_CRC_STAT_u.BUSY (w0 % 4 + 4)) then some (stRefused, d.mode.code)
      else none

/-- The running value at the end of a run: Init or INIT, the fold, the data (R420, R422). -/
def crcBlockRun (ws : List Nat) (data : List Nat) : Nat :=
  let w0 := ws.getD 0 0
  let c := crcCode (bitsOf w0 2 2)
  let start := if bitOf w0 4 then crcWord2 ws 6 % 2 ^ c.w else c.init
  let folded := if bitOf w0 5 then crcRun c start (leBytes 8 (crcWord2 ws 4)) else start
  crcRun c folded data

/-- Complete a block as R87 orders: words 10 to 13 where it returns them, words 14 and 15, then word 0 with OWN = 0. -/
def Dev.crcBlockBack (d : Dev) (blk w0 code detail : Nat) (results : List Nat) : Dev :=
  d.writeBack 3 0 65536 blk ((if results = [] then [] else [(40, results.flatMap (leBytes 8))]) ++ [(56, statusBytes code detail 0 d.stamp)])
    (w0 % 2 ^ 31) .block

/-- Start a run over the data of device memory. -/
def Dev.crcStart (d : Dev) (m : List Host.Cell) (t : Ticket) (blk : Nat) (ws : List Nat) : Dev :=
  let w0 := ws.getD 0 0
  let u := w0 % 4 + 4
  let c := crcCode (bitsOf w0 2 2)
  let running := crcBlockRun ws (natBytes (memGet m (crcDev ws) (ws.getD 3 0)))
  let run : CrcRun := {
    ticket := t, blk := blk, w0 := w0, unit := u, poly := bitsOf w0 2 2, result := crcFinal c running, running := running
    compare := bitOf w0 6, expect := crcWord2 ws 8 % 2 ^ c.w, poison := d.devPoisoned (crcDev ws) (ws.getD 3 0) }
  let d := (d.xferAsks [0, 0, 0, ws.getD 1 0, ws.getD 2 0]).devRead (crcDev ws) (ws.getD 3 0)
  ({ d with chk := { d.chk with runs := d.chk.runs ++ [run] } }).put (Reg.CHK_CRC_STAT_u.BUSY u) 1

/-- CRC_RUN: the block is read once and checked, and its run starts (R422, R423). -/
def execCrcRun (dt : Nat) (ring : Nat) (x : Desc) (block : Fetch) (s : State) : Host.Outcome State Fault Refusal :=
  s.actMem dt fun d m => (d.onTake (d.takeParam ring x (· == 0xD001) allServed true) fun d t =>
    let blk := x.w 6 + 2 ^ 32 * x.w 7
    if atFrame x ∨ blk % 64 ≠ 0 ∨ x.w 8 ≠ 0 ∨ x.w 9 ≠ 0 then d.complete t stBadParam 6
    else
      let d := d.reads 3 blk 64
      match fetched block 64 with
      | .error code => d.fetchFail t blk 64 (failedAt block) code
      | .ok bytes =>
        match struckAt block with
        | some o => d.fetchFail t blk 64 o stPoisoned
        | none =>
          let ws := (List.range 16).map fun i => leAt bytes (4 * i) 4
          let d := d.moved 3 64
          match d.crcBlockBad ws with
          | some (code, detail) =>
            (if code = stNotOwned then d else d.crcBlockBack blk (ws.getD 0 0) code detail []).complete t code detail
          | none => d.crcStart m t blk ws, m)

/-- The status of a run: CRC_MISMATCH with the unit, POISONED, or OK (R423). -/
def CrcRun.status (r : CrcRun) : Nat × Nat :=
  if r.compare && r.result != r.expect then (stCrc, r.unit) else if r.poison then (stPoisoned, 0) else (stOk, 0)

/-- CRC_RUN_DONE: registers, CRC_DONE, the block and the PARAM. -/
def execCrcRunDone (dt : Nat) (u : Nat) (s : State) : Host.Outcome State Fault Refusal :=
  s.act dt fun d =>
    match d.chk.runs.find? fun r => r.unit == u with
    | none => d
    | some r =>
      let (code, detail) := r.status
      let d := ({ d with chk := { d.chk with runs := d.chk.runs.filter fun q => q.unit != u } }).put (Reg.CHK_CRC_STAT_u.BUSY u) 0
      let d := d.unitRan u r.poly r.running r.result (if r.compare then some r.expect else none)
      if !d.mode.served then d
      else
        let d := d.post 0xD006 sevInfo [u, code, r.result % 2 ^ 32, r.result / 2 ^ 32]
        (d.crcBlockBack r.blk r.w0 code detail [r.result, r.running]).complete r.ticket code detail

end Sys2Proof.Machine
end

