-- ==== Sys2Proof/Machine/Motion.lean ====
section
/-! DEFINITION. Linen's arithmetic (R304 to R306, R311, R314, R316): the S-curve, one step of the profile generator, the governor cap,
gear and cam positions. Speeds are in 2^-32 line/s, accelerations in 2^-32 line/s^2, distances in 2^-32 lines, X in 2^-32 fine counts,
jerk in lines/s^3, times in ns. Where a value falls between two steps of its resolution, a free bit says which of them Linen keeps. -/
namespace Sys2Proof.Machine

/-- The two neighbours of a quotient: the lower, or with `up` the upper one; the quotient itself where it is exact (R306). -/
def near (num : Int) (den : Nat) (up : Bool) : Int := if num % (den : Int) = 0 then num / (den : Int) else num / (den : Int) + (b2n up : Nat)

/-! ## The S-curve (R306) -/

/-- A curve from speed v and acceleration a to rest: the acceleration it starts from, its peak deceleration, the acceleration steps of
phase 1 and of phase 2 (its time in terms of J), and its distance. -/
structure Curve where
  a0 : Int
  d : Nat
  p : Nat
  q : Nat
  dist : Nat
  deriving DecidableEq, Repr

/-- The curve at deceleration `d` and jerk `j`, which is not 0. -/
def curve (v : Nat) (a : Int) (d j : Nat) : Curve :=
  let u := j * 2 ^ 32
  let a0 := max a (-(d : Int))
  let v1 : Int := (v : Int) + (a0 * a0 - (d * d : Nat)) / (2 * u : Nat)
  let v2 := d * d / (2 * u)
  let low := decide (v1 < (v2 : Int))
  let dp := if low then isqrt (u * v + (a0 * a0).toNat / 2) else d
  let p := (a0 + (dp : Int)).toNat
  let q := if low then 0 else u * (v1.toNat - v2) / max 1 d
  let d1 : Int := (6 * u * v * p : Nat) + 3 * a0 * (p * p : Nat) - (p * p * p : Nat)
  let d2 := if low then 0 else (v1.toNat * v1.toNat - v2 * v2) / (2 * max 1 d)
  ⟨a0, dp, p, q, (((d1 + (dp * dp * dp : Nat)) / (6 * j * j * 2 ^ 64 : Nat)).toNat + d2)⟩

/-- dstop(v, a, D, J). -/
def dstop (v : Nat) (a : Int) (d j : Nat) : Nat :=
  if v = 0 then 0 else if j = 0 then v * v / (2 * max 1 d) else (curve v a d j).dist

/-- Halve the interval in which dstop passes `s` until it is as narrow as Linen's precision. -/
def drBracket (v : Nat) (a : Int) (j s : Nat) : Nat → Nat → Nat → Nat × Nat
  | 0, lo, hi => (lo, hi)
  | fuel + 1, lo, hi =>
    if (hi - lo) * 65536 ≤ hi then (lo, hi)
    else
      let mid := (lo + hi) / 2
      if s < dstop v a mid j then drBracket v a j s fuel mid hi else drBracket v a j s fuel lo mid

/-- Dr: the deceleration, at most A_LIM, with dstop = s, to a relative precision of 2^-16; which value in that interval is a free value. -/
def drOf (v : Nat) (a : Int) (j s alim free : Nat) : Nat :=
  if s ≤ dstop v a alim j then alim
  else
    let (lo, hi) := drBracket v a j s 96 0 alim
    lo + 1 + free % max 1 (hi - lo)

/-- The acceleration of the curve at deceleration `d` one period on (R305). -/
def accelNext (v : Nat) (a : Int) (d j tns : Nat) : Int :=
  if j = 0 then -(d : Int)
  else
    let c := curve v a d j
    let jt := j * 2 ^ 32 * tns / 1000000000
    if jt < c.p then c.a0 - (jt : Int)
    else if jt < c.p + c.q then -(c.d : Int)
    else if jt < c.p + c.q + c.d then (jt : Int) - (c.p + c.q + c.d : Nat)
    else 0

/-! ## One step of the master (R305) -/

/-- The commanded state. -/
structure Motion where
  x : Int
  v : Nat
  a : Int
  target : Option Int
  final : Bool
  hold : Option Nat
  deriving DecidableEq, Repr

/-- What a period works with: the goal without a held speed, DECEL and J of the ramp, Dd and Js, ACCEL, A_LIM, T. -/
structure Plan where
  goal : Nat
  dm : Nat
  j : Nat
  dd : Nat
  js : Nat
  accel : Nat
  alim : Nat
  tns : Nat
  deriving DecidableEq, Repr

/-- A distance that a square of an acceleration takes at a jerk: a^2 / (2 J), in speed; 0 without a limit. -/
def easing (a : Int) (j : Nat) : Nat := if j = 0 then 0 else (a * a).toNat / (2 * j * 2 ^ 32)

/-- The goal of a period: the lowest limit, and the speed held by R308. -/
def Plan.goalOf (p : Plan) (m : Motion) : Nat := min p.goal (m.hold.getD p.goal)

/-- Lines left, 2^-32. -/
def Motion.left (m : Motion) : Option Nat := m.target.map fun t => ((t - m.x) / 256).toNat

/-- FINAL is entered at the braking point, whatever the goal. -/
def Motion.enters (m : Motion) (p : Plan) : Bool :=
  m.final || (match m.left with
    | some s => decide (s ≤ dstop m.v m.a p.dm p.j + m.v * p.tns / 1000000000)
    | none => false)

/-- A lower limit is to be obeyed. -/
def Motion.lower (m : Motion) (p : Plan) : Bool := decide (p.goalOf m + easing m.a p.js < m.v)

/-- The acceleration wanted and the jerk that bounds the way to it. -/
def Motion.want (m : Motion) (p : Plan) (free : Nat) : Int × Nat :=
  let lower := m.lower p
  if m.enters p then
    let dr := drOf m.v m.a p.j (m.left.getD 0) p.alim free
    let w := accelNext m.v m.a dr p.j p.tns
    if lower && decide (-(p.dd : Int) < w) then (-(p.dd : Int), p.js) else (w, p.j)
  else if m.v + easing m.a p.j < p.goalOf m then ((p.accel : Int), p.j)
  else if lower then (-(p.dd : Int), p.js)
  else (0, p.j)

/-- Move an acceleration by at most J x T; any step without a limit. -/
def jerkTo (a want : Int) (j tns : Nat) : Int :=
  if j = 0 then want else let k : Int := (j * 2 ^ 32 * tns / 1000000000 : Nat); min (max want (a - k)) (a + k)

/-- One step. The second result says that the move has landed on its target. -/
def Motion.step (m : Motion) (p : Plan) (free : Nat) : Motion × Bool :=
  let final := m.enters p
  let hold := if final then none else m.hold
  let lower := m.lower p
  let (want, jl) := m.want p (free / 4)
  let a' := jerkTo m.a want jl p.tns
  let v' := (max 0 ((m.v : Int) + near ((m.a + a') * (p.tns : Int)) 2000000000 (bitOf free 0))).toNat
  let goal := p.goalOf m
  let v' := if !final && ((decide (m.v ≤ goal) && decide (goal < v')) || (decide (goal ≤ m.v) && decide (v' < goal))) then goal else v'
  let x' := m.x + near (256 * ((m.v : Int) + (v' : Int)) * (p.tns : Int)) 2000000000 (bitOf free 1)
  match final, m.target with
  | true, some t =>
    if t - (256 * v' * p.tns / 1000000000 : Nat) ≤ x' ∨ (v' = 0 ∧ !lower) then (⟨t, 0, 0, none, false, none⟩, true)
    else if v' = 0 then (⟨x', 0, 0, some t, false, none⟩, false)
    else (⟨x', v', a', some t, true, hold⟩, false)
  | _, t => (⟨x', v', a', t, false, hold⟩, false)

/-! ## The governor cap (R311) -/

/-- cap in 2^-32 line/s, of A_G and J_G in lines/s^2 and lines/s^3, D in lines, T_L in ns. -/
def governorCap (ag jg dl tl : Nat) : Nat :=
  let s := ag * tl * 2 ^ 40 / 1000000000 + (if jg = 0 then 0 else ag * ag * 2 ^ 40 / (2 * jg))
  (isqrt (s * s + 2 * ag * dl * 2 ^ 80) - s) / 2 ^ 8

/-! ## Gear and cam (R314, R316) -/

/-- floor(X x GN / GD), 2^-16 drive counts. -/
def gearPos (x gn : Int) (gd : Nat) : Int := x * gn / (gd * 2 ^ 32 : Nat)

/-- A velocity in 1/16 count/s, of v and a slope num / den in 2^-16 count per fine count. -/
def axisVel (v : Nat) (num : Int) (den : Nat) (up : Bool) : Int := near ((v * 256 : Nat) * num) (den * 2 ^ 44) up

def CamTable.y (c : CamTable) (i : Int) : Int :=
  let n : Int := c.ys.length
  let at_ (k : Int) : Int := c.ys.getD k.toNat 0
  let rise := at_ (n - 1) - at_ 0
  if i < 0 then (if c.cyclic then at_ (n - 2) - rise else at_ 0)
  else if n ≤ i then (if c.cyclic then at_ 1 + rise else at_ (n - 1))
  else at_ i

/-- The master distance of a whole table, 2^-32 fine counts. -/
def CamTable.span (c : CamTable) : Int := ((c.ys.length - 1) * c.iv * 2 ^ 32 : Nat)

/-- y - y_0 at master distance u, as a numerator over 2 x den^3, and dy/du as a numerator over 2 x den^2 x IV, with den = IV x 2^32; u
lies in the table. -/
def CamTable.at_ (c : CamTable) (u : Int) : Int × Int :=
  let den : Int := (c.iv * 2 ^ 32 : Nat)
  let i := min (u / den) ((c.ys.length : Int) - 2)
  let f := u - i * den
  let y0 := c.y i
  let dy := c.y (i + 1) - y0
  let base := 2 * den * den * den * (y0 - c.y 0)
  if !c.cubic then (base + 2 * dy * f * den * den, 2 * dy * den * den)
  else
    let m0 := c.y (i + 1) - c.y (i - 1)
    let m1 := c.y (i + 2) - c.y i
    let k2 := 6 * dy - 2 * m0 - m1
    let k3 := -4 * dy + m0 + m1
    (base + m0 * f * den * den + k2 * f * f * den + k3 * f * f * f, m0 * den * den + 2 * k2 * f * den + 3 * k3 * f * f)

/-- A cam's distance from the start of its run, wraps apart (R316). -/
def CamTable.fold (c : CamTable) (u : Int) : Int × Int := if c.cyclic then (u / c.span, u % c.span) else (0, u)

/-- The position of a cam axis, rounded to the nearest 2^-16 count with ties up; none at a distance that a one-shot table does not
have. -/
def CamTable.pos (c : CamTable) (u ps : Int) : Option Int :=
  let (w, r) := c.fold u
  if r < 0 ∨ c.span < r then none
  else
    let den : Int := (c.iv * 2 ^ 32 : Nat)
    let d3 := 2 * den * den * den
    some (ps + w * (c.y ((c.ys.length : Int) - 1) - c.y 0) + (2 * (c.at_ r).1 + d3) / (2 * d3))

end Sys2Proof.Machine
end

