-- ==== Sys2Proof/Machine/Linen.lean ====
section
/-! DEFINITION. Linen (R301 to R326): MOVE, STOP, SET_SPEED, the servo period, the governor, gear and cam axes, set-point frames and
drive answers. -/
namespace Sys2Proof.Machine

/-! ## Limits (R302, R304) -/

/-- T in ns. -/
def Dev.servoT (d : Dev) : Nat := 62500 * 2 ^ d.get Reg.LINEN_CFG.PERIOD

/-- A_LIM in lines/s^2 at a job's pitch of DEN / NUM inch; 1/1200 inch with none. -/
def aLim (j : Option Job) : Nat :=
  match j with
  | some j => 500000 * j.lpiNum / (254 * max 1 j.lpiDen)
  | none => 2362204

/-- A_G as used: at most A_LIM. -/
def Dev.govDecel (d : Dev) : Nat := min (d.get Reg.LINEN_GOV_DEC.A_G) (aLim d.live?)

/-- X as a 48-bit position. -/
def LinenSt.x48 (l : LinenSt) : Nat := fieldOf 48 (l.x / (2 ^ 32 : Nat))

/-- LINEN_X and LINEN_V follow the commanded state. -/
def Dev.showLinen (d : Dev) : Dev :=
  ((d.put2 Reg.LINEN_X_LO.X_LO Reg.LINEN_X_HI.X_HI d.linen.x48)).put Reg.LINEN_V.V (min 0xFFFFFFFF (d.linen.v / 2 ^ 24))

def Dev.axis (d : Dev) (n : Nat) : Axis := d.linen.axes.getD n ⟨0, none, 0, 0, false⟩

def Dev.modAxis (d : Dev) (n : Nat) (f : Axis → Axis) : Dev := { d with linen := { d.linen with axes := modAt d.linen.axes n f } }

/-- Enabled axes. -/
def Dev.axesOn (d : Dev) : List Nat := (List.range 12).filter fun n => d.on (Reg.LINEN_AX_CFG_n.EN n)

def Dev.gn (d : Dev) (n : Nat) : Int := signedOf 32 (d.get (Reg.LINEN_AX_GN_n.GN n))
def Dev.gd (d : Dev) (n : Nat) : Nat := d.get (Reg.LINEN_AX_GD_n.GD n)

/-! ## MOVE (R102, R103, R304, R307) -/

/-- The staged job that goes live: the one whose JOB_STAGE completed first (R102). -/
def Dev.nextStaged (d : Dev) : Option Job :=
  (d.jobs.filter fun j => j.phase == .staged).foldl
    (fun b j => match b with | none => some j | some k => if j.stageOrder < k.stageOrder then some j else some k) none

/-- The job that a MOVE puts live: none where one is live. -/
def Dev.moveJob (d : Dev) : Option Job := if d.live?.isSome then none else d.nextStaged

/-- The distance of the target ahead of X, which is PW at acceptance. -/
def Dev.moveDist (d : Dev) (x : Desc) : Int :=
  let t := x.w 4 + 2 ^ 32 * x.f 5 0 16
  pwDiff (if bitOf (x.w 5) 16 then pwAdd d.pos.pw t else t) d.pos.pw

/-- The check of a MOVE that fails first: status and detail. -/
def Dev.moveCheck (d : Dev) (x : Desc) : Option (Nat × Nat) :=
  let alim := aLim (match d.moveJob with | some j => some j | none => d.live?)
  if !d.active then some (stRefused, d.mode.code)
  else if d.webMoves then some (stTargetLocked, 0)
  else if d.mode = .run ∧ !d.webAtRest then some (stRefused, d.mode.code)
  else if d.live?.isNone ∧ d.jobs = [] then some (stNoJob, 0)
  else if d.live?.isNone ∧ d.nextStaged.isNone then some (stNotStaged, 0)
  else if d.on Reg.POS_STATUS.REG_LOST then some (stRegLost, 0)
  else match d.stopInput with
    | some n => some (stExtStop, n)
    | none =>
      if d.moveDist x ≤ 0 then some (stBadParam, 4)
      else if x.w 6 = 0 ∨ d.get Reg.LINEN_VMAX.VMAX * 256 < x.w 6 then some (stBadParam, 6)
      else if x.w 7 = 0 ∨ alim * 16 < x.w 7 then some (stBadParam, 7)
      else if x.w 8 = 0 ∨ alim * 16 < x.w 8 then some (stBadParam, 8)
      else none

/-- X becomes PW; every GEAR axis keeps its position. -/
def Dev.syncX (d : Dev) : Dev :=
  let x := (d.linen.x / (2 ^ 32 : Nat) + pwDiff d.pos.pw d.linen.x48) * (2 ^ 32 : Nat)
  let old := d.linen.x
  let d := { d with linen := { d.linen with x := x } }
  (List.range 12).foldl (fun d n => d.modAxis n fun a =>
    if a.cam.isSome then a else { a with ofs := a.ofs + gearPos old (d.gn n) (d.gd n) - gearPos x (d.gn n) (d.gd n) }) d

/-- The Linen state as it goes to the partner (R361). -/
def Dev.linenImage (d : Dev) : LinenImage :=
  let l := d.linen
  ⟨l.cycle, l.x, l.v, l.a, l.target, l.final, l.hold, [l.prof.v, l.prof.accel, l.prof.decel, l.prof.jerk],
    l.stop.map fun w => (w.decel, w.quick, w.held), l.axes.map fun a => (a.ofs, a.cam)⟩

def Dev.mirrorLinen (d : Dev) : Dev := d.mirror 9 0 0 (.linen d.linenImage)

/-- A unit that is not ACTIVE takes the active's Linen state after the period that it has computed last. -/
def Dev.takeLinen (d : Dev) (m : LinenImage) : Dev :=
  let l := d.linen
  let st := m.stop.map fun (dec, q, held) => (⟨dec, q, held, (l.stop.map (·.tickets)).getD []⟩ : WebStop)
  let p := m.prof
  let axes := (List.range l.axes.length).foldl (fun xs n => modAt xs n fun a => match m.axes[n]? with
    | some (ofs, cam) => { a with ofs := ofs, cam := cam }
    | none => a) l.axes
  let l := { l with x := m.x, v := m.v, a := m.a, target := m.target, final := m.final, hold := m.hold, stop := st, axes := axes, mirrored := none }
  ({ d with linen := { l with prof := ⟨p.getD 0 0, p.getD 1 0, p.getD 2 0, p.getD 3 0⟩ } }).showLinen

/-- The active's Linen state is taken at the period that it names (R361). -/
def Dev.mirrorDue (d : Dev) : Dev :=
  match d.linen.mirrored with
  | some m => if !d.active && m.period == d.linen.cycle then d.takeLinen m else d
  | none => d

/-- A MOVE is accepted: the profile starts, a staged job goes live, the device is in RUN. -/
def Dev.startMove (d : Dev) (x : Desc) : Dev :=
  let dist := d.moveDist x
  let job := d.moveJob
  let d := d.syncX
  let l := d.linen
  let d := { d with linen := { l with
    v := 0, a := 0, target := some (l.x + dist * (2 ^ 32 : Nat)), prof := ⟨x.w 6, x.w 7, x.w 8, x.w 9⟩
    final := false, hold := none, finN := 0 } }
  let d := (d.put Reg.LINEN_STAT.DECEL_HELD 0).showLinen
  let d := match job with
    | some j => (d.goLive j.tag j.origin false).positionReached
    | none => d
  d.enterRun.mirrorLinen

/-- MOVE. -/
def execMove (dt : Nat) (ring : Nat) (x : Desc) (s : State) : Host.Outcome State Fault Refusal :=
  s.act dt fun d =>
    d.onTake (d.take ring x 0x08) fun d t =>
      match d.moveCheck x with
      | some (code, detail) => d.complete t code detail
      | none => (d.complete t stOk 0).startMove x

/-! ## STOP and SET_SPEED (R307, R309) -/

/-- STOP: it completes once the web is at rest. -/
def execStop (dt : Nat) (ring : Nat) (x : Desc) (s : State) : Host.Outcome State Fault Refusal :=
  s.act dt fun d =>
    d.onTake (d.take ring x 0x09) fun d t =>
      if !d.active then d.complete t stRefused d.mode.code
      else if aLim d.live? * 16 < x.w 4 then d.complete t stBadParam 4
      else
        let dec := if x.w 4 = 0 then d.linen.prof.decel else x.w 4
        let w : WebStop := match d.linen.stop with
          | some w => { w with decel := if w.quick then w.decel else dec, tickets := w.tickets ++ [t] }
          | none => ⟨dec, false, false, [t]⟩
        ({ d with linen := { d.linen with stop := some w } }).mirrorLinen.restCheck

/-- SET_SPEED waits for the next compute instant. -/
def execSetSpeed (dt : Nat) (ring : Nat) (x : Desc) (s : State) : Host.Outcome State Fault Refusal :=
  s.act dt fun d =>
    d.onTake (d.take ring x 0x0A) fun d t =>
      let alim := aLim d.live?
      if !d.active || d.linen.target.isNone || d.linen.stop.isSome then d.complete t stRefused d.mode.code
      else if d.get Reg.LINEN_VMAX.VMAX * 256 < x.w 4 then d.complete t stBadParam 4
      else if alim * 16 < x.w 5 then d.complete t stBadParam 5
      else if alim * 16 < x.w 6 then d.complete t stBadParam 6
      else { d with linen := { d.linen with setters := d.linen.setters ++ [⟨t, x.w 4, x.w 5, x.w 6, false, false⟩] } }

/-- SET_SPEED commands whose values are in force complete. -/
def Dev.finishSetters (d : Dev) : Dev :=
  let done := d.linen.setters.filter (·.applied)
  let d := { d with linen := { d.linen with setters := d.linen.setters.filter fun s => !s.applied } }
  done.foldl (fun d s => d.completeF s.ticket stOk 0 (b2n s.held)) d

/-! ## The servo period (R305, R308, R310 to R313, R319) -/

/-- DECEL_HELD, with both decelerations in 1/16 line/s^2. -/
def Dev.decelHeld (d : Dev) (asked dr : Nat) : Dev :=
  (d.put Reg.LINEN_STAT.DECEL_HELD 1).post 0x5003 sevInfo [asked, dr / 2 ^ 28]

/-- The commanded state as the profile generator takes it. -/
def LinenSt.motion (l : LinenSt) : Motion := ⟨l.x, l.v, l.a, l.target, l.final, l.hold⟩

def Dev.setMotion (d : Dev) (m : Motion) : Dev :=
  { d with linen := { d.linen with x := m.x, v := m.v, a := m.a, target := m.target, final := m.final, hold := m.hold } }

/-- Dr at this instant. -/
def Dev.drNow (d : Dev) (j : Nat) : Nat × Dev :=
  let m := d.linen.motion
  let (f, d) := d.draw 64
  (drOf m.v m.a j (m.left.getD 0) (aLim d.live? * 2 ^ 32) f, d)

/-- The values of one SET_SPEED apply; a new DECEL during a FINAL ramp is R308. -/
def Dev.applySetter (d : Dev) (s : Setter) : Dev :=
  let p := d.linen.prof
  let p := { p with v := if s.v = 0 then p.v else s.v, accel := if s.accel = 0 then p.accel else s.accel }
  let plain (d : Dev) (dec : Nat) : Dev := { d with linen := { d.linen with prof := { p with decel := dec } } }
  let done (d : Dev) (held : Bool) : Dev := { d with linen := { d.linen with setters := d.linen.setters.map fun q =>
    if q.ticket = s.ticket then { q with applied := true, held := held } else q } }
  if s.decel = 0 then done (plain d p.decel) false
  else if !d.linen.final then done (plain d s.decel) false
  else
    let (dr, d) := d.drNow p.jerk
    if dr ≤ s.decel * 2 ^ 28 then
      let d := plain d s.decel
      done { d with linen := { d.linen with final := false, hold := some d.linen.v } } false
    else done ((plain d p.decel).decelHeld s.decel dr) true

/-- The speed limits of R310 with their CAP_SRC: V or VMAX, governor, head heat, ride-through; 2^-32 line/s. -/
def Dev.limits (d : Dev) (gov : Option Nat) : List (Nat × Nat) :=
  let v := min (d.linen.prof.v * 2 ^ 24) (d.get Reg.LINEN_VMAX.VMAX * 2 ^ 32)
  let heat := ((d.linksOn.map fun n => d.get (Reg.LINK_CAP_n.CAP n)).filter fun c => decide (c ≠ 0xFFFFFFFF)).map fun c => (2, c * 2 ^ 24)
  [(0, v)] ++ (gov.map fun g => (1, g)).toList ++ heat ++ (d.linen.rideCap.map fun r => (3, r.1)).toList

/-- The limit that binds: the lowest. -/
def lowestLimit (l : List (Nat × Nat)) : Nat × Nat := l.foldl (fun b x => if x.2 < b.2 then x else b) (l.headD (0, 0))

/-- The row-offset spread of a link, in lines (R63, R273). -/
def Dev.rowSpread (d : Dev) (n : Nat) : Nat :=
  let ofs := (List.range (d.rowsOf n)).map fun r => signedOf 32 (d.get (Reg.POS_ROW_OFS_n.OFS (4 * n + r)))
  cdiv (ofs.foldl max (ofs.headD 0) - ofs.foldl min (ofs.headD 0)).toNat 256

/-- Lines that Gauze has finished beyond the print line of the live job, counted across a splice (R273). -/
def Dev.linesAhead (d : Dev) : Nat :=
  match d.live?, d.link.newest with
  | some j, some (tag, line) =>
    let lp : Int := pwDiff d.pos.pw j.j0 / 256
    let far : Option Int := if tag = j.tag then some line else match d.job? tag with
      | some k => if k.spliceAt.isSome then some ((pwDiff k.base j.j0) / 256 + line) else none
      | none => none
    match far with
    | some l => (l - lp).toNat
    | none => 0
  | _, _ => 0

/-- The horizon of a link: at most DEPTH less its row-offset spread. And the data horizon (R273). -/
def Dev.horizonOf (d : Dev) (n : Nat) : Nat := min d.linesAhead (d.get Reg.LINK_FIFO.DEPTH - d.rowSpread n)
def Dev.horizon (d : Dev) : Nat := (d.linksOn.map d.horizonOf).foldl min d.linesAhead

/-- The horizon that a follower member reports, 0 where its report is older than 2 servo periods; FOLLOWER_STALE once a silence (R312,
R356). -/
def Dev.memberHorizon (d : Dev) (m : Nat) : Option Nat × Dev :=
  let ns := [2 * m, 2 * m + 1].filter fun n => ((d.net.nodes.getD n ⟨none, 0, false, false, false, 0, 0, false, 0, 0, false⟩).beatAt).isSome
  let node (n : Nat) : NodeSt := d.net.nodes.getD n ⟨none, 0, false, false, false, 0, 0, false, 0, 0, false⟩
  match ns.filter fun n => (node n).active with
  | [] => (if ns = [] then none else some 0, d)
  | n :: t =>
    let n := t.foldl (fun b k => if d.since ((node k).beatAt.getD 0) < d.since ((node b).beatAt.getD 0) then k else b) n
    let age := d.since ((node n).beatAt.getD 0)
    if age ≤ 2 * d.servoT then (some (node n).horizon, d)
    else if (node n).stale then (some 0, d)
    else
      let nodes := modAt d.net.nodes n fun x => { x with stale := true }
      (some 0, ({ d with net := { d.net with nodes := nodes } }).post 0x700C sevWarn [m, age / 1000])

/-- H as Linen reads it: on a cascade master, the lowest with its followers'. -/
def Dev.readHorizon (d : Dev) : Nat × Dev :=
  let own := d.horizon
  if !d.on Reg.RING_CFG.EN then (own, d)
  else [1, 2, 3, 4, 5, 6, 7].foldl (fun (h, d) m =>
    let (r, d) := Dev.memberHorizon d m
    (match r with | some x => min h x | none => h, d)) (own, d)

/-- What the ride-through action does at a compute instant (R463): a STOP, the start of the cap at the commanded speed, its fall while
the bus is low, its removal at the end. -/
def Dev.rideStep (d : Dev) : Dev :=
  let due := d.sense.rideDue
  let act := d.get Reg.SENSE_MAINS_STAT.ACTION
  let d := { d with sense := { d.sense with rideDue := 0 } }
  if act = 0 then { d with linen := { d.linen with rideCap := none } }
  else if due = 2 then d.stopWeb
  else if due = 1 ∧ d.linen.rideCap.isNone then { d with linen := { d.linen with rideCap := some (d.linen.v, d.linen.v) } }
  else match d.linen.rideCap with
    | none => d
    | some (cap, start) =>
      let mean := signedOf 24 (d.get (Reg.SENSE_MOD_VAL_n.VAL 3))
      let fine := bitOf (d.get Reg.SENSE_MOD_CFG.EN) 3
        && decide (((d.get Reg.SENSE_MOD_DC.DC_TGT_PCT * d.get (Reg.SENSE_MOD_NOM_n.NOM 3) : Nat) : Int) ≤ 100 * mean)
      if fine || act ≠ 1 then d
      else
        let rt := leAt d.sense.policy 8 4
        let fall := min rt (d.get Reg.LINEN_GOV_DEC.A_G) * 2 ^ 32 * d.servoT / 1000000000
        let floor := start * d.sense.policy.getD 12 0 / 100
        { d with linen := { d.linen with rideCap := some (max floor (cap - fall), start) } }

/-- The plan of this period, the CAP_SRC and the governor cap. -/
def Dev.servoPlan (d : Dev) (h : Nat) : Plan × Nat × Option Nat :=
  let alim := aLim d.live?
  let ag := d.govDecel
  let jg := d.get Reg.LINEN_GOV_JERK.J_G
  let tl := d.servoT + d.get Reg.LINEN_CFG.SP_LEAD * 1000 + 10000
  let gov := d.live?.map fun _ => governorCap ag jg (h - d.get Reg.LINEN_GOV.H_MIN) tl
  let (src, lim) := lowestLimit (d.limits gov)
  let (dm, j) := match d.linen.stop with
    | some w => (min (w.decel * 2 ^ 28) (alim * 2 ^ 32), if w.quick then jg else d.linen.prof.jerk)
    | none => (min (d.linen.prof.decel * 2 ^ 28) (alim * 2 ^ 32), d.linen.prof.jerk)
  let (dd, js) := if src = 1 ∧ d.linen.stop.isNone then (ag * 2 ^ 32, jg) else (dm, j)
  (⟨if d.linen.stop.isSome then 0 else lim, dm, j, dd, js, min (d.linen.prof.accel * 2 ^ 28) (alim * 2 ^ 32), alim * 2 ^ 32, d.servoT⟩, src, gov)

/-- A stop that cannot rest before XT at its deceleration stops on XT (R309). -/
def Dev.stopHeld (d : Dev) (p : Plan) : Dev :=
  let m := d.linen.motion
  match d.linen.stop, m.left with
  | some w, some s =>
    if w.held || decide (dstop m.v m.a p.dm p.j ≤ s) then d
    else
      let (dr, d) := d.drNow p.j
      let d := { d with linen := { d.linen with stop := some { w with held := true } } }
      d.decelHeld (p.dm / 2 ^ 28) dr
  | _, _ => d

/-- R_m in 1/256 line/s (R313). -/
def Dev.renderRate (d : Dev) : Option Nat :=
  match d.live? with
  | none => none
  | some j =>
    let n := j.repeat_
    if d.linen.finN < n then none
    else match d.linen.finished, d.linen.finished[n]? with
      | a :: _, some b => let t := (a + 2 ^ 64 - b) % 2 ^ 64; if t = 0 then none else some (n * 256000000000 / t)
      | _, _ => none

/-- A render rate in the 32 bits of LINEN_EQ: the spec states none above them. -/
def Dev.rateWord (d : Dev) (r : Nat) : Nat × Dev := if r < 2 ^ 32 then (r, d) else d.draw 32

/-- GOVERNED (R313). -/
def Dev.trackGovernor (d : Dev) (gov : Option Nat) (h : Nat) : Dev :=
  let cap := match gov with | some g => min 0xFFFFFFFF (g / 2 ^ 24) | none => 0xFFFFFFFF
  let d := d.put Reg.LINEN_CAP.CAP cap
  let below := match gov with | some g => decide (g < d.linen.prof.v * 2 ^ 24) | none => false
  let l := d.linen
  let d := { d with linen := { l with
    below := if below then some (l.below.getD d.tb) else none, above := if below then none else some (l.above.getD d.tb) } }
  let lasted (t : Option Nat) : Bool := t.any fun t => decide (100000000 ≤ d.since t)
  let rm := d.renderRate
  if !d.on Reg.LINEN_STAT.GOVERNED then
    match rm with
    | some r =>
      if lasted d.linen.below then
        let (w, d) := d.rateWord r
        ((({ d with linen := { d.linen with rmPosted := r } }).put Reg.LINEN_STAT.GOVERNED 1).put Reg.LINEN_EQ.EQ w).post 0x5002 sevInfo [w, cap, h, 0]
      else d
    | none => d
  else if lasted d.linen.above = true then
    let (w, d) := d.rateWord (rm.getD d.linen.rmPosted)
    ((d.put Reg.LINEN_STAT.GOVERNED 0).put Reg.LINEN_EQ.EQ 0).post 0x5002 sevInfo [w, cap, h, 2]
  else match rm with
    | none => d
    | some r =>
      let (w, d) := d.rateWord r
      let d := d.put Reg.LINEN_EQ.EQ w
      let old := d.linen.rmPosted
      if old < 100 * (max r old - min r old) then
        ({ d with linen := { d.linen with rmPosted := r } }).post 0x5002 sevInfo [w, cap, h, 1]
      else d

/-- PHASE of LINEN_STAT. -/
def Dev.phase (d : Dev) : Nat :=
  if d.linen.stop.isSome then 5
  else if d.linen.target.isNone then 0
  else if d.linen.final then 4
  else if 0 < d.linen.a then 1
  else if d.linen.a < 0 then 3
  else 2

/-! ## Axes (R314, R316, R317) -/

/-- One axis at a commanded state: position, velocity, the axis, whether its one-shot cam has ended. `open_` is what a cam gives at a
distance that its table does not have. -/
def Dev.axisSet (d : Dev) (n : Nat) (ax : Axis) (m : Motion) (up : Bool) (open_ : Int) : Int × Int × Axis × Bool :=
  let gear (ax : Axis) (ended : Bool) : Int × Int × Axis × Bool :=
    (ax.ofs + gearPos m.x (d.gn n) (d.gd n), axisVel m.v (d.gn n) (max 1 (d.gd n)) up, { ax with cam := none }, ended)
  match ax.cam with
  | none => gear ax false
  | some (t, xs, ps) =>
    match kvGet d.linen.cams t with
    | none => gear ax false
    | some c =>
      let u := m.x - xs
      if !c.cyclic && decide (c.span ≤ u) then
        gear { ax with ofs := (c.pos c.span ps).getD open_ - gearPos (xs + c.span) (d.gn n) (d.gd n) } true
      else
        let den := c.iv * 2 ^ 32
        ((c.pos u ps).getD open_, axisVel m.v (c.at_ (c.fold u).2).2 (2 * den * den * c.iv) up, ax, false)

/-- An axis enters a cam at a commanded state, or with table 16 returns to GEAR; its position is continuous. -/
def Dev.camEnter (d : Dev) (n table : Nat) (m : Motion) : Dev :=
  let (pos, _, ax, _) := d.axisSet n (d.axis n) m false 0
  let d := if table < 16 then d.modAxis n fun _ => { ax with cam := some (table, m.x, pos) }
    else d.modAxis n fun _ => { ax with cam := none, ofs := pos - gearPos m.x (d.gn n) (d.gd n) }
  d.post 0x5004 sevInfo [n, min 16 table, fieldOf 32 (m.x / (2 ^ 32 : Nat))]

/-- Cam start slots whose predicted time lies at or before an APPLY act, in slot order (R66). -/
def Dev.camStarts (d : Dev) (apply : Nat) (m : Motion) : Dev :=
  let due := d.pos.cal.filter fun (_, s) => s.mode == .servo && (d.passed s.pos || (match d.reach s.pos with
    | some t => decide (d.readTime32 t ≤ apply * 32)
    | none => false))
  due.foldl (fun d (k, s) => match s.act with
    | .camStart n t => (d.freeSlot k).camEnter n t m
    | _ => d) d

/-- The cam tables in use: named by a slot that waits, or running (R315). -/
def Dev.camInUse (d : Dev) (t : Nat) : Bool :=
  d.linen.axes.any (fun a => match a.cam with | some (k, _, _) => k == t | none => false)
    || d.pos.cal.any fun (_, s) => match s.act with | .camStart _ k => k == t | _ => false

/-- Set A and set B of one axis: its entry in the frame, and its registers (R318). -/
def Dev.axisEntry (d : Dev) (n : Nat) (ma mb : Motion) (free : Nat) : List Nat × Dev :=
  let open_ := signedOf 64 (free / 4)
  let table := match (d.axis n).cam with | some (t, _, _) => t | none => 0
  let (pa, va, ax, ended) := d.axisSet n (d.axis n) ma (bitOf free 0) open_
  let (pb, vb, _, _) := d.axisSet n ax mb (bitOf free 1) open_
  let cam := ax.cam.isSome
  let d := d.modAxis n fun _ => { ax with last := pa }
  let d := d.put2 (Reg.LINEN_AX_POS_LO_n.POS_LO n) (Reg.LINEN_AX_POS_HI_n.POS_HI n) (fieldOf 64 pa)
  let d := (d.put (Reg.LINEN_AX_STAT_n.CAM n) (b2n cam)).put (Reg.LINEN_AX_STAT_n.TABLE n) (match ax.cam with | some (t, _, _) => t | none => 0)
  let d := if ended then d.post 0x5005 sevInfo [n, table, fieldOf 32 (ma.x / (2 ^ 32 : Nat))] else d
  ([n, 1 + 2 * b2n cam, 0, 0] ++ leBytes 8 (fieldOf 64 pa) ++ leBytes 4 (fieldOf 32 va) ++ leBytes 8 (fieldOf 64 pb) ++ leBytes 4 (fieldOf 32 vb)
    ++ [0, 0, 0, 0], d)

/-- The set-point frame as computed: EPOCH, TAKEOVER and the CRC are put in as it leaves (R318). -/
def Dev.buildFrame (d : Dev) (k : Nat) (ma mb : Motion) : Dev :=
  let axes := d.axesOn
  let (entries, d) := axes.foldl (fun (bs, d) n =>
    let (f, d) := Dev.draw d 80
    let (e, d) := d.axisEntry n ma mb f
    (bs ++ e, d)) (([] : List Nat), d)
  let flags := b2n d.linen.stop.isSome + 2 * b2n (match d.linen.stop with | some w => w.quick | none => false)
  let t := d.servoT
  let head := [1, flags, 0, axes.length] ++ leBytes 4 k ++ leBytes 4 (k * t) ++ leBytes 4 t ++ leBytes 8 (fieldOf 48 (ma.x / (2 ^ 32 : Nat)))
  { d with linen := { d.linen with frame := some (head ++ entries) } }

/-! ## SERVO_COMPUTE -/

/-- The number of the period whose compute instant has come: APPLY less SP_LEAD less 10 us (R319). -/
def Dev.servoPeriod (d : Dev) : Nat := (d.readTime + d.get Reg.LINEN_CFG.SP_LEAD * 1000 + 10000) / d.servoT

/-- A residue mismatch (0) or a poisoned datum (1): the period is discarded; two in a row are fatal (R324). -/
def Dev.linenFault (d : Dev) (kind : Nat) : Dev :=
  let n := d.linen.faults + 1
  let d := { d with linen := { d.linen with faults := n, frame := none }, ecc := { d.ecc with poisoned := d.ecc.poisoned.filter (fun x => x != Datum.linen), once := d.ecc.once.filter fun x => x != Datum.linen } }
  let d := (d.bump Reg.LINEN_CNT.RES_FAULT).post 0x5009 sevFault [kind, n]
  if 2 ≤ n then d.fatal (d.loc 0 4 6 0 0 0) else d

/-- One period's computation. -/
def Dev.servoStep (d : Dev) (k : Nat) : Dev :=
  let (h, d) := d.readHorizon
  let d := (d.linen.setters.filter fun s => !s.applied).foldl Dev.applySetter d
  let d := d.rideStep
  let (p, src, gov) := d.servoPlan h
  let d := (d.stopHeld p).put Reg.LINEN_STAT.CAP_SRC src
  let (f, d) := d.draw 64
  let m := d.linen.motion
  let moves := d.webMoves
  let (ma, landed) := if moves then m.step p f else (m, false)
  let (mb, _) := if ma.target.isSome || d.linen.stop.isSome then ma.step p (f / 7) else (ma, false)
  let d := d.setMotion ma
  let d := (d.camStarts (k * d.servoT) ma).buildFrame k ma mb
  let d := d.showLinen.put Reg.LINEN_STAT.PHASE d.phase
  let d := if landed then d.post 0x5001 sevInfo [d.linen.x48 % 2 ^ 32, d.linen.x48 / 2 ^ 32, d.get Reg.LINEN_STAT.DECEL_HELD] else d
  let d := d.trackGovernor gov h
  let d := if d.on Reg.LINEN_CFG.EN then
      (d.axesOn.filter fun n => d.on (Reg.LINEN_AX_CFG_n.ANS n)).foldl (fun d n => d.modAxis n fun a => { a with missed := a.missed + 1 }) d
    else d.finishSetters
  ({ d with linen := { d.linen with faults := 0 } }).mirrorLinen.restCheck

/-- Linen runs on a solo device and on a cascade master, in READY, RUN and HOLD (R301). -/
def Dev.linenRuns (d : Dev) : Bool := d.mode.printing && !d.follower

/-- SERVO_COMPUTE: at the compute instant of a period; `residue` is a mismatch that the check of the arithmetic finds (R324). -/
def execServoCompute (dt : Nat) (residue : Bool) (s : State) : Host.Outcome State Fault Refusal :=
  s.act dt fun d =>
    let k := d.servoPeriod
    if !d.linenRuns || k = d.linen.cycle then d
    else
      let d := d.linen.next.foldl (fun d (o, v) => d.forceReg o v) d
      let d := { d with linen := { d.linen with cycle := k, next := [] } }
      if residue then d.linenFault 0
      else if d.isBad (· == Datum.linen) then (d.ueRead [.linen]).linenFault 1
      else (d.servoStep k).mirrorDue

/-! ## Set-point frames and answers (R318 to R322) -/

/-- The payload as it leaves: FLAGS.TAKEOVER, EPOCH and LOSS_MAX, CRC. -/
def Dev.sealFrame (d : Dev) (bs : List Nat) : List Nat :=
  let epoch := d.get Reg.RING_STAT.EPOCH
  let bs := setAt (setAt bs 1 (bs.getD 1 0 + 4 * b2n d.linen.takeover)) 2 (epoch + 16 * d.get Reg.LINEN_CFG.LOSS_MAX)
  bs ++ leBytes 4 (crc32c ((bs.drop 4).take 4 ++ [epoch, 0, 0, 0] ++ bs))

/-- A frame that is ready leaves on DRV: only an ACTIVE unit sends one, a standby keeps its newest for a
takeover, and one that the link cannot carry counts (R322, R323). -/
def Dev.sendSetpoints (d : Dev) : Dev :=
  match d.linen.frame with
  | none => d
  | some bs =>
    if !d.active then d
    else if !d.linenRuns || !d.on Reg.LINEN_CFG.EN then { d with linen := { d.linen with frame := none } }
    else if !d.on (Reg.TIME_PORT_CNT_p.LINK 0) then ({ d with linen := { d.linen with frame := none } }).bump Reg.LINEN_CNT.TX_FAIL
    else
      let dst := d.get Reg.LINEN_DST_LO.DST_LO + 2 ^ 32 * d.get Reg.LINEN_DST_HI.DST_HI
      let d := d.send (.ethernet 0 dst (d.get Reg.LINEN_ETYPE.ETYPE) (d.sealFrame bs))
      ({ d with linen := { d.linen with frame := none, takeover := false } }).finishSetters

/-- SETPOINT_FRAME_SEND: at APPLY less SP_LEAD (R319). -/
def execSetpointFrameSend (dt : Nat) (s : State) : Host.Outcome State Fault Refusal :=
  s.act dt fun d =>
    if d.readTime + d.get Reg.LINEN_CFG.SP_LEAD * 1000 < d.linen.cycle * d.servoT then d else d.sendSetpoints

/-- The Linen policy acts: byte `i` of its table (R322). -/
def Dev.linenPolicy (d : Dev) (i : Nat) : Dev := (d.policyStop (d.linen.policy.getD i 0)).restCheck

/-- DRIVE_ANSWER: a frame on DRV with the set-point Ethertype; one that is no valid answer of an axis with ANS changes nothing but the
count of frames discarded (R321, R328). -/
def execDriveAnswer (dt : Nat) (payload : List Byte) (s : State) : Host.Outcome State Fault Refusal :=
  s.act dt fun d =>
    let bs := natBytes payload
    let n := leAt bs 2 1
    let dstat := leAt bs 3 1
    let crc := crc32c ((bs.drop 4).take 4 ++ [n, 0, 0, 0] ++ bs.take 12)
    if !d.mode.served || !d.on (Reg.TIME_PORT_CNT_p.LINK 0) then d
    else if bs.length < 16 ∨ leAt bs 0 1 ≠ 1 ∨ leAt bs 1 1 / 128 ≠ 1 ∨ 12 ≤ n ∨ leAt bs 12 4 ≠ crc
        ∨ !d.on (Reg.LINEN_AX_CFG_n.EN n) ∨ !d.on (Reg.LINEN_AX_CFG_n.ANS n) then d.bump (Reg.TIME_PORT_CNT_p.DISCARD 0)
    else
      let fault := bitOf dstat 0
      let d := ((d.put (Reg.LINEN_AX_STAT_n.DSTAT n) dstat).put (Reg.LINEN_AX_STAT_n.FAULT n) (b2n fault)).put (Reg.LINEN_AX_STAT_n.SILENT n) 0
      let d := d.put (Reg.LINEN_AX_FERR_n.FERR n) (leAt bs 8 4)
      let seen := (d.axis n).faultEp
      let d := d.modAxis n fun a => { a with missed := 0, faultEp := fault }
      if fault && !seen then
        (d.post 0x5006 sevFault [n, dstat, leAt bs 8 4, d.linen.policy.getD (4 * n) 0]).linenPolicy (4 * n)
      else d

/-- ANSWER_TIMEOUT: no valid answer for ANS_TMO periods. -/
def execAnswerTimeout (dt : Nat) (n : Nat) (s : State) : Host.Outcome State Fault Refusal :=
  s.act dt fun d =>
    if !d.linenRuns || 12 ≤ n || !d.on (Reg.LINEN_AX_CFG_n.EN n) || !d.on (Reg.LINEN_AX_CFG_n.ANS n) || d.on (Reg.LINEN_AX_STAT_n.SILENT n)
        || decide ((d.axis n).missed < d.get (Reg.LINEN_AX_CFG_n.ANS_TMO n)) then d
    else
      let d := d.put (Reg.LINEN_AX_STAT_n.SILENT n) 1
      (d.post 0x5007 sevWarn [n, (d.axis n).missed, d.linen.policy.getD (4 * n + 1) 0]).linenPolicy (4 * n + 1)

/-- The DRV link is lost (`down`) or returns; on loss the policy acts (R322). -/
def Dev.drvLink (d : Dev) (down : Bool) : Dev :=
  let d := d.put (Reg.TIME_PORT_CNT_p.LINK 0) (b2n !down)
  if !d.mode.served then d
  else
    let d := d.post 0x5008 sevFault [d.linen.policy.getD 48 0, b2n !down]
    if down then d.linenPolicy 48 else d

/-! ## PARAMs and tables (R314, R315, R317, R325) -/

/-- What GEAR_SET does, when it applies (R91). -/
def Dev.gearSet (d : Dev) (t : Ticket) (x : Desc) : Dev :=
  let n := x.w 6
  if d.follower || !d.webAtRest then d.complete t stRefused d.mode.code
  else if 12 ≤ n ∨ x.w 8 = 0 ∨ x.w 9 ≠ 0 ∨ !d.on (Reg.LINEN_AX_CFG_n.EN n) then d.complete t stBadParam 6
  else
    let old := gearPos d.linen.x (d.gn n) (d.gd n)
    let d := (d.put (Reg.LINEN_AX_GN_n.GN n) (x.w 7)).put (Reg.LINEN_AX_GD_n.GD n) (x.w 8)
    let d := d.modAxis n fun a => { a with ofs := a.ofs + old - gearPos d.linen.x (d.gn n) (d.gd n) }
    ((d.mirror 9 0 0 (.gear n (x.w 7) (x.w 8))).mirrorLinen).complete t stOk 0

/-- GEAR_SET. -/
def execGearSet (dt : Nat) (ring : Nat) (x : Desc) (s : State) : Host.Outcome State Fault Refusal :=
  s.act dt fun d => d.onParam ring x (· == 0x5002) [.ready, .hold] true fun d t => d.gearSet t x

/-- What CAM_START does, when it applies (R91). -/
def Dev.camStart (d : Dev) (t : Ticket) (x : Desc) : Dev :=
  let n := x.f 6 0 4
  let table := x.f 6 4 5
  let pos := x.w 7 + 2 ^ 32 * x.f 8 0 16
  if d.follower then d.complete t stRefused d.mode.code
  else match valueExtra x [0x1FF, 0xFFFFFFFF, 0xFFFF, 0] with
    | some w => d.complete t stBadParam w
    | none =>
      if 12 ≤ n ∨ 16 < table ∨ !d.on (Reg.LINEN_AX_CFG_n.EN n) ∨ (table < 16 ∧ (kvGet d.linen.cams table).isNone) then
        d.complete t stBadParam 6
      else if d.passed pos then d.complete t stCamLate 0
      else match d.schedule 5 ⟨pos, .camStart n table, .servo⟩ with
        | some d => (d.mirror 9 0 0 (.camSlot pos n table)).complete t stOk 0
        | none => (d.calendarFull 5 pos).complete t stCalFull 5

/-- CAM_START schedules a drive cam start slot. -/
def execCamStart (dt : Nat) (ring : Nat) (x : Desc) (s : State) : Host.Outcome State Fault Refusal :=
  s.act dt fun d => d.onParam ring x (· == 0x5001) readyRunHold true fun d t => d.camStart t x

/-- The registers that R325 writes, by the ID's offset, and the range of each as the set-up check has it. -/
def Dev.linenParamOk (d : Dev) (off v : Nat) : Bool :=
  match off with
  | 0x10 => decide (1 ≤ v) && decide (v ≤ 160000)
  | 0x14 => decide (16 ≤ v) && decide (v ≤ 32768) && decide (v < d.get Reg.LINK_FIFO.DEPTH)
  | 0x18 => decide (1 ≤ v) && decide (v ≤ 4194303)
  | _ => true

/-- What LINEN_PARAM does, when it applies (R91). -/
def Dev.linenParam (d : Dev) (t : Ticket) (x : Desc) : Dev :=
  let off := paramId x % 4096
  match valueExtra x [0xFFFFFFFF, 0, 0, 0] with
  | some w => d.complete t stBadParam w
  | none =>
    if !d.linenParamOk off (x.w 6) then d.complete t stBadParam 6
    else
      let d := if d.follower then d.forceReg (0x50000 + off) (x.w 6)
        else { d with linen := { d.linen with next := d.linen.next ++ [(0x50000 + off, x.w 6)] } }
      (d.mirror 9 0 0 (.linenReg (0x50000 + off) (x.w 6))).complete t stOk 0

/-- LINEN_PARAM: 0x5000 + offset; the value is in force from the next compute instant. -/
def execLinenParam (dt : Nat) (ring : Nat) (x : Desc) (s : State) : Host.Outcome State Fault Refusal :=
  s.act dt fun d => d.onParam ring x (fun i => [0x5010, 0x5014, 0x5018, 0x501C].contains i) readyRunHold true fun d t => d.linenParam t x

/-- Why the contents of a cam table are refused. -/
def camBad (bs : List Nat) : Bool :=
  let n := leAt bs 0 2 + 1
  decide (n < 2) || decide (4096 < n) || decide (1 < leAt bs 2 1) || decide (1 < leAt bs 3 1) || decide (leAt bs 4 4 = 0)
    || decide (16777215 < leAt bs 4 4) || decide (leAt bs 8 8 ≠ 0)

/-- CAM_TABLE_LOAD: a table that is not in use. -/
def execCamTableLoad (dt : Nat) (ring : Nat) (x : Desc) (data : Fetch) (s : State) : Host.Outcome State Fault Refusal :=
  s.act dt fun d =>
    d.deviceTable ring x 8 16 (fun o _ => o == 0) (fun n => decide (16 ≤ n) && decide (n ≤ 524304)) fun d t =>
      if d.camInUse (tlInst x) then d.complete t stTableInUse 0
      else d.tableData t x data fun d bs =>
        let n := leAt bs 0 2 + 1
        if bs.length ≠ 16 + 8 * n then d.complete t stBadLength 0
        else if camBad bs then d.complete t stTableBad 0xFFFF
        else
          let c : CamTable := ⟨leAt bs 2 1 = 1, leAt bs 3 1 = 1, leAt bs 4 4, (List.range n).map fun i => signedOf 64 (leAt bs (16 + 8 * i) 8)⟩
          ({ d with linen := { d.linen with cams := kvPut d.linen.cams (tlInst x) c } }).complete t stOk 0

end Sys2Proof.Machine
end

