-- ==== Sys2Proof/Machine/Time.lean ====
section
/-! DEFINITION. Network time (R327 to R343): the Ethernet ports, the PTP trackers, the DRV master, steering, slews and steps. -/
namespace Sys2Proof.Machine

/-! ## Trackers -/

def Dev.trk (d : Dev) (t : Nat) : Tracker := d.time.trks.getD t ⟨0, [], none, 0, 0, 0, 0, 0, none, 0, 0, none, none, 0, none⟩

def Dev.modTrk (d : Dev) (t : Nat) (f : Tracker → Tracker) : Dev := { d with time := { d.time with trks := modAt d.time.trks t f } }

/-- Device time follows the DRV instance (R339). -/
def Dev.drvFollows (d : Dev) : Bool := decide (d.get Reg.TIME_CFG.DRV_ROLE = 1) && !d.active

def Dev.trkPort (d : Dev) (t : Nat) : Nat := if t < 2 then d.get (Reg.TIME_TRK_CFG_t.PORT t) else 0
def Dev.trkDomain (d : Dev) (t : Nat) : Nat := if t < 2 then d.get (Reg.TIME_TRK_CFG_t.DOMAIN t) else d.get Reg.TIME_CFG.DRV_DOMAIN
/-- The delay mechanism: on DRV the port's, on PLANT the tracker's (R329). -/
def Dev.trkP2p (d : Dev) (t : Nat) : Bool := if d.trkPort t = 0 then d.on Reg.TIME_GM.P2P else d.on (Reg.TIME_TRK_CFG_t.P2P t)

/-- The tracker that is the one ordinary clock of DRV: the one that SRC names, else the first (R329; DEDUCED, log entry 162). -/
def Dev.drvTracker (d : Dev) : Option Nat :=
  let ts := [0, 1].filter fun t => d.on (Reg.TIME_TRK_CFG_t.EN t) && decide (d.trkPort t = 0)
  if ts.any (fun t => d.get Reg.TIME_CFG.SRC == t + 1) then some (d.get Reg.TIME_CFG.SRC - 1) else ts.head?

def Dev.trkOn (d : Dev) (t : Nat) : Bool :=
  if t < 2 then d.on (Reg.TIME_TRK_CFG_t.EN t) && (decide (d.trkPort t ≠ 0) || d.drvTracker == some t) else d.drvFollows

/-- 0 off, 1 LISTENING, 2 LOCKED, 3 LOST. -/
def Dev.trkState (d : Dev) (t : Nat) : Nat := if t < 2 then d.get (Reg.TIME_TRK_STAT_t.STATE t) else (d.trk t).state

def Dev.setTrkState (d : Dev) (t s : Nat) : Dev :=
  if t < 2 then d.put (Reg.TIME_TRK_STAT_t.STATE t) s else d.modTrk t fun x => { x with state := s }

/-- PTP runs on a port: in the states that have services, with the link up; on DRV unless its role is OFF (R338). -/
def Dev.ptpOn (d : Dev) (port : Nat) : Bool :=
  decide (port < 2) && d.mode.served && d.on (Reg.TIME_PORT_CNT_p.LINK port) && (port != 0 || decide (d.get Reg.TIME_CFG.DRV_ROLE ≠ 0))

/-- The trackers that a message on a port and domain reaches. -/
def Dev.trksOf (d : Dev) (port domain : Nat) : List Nat :=
  [0, 1, 2].filter fun t => d.ptpOn port && d.trkOn t && d.trkPort t == port && d.trkDomain t == domain

/-- The number of a tracker as SRC_NOW has it: 1 TRK_0, 2 TRK_1, 3 the DRV instance. -/
def srcOf (t : Nat) : Nat := t + 1

def Dev.isSource (d : Dev) (t : Nat) : Bool := d.get Reg.TIME_STAT.SRC_NOW == srcOf t

/-- A receive stamp, TB in 2^-16 ns: within 2 ns of the instant, less the PHY's latency (R330). -/
def Dev.rxStamp (d : Dev) (port : Nat) : Int × Dev :=
  let (f, d) := d.draw 8
  (((d.tb : Int) + (f % 5 : Nat) - 2 - (d.get (Reg.TIME_PORT_LAT_p.RX port) : Nat)) * 65536, d)

/-- A transmit stamp, TB in 2^-16 ns (R330). -/
def Dev.txStamp (d : Dev) (port : Nat) : Int × Dev :=
  let (f, d) := d.draw 8
  (((d.tb : Int) + (f % 5 : Nat) - 2 + (d.get (Reg.TIME_PORT_LAT_p.TX port) : Nat)) * 65536, d)

/-- Device time of a stamp, ns (R17, R331). -/
def Dev.timeOf (d : Dev) (stamp : Int) : Nat := d.readTime32 stamp / 32

/-- secondsField and nanosecondsField (R331). -/
def ptpTime (t : Nat) : List Nat := [t / 1000000000, t % 1000000000]

/-! ## Changes of device time (R333, R334, R336, R434) -/

/-- Offset and rate change at an anchor 32 ns ahead; TIME reaches the heads. -/
def Dev.setTime (d : Dev) (step rate : Int) : Dev :=
  let (ofs, old, anchor) := d.timeForm
  let t1 := tbPlus d.tb 32
  let ofs' := ofs + old * ((t1 : Int) - (anchor : Int)) / (2 ^ 40 : Nat) + step
  let keep := (ofs, old, anchor) :: (if (anchor : Int) ≤ d.tb then [] else d.time.olds)
  let d := { d with time := { d.time with olds := keep } }
  let d := (d.put2 Reg.TIME_OFS_LO.OFS Reg.TIME_OFS_HI.OFS (fieldOf 64 ofs')).put Reg.TIME_RATE.RATE (fieldOf 32 rate)
  (d.put2 Reg.TIME_ANCHOR_LO.ANCHOR Reg.TIME_ANCHOR_HI.ANCHOR t1).timeChanged

/-- A rate within the range of R17. -/
def rateClamp (r : Int) : Int := max (-(2 ^ 31 : Nat)) (min ((2 ^ 31 : Nat) - 1) r)

/-- SLEW_RATE. -/
def Dev.slewRate (d : Dev) : Nat := (d.get Reg.TIME_SERVO.SLEW_PPM * 2 ^ 40 + 500000) / 1000000

/-- The rate in force. -/
def Dev.rateNow (d : Dev) : Int := d.timeForm.2.1

/-- e_t / TAU in 2^-40, clamped to SLEW; where e / TAU falls between two units it goes to either. -/
def Dev.servoTerm (d : Dev) (e : Int) (up : Bool) : Int :=
  let x := near (e * (2 ^ 40 : Nat)) (max 1 (d.get Reg.TIME_SERVO.TAU) * 100000000) up
  let m : Int := d.slewRate
  max (-m) (min m x)

/-- A step of the offset by e_t is due: only in SETUP, or in READY at rest without Linen (R334). -/
def Dev.stepDue (d : Dev) (e : Int) : Bool :=
  let lim := d.get Reg.TIME_SERVO.STEP_LIM
  decide (lim ≠ 0) && decide (lim * 1000 < e.natAbs)
    && (d.mode == .setup || (d.mode == .ready && d.webAtRest && !d.on Reg.LINEN_CFG.EN))

/-- Steering at a Sync of the source (R334). -/
def Dev.steer (d : Dev) (t : Nat) : Dev :=
  let k := d.trk t
  if !d.isSource t || d.trkState t ≠ 2 || d.on Reg.TIME_STAT.SLEWING || k.steerAt.any (fun a => decide (d.since a < 1000000)) then d
  else
    let d := d.modTrk t fun x => { x with steerAt := some d.tb }
    if d.stepDue k.err then
      let (ofs, rate, anchor) := d.timeForm
      let t1 : Int := tbPlus d.tb 32
      let old := fieldOf 64 (t1 + ofs + rate * (t1 - (anchor : Int)) / (2 ^ 40 : Nat))
      let new := fieldOf 64 ((old : Int) + k.err)
      let d := d.setTime k.err (rateClamp k.rate)
      let d := { d with time := { d.time with second := new / 1000000000 } }
      d.post 0x4004 sevWarn [old % 2 ^ 32, old / 2 ^ 32, new % 2 ^ 32, new / 2 ^ 32]
    else
      let (f, d) := d.draw 1
      d.setTime 0 (rateClamp (k.rate + d.servoTerm k.err (f = 1)))

/-- The running slew ends; the rate becomes `rate`. -/
def Dev.endSlew (d : Dev) (w : Slew) (rate : Option Int) : Dev :=
  let d := match rate with | some r => d.setTime 0 r | none => d
  (({ d with time := { d.time with slew := none } }).put Reg.TIME_STAT.SLEWING 0).switchEvent w 1

/-- Switch the source to a SRC code: slewed, never stepped (R336). -/
def Dev.switchTime (d : Dev) (src : Nat) : Dev :=
  let d := match d.time.slew with | some w => d.endSlew w none | none => d
  let old := d.get Reg.TIME_STAT.SRC_NOW
  let (e, r) : Int × Int := if src = 0 then (0, d.rateNow) else ((d.trk (src - 1)).err, rateClamp (d.trk (src - 1)).rate)
  let m : Int := d.slewRate
  let fast := if 0 < e then rateClamp (r + m) else if e < 0 then rateClamp (r - m) else r
  let diff := (fast - r).natAbs
  let (f, d) := d.draw 32
  let ns := if e = 0 then 0 else if diff = 0 then f else cdiv (e.natAbs * 2 ^ 40) diff
  let w : Slew := ⟨tbPlus d.tb ns, r, d.rateNow, old, src, e, ns⟩
  let d := (d.put Reg.TIME_STAT.SRC_NOW src).put Reg.TIME_STAT.HOLDOVER 0
  let d := if fast = d.rateNow then d else d.setTime 0 fast
  let d := d.switchEvent w 0
  if ns = 0 then d.switchEvent w 1
  else ({ d with time := { d.time with slew := some w } }).put Reg.TIME_STAT.SLEWING 1

/-- The unit is ACTIVE: its DRV instance is a master again, whatever the old active announced, and device time returns to SRC (R339). -/
def Dev.drvMasterAgain (d : Dev) : Dev :=
  let src := d.get Reg.TIME_CFG.SRC
  if d.get Reg.TIME_STAT.SRC_NOW ≠ 3 then d
  else
    let d := d.modTrk 2 fun t => { t with state := 0, foreign := [] }
    if src = 0 ∨ d.trkState (src - 1) = 2 then d.switchTime src else d.put Reg.TIME_STAT.SRC_NOW src

/-- What a write of TIME_CFG.SRC in SETUP brings about: the source is the tracker named, by a switch where it is LOCKED. -/
def Dev.followSrc (d : Dev) : Dev :=
  let src := d.get Reg.TIME_CFG.SRC
  if src = d.get Reg.TIME_STAT.SRC_NOW ∨ 2 < src ∨ d.drvFollows then d
  else if src = 0 ∨ d.trkState (src - 1) = 2 then d.switchTime src
  else d.put Reg.TIME_STAT.SRC_NOW src

/-! ## Loss of a source (R335) -/

/-- A tracker becomes LOST: 0 time-out, 1 link down. -/
def Dev.trkLost (d : Dev) (t reason : Nat) : Dev :=
  if d.trkState t = 0 ∨ d.trkState t = 3 then d
  else
    let src := d.isSource t
    let d := (d.setTrkState t 3).modTrk t fun x => { x with good := 0, two := none, asked := none, peer := none }
    let d := d.post 0x4002 sevWarn [t, reason, b2n src]
    if !src then d
    else
      let d := match d.time.slew with | some w => d.endSlew w (some w.before) | none => d
      let d := d.put Reg.TIME_STAT.HOLDOVER 1
      let other := 1 - t
      if t < 2 && d.on Reg.TIME_CFG.AUTO_SWITCH && !d.drvFollows && decide (d.trkState other = 2) then d.switchTime (srcOf other) else d

/-- A write of TIME_TRK_CFG_t.EN: the tracker listens, or is LOST where its port's link is down, or is off (R335). -/
def Dev.followEn (d : Dev) (t : Nat) : Dev :=
  let s := d.trkState t
  if d.on (Reg.TIME_TRK_CFG_t.EN t) then (if s = 0 then (if d.on (Reg.TIME_PORT_CNT_p.LINK (d.trkPort t)) then d.setTrkState t 1 else (d.setTrkState t 1).trkLost t 1) else d)
  else if s = 0 then d
  else (d.setTrkState t 0).modTrk t fun _ => ⟨0, [], none, 0, 0, 0, 0, 0, none, 0, 0, none, none, 0, none⟩

/-- SYNC_TIMEOUT: no Sync from the grandmaster for SYNC_TMO. The DRV instance uses the least SYNC_TMO of R335's range that its reset
value gives. -/
def execSyncTimeout (dt : Nat) (t : Nat) (s : State) : Host.Outcome State Fault Refusal :=
  s.act dt fun d =>
    let tmo := (if t < 2 then d.get (Reg.TIME_TRK_CFG_t.SYNC_TMO t) else 10) * 10000000
    if 2 < t || !d.mode.served || !d.trkOn t || (d.trk t).best.isNone || decide (d.since (d.trk t).syncAt < tmo) then d else d.trkLost t 0

/-! ## Announce and the choice of a grandmaster (R329) -/

/-- The order of the default best master clock algorithm: lower is better. -/
def annRank (a : PtpAnnounce) : Nat :=
  [(a.class_, 8), (a.accuracy, 8), (a.variance, 16), (a.prio2, 8), (a.identity, 64), (a.steps, 16), (a.source, 80)].foldl
    (fun k x => k * 2 ^ x.2 + x.1 % 2 ^ x.2) a.prio1

/-- 2^n seconds in ns. -/
def logSeconds (n : Int) : Nat := if 0 ≤ n then 1000000000 * 2 ^ n.toNat else 1000000000 / 2 ^ (-n).toNat

/-- A sender that still counts: heard within three intervals, and two Announces within four. -/
def Dev.qualifies (d : Dev) (f : Foreign) : Bool :=
  decide (d.since f.at_ ≤ 3 * logSeconds f.ann.interval) && f.prev.any fun p => decide ((f.at_ + 2 ^ 64 - p) % 2 ^ 64 ≤ 4 * logSeconds f.ann.interval)

/-- The best sender of an instance. -/
def Dev.bestForeign (d : Dev) (t : Nat) : Option Foreign :=
  ((d.trk t).foreign.filter d.qualifies).foldl
    (fun b f => match b with | none => some f | some g => if annRank f.ann < annRank g.ann then some f else b) none

/-- An Announce joins an instance's list of senders. -/
def Dev.hearAnnounce (d : Dev) (t : Nat) (a : PtpAnnounce) : Dev :=
  let prev := ((d.trk t).foreign.find? fun f => f.ann.source == a.source).map (·.at_)
  let f : Foreign := ⟨a, d.tb, prev⟩
  d.modTrk t fun x => { x with foreign := x.foreign.filter (fun g => g.ann.source != a.source) ++ [f] }

/-- PTP_ANNOUNCE: each instance on the port and domain takes it and chooses again. -/
def execPtpAnnounce (dt : Nat) (port : Nat) (a : PtpAnnounce) (s : State) : Host.Outcome State Fault Refusal :=
  s.act dt fun d =>
    let drv := decide (port = 0) && d.ptpOn 0 && decide (d.get Reg.TIME_CFG.DRV_ROLE = 1) && decide (d.get Reg.TIME_CFG.DRV_DOMAIN = a.domain)
    let ts := (d.trksOf port a.domain).filter (· < 2)
    let d := (ts ++ if drv then [2] else []).foldl (fun (d : Dev) t => d.hearAnnounce t a) d
    (ts ++ if drv && d.drvFollows then [2] else []).foldl (fun d t =>
      match d.bestForeign t with
      | none => d
      | some f =>
        if (d.trk t).best = some f.ann.source then d
        else
          let d := if t < 2 then d.put (Reg.TIME_TRK_GM_t.GM t) f.ann.identity else d
          d.modTrk t fun x => { x with best := some f.ann.source, syncAt := d.tb, good := 0, two := none }) d

/-! ## Sync, Follow_Up, delays (R332, R335) -/

/-- A Sync with its origin time and correction: e_t and r_t, lock, steering. -/
def Dev.syncDone (d : Dev) (t : Nat) (origin : Nat) (corr rx : Int) : Dev :=
  let k := d.trk t
  let src := (origin : Int) * 65536 + corr
  let e := (src + k.delay) / (65536 : Nat) - signedOf 64 (d.timeOf rx)
  let (r, d) := d.draw 32
  let (ok, d) := d.draw 1
  let good := if ok = 1 then k.good + 1 else 0
  let d := d.modTrk t fun x => { x with syncAt := d.tb, good := min 8 good, rate := signedOf 32 r, err := e, two := none, t1 := src, t2 := rx }
  let sat := fieldOf 32 (max (-(2 ^ 31 : Nat)) (min ((2 ^ 31 : Nat) - 1) e))
  let d := if t < 2 then d.put (Reg.TIME_TRK_ERR_t.E t) sat else d
  let d := if 8 ≤ good ∧ d.trkState t ≠ 2 then
      let gm := (((d.trk t).foreign.find? fun f => some f.ann.source == (d.trk t).best).map (·.ann.identity)).getD 0
      let d := (d.setTrkState t 2).post 0x4001 sevInfo [t, gm % 2 ^ 32, gm / 2 ^ 32, sat]
      if d.isSource t then d.put Reg.TIME_STAT.HOLDOVER 0 else d
    else d
  d.steer t

/-- PTP_SYNC at a port: a two-step one waits for its Follow_Up. -/
def execPtpSync (dt : Nat) (port : Nat) (m : Ptp) (s : State) : Host.Outcome State Fault Refusal :=
  s.act dt fun d =>
    ((d.trksOf port m.domain).filter fun t => (d.trk t).best == some m.source).foldl (fun d t =>
      let (rx, d) := d.rxStamp port
      if m.twoStep then d.modTrk t fun x => { x with two := some (m.seq, rx, m.corr) } else d.syncDone t m.time m.corr rx) d

/-- PTP_FOLLOW_UP of a two-step Sync. -/
def execPtpFollowUp (dt : Nat) (port : Nat) (m : Ptp) (s : State) : Host.Outcome State Fault Refusal :=
  s.act dt fun d =>
    ((d.trksOf port m.domain).filter fun t => (d.trk t).best == some m.source).foldl (fun d t =>
      match (d.trk t).two with
      | some (seq, rx, corr) => if seq = m.seq then d.syncDone t m.time (m.corr + corr) rx else d
      | none => d) d

/-- The port identity of the device on an instance. -/
def portIdentity (port : Nat) : Nat := Config.clockIdentity * 65536 + port + 1

/-- PTP_DELAY_RESP: the path delay of an end-to-end tracker. -/
def execPtpDelayResp (dt : Nat) (port : Nat) (m : Ptp) (s : State) : Host.Outcome State Fault Refusal :=
  s.act dt fun d =>
    ((d.trksOf port m.domain).filter fun t => (d.trk t).best == some m.source && !d.trkP2p t && decide (m.requester = portIdentity port)).foldl
      (fun d t =>
        match (d.trk t).asked with
        | some (seq, t3) =>
          if seq ≠ m.seq then d
          else d.modTrk t fun x =>
            { x with asked := none, delay := (((m.time : Int) * 65536 - m.corr - x.t1) - (t3 - x.t2)) / 2 }
        | none => d) d

/-- PTP_PDELAY_RESP: a Pdelay_Resp, or with `followUp` a Pdelay_Resp_Follow_Up, gives the peer delay. -/
def execPtpPdelayResp (dt : Nat) (port : Nat) (m : Ptp) (followUp : Bool) (s : State) : Host.Outcome State Fault Refusal :=
  s.act dt fun d =>
    ((d.trksOf port m.domain).filter fun t => d.trkP2p t && decide (m.requester = portIdentity port)).foldl (fun d t =>
      match (d.trk t).asked with
      | none => d
      | some (seq, t1) =>
        if seq ≠ m.seq then d
        else if followUp then
          match (d.trk t).peer with
          | none => d
          | some (t4, t2, corr) => d.modTrk t fun x =>
              { x with asked := none, peer := none, delay := ((t4 - t1) - ((m.time : Int) * 65536 - t2) - corr - m.corr) / 2 }
        else
          let (rx, d) := d.rxStamp port
          if m.twoStep then d.modTrk t fun x => { x with peer := some (rx, (m.time : Int) * 65536, m.corr) }
          else d.modTrk t fun x => { x with asked := none, delay := ((rx - t1) - m.corr) / 2 }) d

/-- PTP_DELAY_REQ_TRANSMIT: a slave sends Delay_Req, or Pdelay_Req with peer-to-peer delay. -/
def execPtpDelayReqTransmit (dt : Nat) (t : Nat) (s : State) : Host.Outcome State Fault Refusal :=
  s.act dt fun d =>
    let port := d.trkPort t
    if 2 < t || !d.ptpOn port || !d.trkOn t || (!d.trkP2p t && (d.trk t).best.isNone) then d
    else
      let seq := (d.trk t).seq
      let (tx, d) := d.txStamp port
      let d := d.modTrk t fun x => { x with seq := (seq + 1) % 65536, asked := some (seq, tx), peer := none }
      d.send (.ptp port (if d.trkP2p t then 2 else 1) (d.trkDomain t) seq false 0 [0, 0])

/-! ## The DRV master (R329, R338) -/

/-- The device serves time on DRV: role MASTER on an active unit, and no better clock heard. -/
def Dev.drvMaster (d : Dev) : Bool :=
  let own : PtpAnnounce := ⟨0, portIdentity 0, 0, d.get Reg.TIME_GM.PRIO1, d.get Reg.TIME_GM.CLASS, Config.clockAccuracy, Config.clockVariance,
    d.get Reg.TIME_GM.PRIO2, Config.clockIdentity, 0⟩
  d.ptpOn 0 && decide (d.get Reg.TIME_CFG.DRV_ROLE = 1) && d.active
    && (match d.bestForeign 2 with | some f => decide (annRank own < annRank f.ann) | none => true)

/-- PTP_SYNC_TRANSMIT, every logSyncInterval: one-step with the device time of its own stamp, or two-step with a Follow_Up. -/
def execPtpSyncTransmit (dt : Nat) (s : State) : Host.Outcome State Fault Refusal :=
  s.act dt fun d =>
    if !d.drvMaster || d.time.syncTx.any (fun t => decide (d.since t < logSeconds (signedOf 4 (d.get Reg.TIME_CFG.LOG_SYNC)))) then d
    else
      let seq := d.time.syncSeq
      let dom := d.get Reg.TIME_CFG.DRV_DOMAIN
      let (tx, d) := d.txStamp 0
      let t := ptpTime (d.timeOf tx)
      let d := { d with time := { d.time with syncSeq := (seq + 1) % 65536, syncTx := some d.tb } }
      if d.on Reg.TIME_GM.ONE_STEP then d.send (.ptp 0 0 dom seq false 0 t)
      else (d.send (.ptp 0 0 dom seq true 0 [0, 0])).send (.ptp 0 8 dom seq false 0 t)

/-- PTP_ANNOUNCE_TRANSMIT: ptpTimescale and timeSource (R331), then the data set. -/
def execPtpAnnounceTransmit (dt : Nat) (s : State) : Host.Outcome State Fault Refusal :=
  s.act dt fun d =>
    if !d.drvMaster then d
    else
      let seq := d.time.annSeq
      let ptp := decide (d.get Reg.TIME_STAT.SRC_NOW ≠ 0)
      let d := { d with time := { d.time with annSeq := (seq + 1) % 65536 } }
      d.send (.ptp 0 11 (d.get Reg.TIME_CFG.DRV_DOMAIN) seq false 0 [b2n ptp, if ptp then 0x40 else 0xA0, d.get Reg.TIME_GM.PRIO1,
        d.get Reg.TIME_GM.CLASS, Config.clockAccuracy, Config.clockVariance, d.get Reg.TIME_GM.PRIO2, Config.clockIdentity, 0])

/-- PTP_DELAY_REQ at the DRV master: answered with the device time of its receive stamp. -/
def execPtpDelayReq (dt : Nat) (port : Nat) (m : Ptp) (s : State) : Host.Outcome State Fault Refusal :=
  s.act dt fun d =>
    if port ≠ 0 || !d.drvMaster || d.on Reg.TIME_GM.P2P || decide (m.domain ≠ d.get Reg.TIME_CFG.DRV_DOMAIN) then d
    else
      let (rx, d) := d.rxStamp 0
      d.send (.ptp 0 9 m.domain m.seq false m.corr (ptpTime (d.timeOf rx) ++ [m.source]))

/-- A port uses peer-to-peer delay in a domain. -/
def Dev.peerPort (d : Dev) (port domain : Nat) : Bool :=
  d.ptpOn port && ((d.trksOf port domain).any d.trkP2p
    || (decide (port = 0) && decide (d.get Reg.TIME_CFG.DRV_ROLE = 1) && d.on Reg.TIME_GM.P2P && decide (d.get Reg.TIME_CFG.DRV_DOMAIN = domain)))

/-- PTP_PDELAY_REQ: answered in two steps; the answer leaves when the port lets it, so its stamp is a free value not before now. -/
def execPtpPdelayReq (dt : Nat) (port : Nat) (m : Ptp) (s : State) : Host.Outcome State Fault Refusal :=
  s.act dt fun d =>
    if !d.peerPort port m.domain then d
    else
      let (rx, d) := d.rxStamp port
      let (wait, d) := d.draw 20
      let (tx, d) := d.txStamp port
      let d := d.send (.ptp port 3 m.domain m.seq true 0 (ptpTime (d.timeOf rx) ++ [m.source]))
      d.send (.ptp port 10 m.domain m.seq false m.corr (ptpTime (d.timeOf (tx + wait * 65536)) ++ [m.source]))

/-! ## Marks, slews, sources (R336, R341, R342) -/

/-- TIME_MARK, when device time has crossed a whole second. -/
def execTimeMark (dt : Nat) (s : State) : Host.Outcome State Fault Refusal :=
  s.act dt fun d =>
    let sec := d.readTime / 1000000000
    if sec = d.time.second then d
    else
      let t := sec * 1000000000
      ({ d with time := { d.time with second := sec } }).post 0x4005 sevInfo [t % 2 ^ 32, t / 2 ^ 32]

/-- SLEW_END: the rate becomes r_new. -/
def execSlewEnd (dt : Nat) (s : State) : Host.Outcome State Fault Refusal :=
  s.act dt fun d =>
    match d.time.slew with
    | some w => if d.mode.served && decide (w.ns ≤ d.since (fieldOf 64 ((w.until_ : Int) - (w.ns : Nat)))) then d.endSlew w (some w.rate) else d
    | none => d

/-- What TIME_SRC does, when it applies (R91). -/
def Dev.timeSrc (d : Dev) (t : Ticket) (x : Desc) : Dev :=
  let src := x.w 6
  if 2 < src ∨ x.w 7 ≠ 0 ∨ x.w 8 ≠ 0 ∨ x.w 9 ≠ 0 then d.complete t stBadParam 6
  else if d.get Reg.TIME_CFG.DRV_ROLE = 2 ∨ d.drvFollows ∨ (src ≠ 0 ∧ d.trkState (src - 1) ≠ 2) then d.complete t stRefused d.mode.code
  else ((d.put Reg.TIME_CFG.SRC src).switchTime src).complete t stOk 0

/-- TIME_SRC. -/
def execTimeSrc (dt : Nat) (ring : Nat) (x : Desc) (s : State) : Host.Outcome State Fault Refusal :=
  s.act dt fun d => d.onParam ring x (· == 0x4001) allServed true fun d t => d.timeSrc t x

/-! ## The Ethernet ports (R328, R437) -/

/-- An Ethernet port has lost its link: crossings 12 and 13 are flushed, the port's trackers are LOST; on DRV a drive frame not yet sent
fails, and R322 acts (R328, R335, R437). -/
def Dev.ethLost (d : Dev) (port : Nat) : Dev :=
  let was := d.on (Reg.TIME_PORT_CNT_p.LINK port)
  let d := d.put (Reg.TIME_PORT_CNT_p.LINK port) 0
  let d := (d.flushXing 12 0).flushXing 13 1
  let d := if port = 0 ∧ d.linen.frame.isSome then ({ d with linen := { d.linen with frame := none } }).bump Reg.LINEN_CNT.TX_FAIL else d
  if !d.mode.served then d
  else
    let d := ([0, 1, 2].filter fun t => d.trkOn t && d.trkPort t == port).foldl (fun d t => d.trkLost t 1) d
    if port = 0 && was then d.drvLink true else d

/-- ETHERNET_LINK_LOSS. -/
def execEthernetLinkLoss (dt : Nat) (port : Nat) (s : State) : Host.Outcome State Fault Refusal :=
  s.act dt fun d => if 2 ≤ port ∨ d.mode = .off then d else d.ethLost port

/-- DRV_LINK_DOWN: the DRV PHY reports loss or return of the link. -/
def execDrvLinkDown (dt : Nat) (down : Bool) (s : State) : Host.Outcome State Fault Refusal :=
  s.act dt fun d =>
    if d.mode = .off ∨ d.on (Reg.TIME_PORT_CNT_p.LINK 0) = !down then d
    else if down then d.ethLost 0
    else d.drvLink false

/-- ETHERNET_LINK_UP. -/
def execEthernetLinkUp (dt : Nat) (port : Nat) (s : State) : Host.Outcome State Fault Refusal :=
  s.act dt fun d => if 2 ≤ port ∨ d.mode = .off ∨ d.on (Reg.TIME_PORT_CNT_p.LINK port) then d
    else if port = 0 then d.drvLink false else d.put (Reg.TIME_PORT_CNT_p.LINK port) 1

/-- A frame that a port takes in: 64 to 1,522 bytes with at most one tag, of PTP, or on DRV of Linen (R328). -/
def Dev.takesFrame (d : Dev) (port size tags etype : Nat) : Bool :=
  decide (64 ≤ size) && decide (size ≤ 1522) && decide (tags ≤ 1)
    && (decide (etype = 0x88F7) || (port == 0 && decide (etype = d.get Reg.LINEN_ETYPE.ETYPE)))

/-- ETH_FRAME_DISCARD: a frame arrives, by its size, the number of its 802.1Q tags and its Ethertype; one that the port does not take in is
counted. What a frame that it takes in does is the rows of PTP and DRIVE_ANSWER. -/
def execEthFrameDiscard (dt : Nat) (port size tags etype : Nat) (s : State) : Host.Outcome State Fault Refusal :=
  s.act dt fun d =>
    if 2 ≤ port || d.mode == .off || !d.on (Reg.TIME_PORT_CNT_p.LINK port) || d.takesFrame port size tags etype then d
    else d.bump (Reg.TIME_PORT_CNT_p.DISCARD port)

end Sys2Proof.Machine
end

