-- ==== Sys2Proof/Machine/Ring.lean ====
section
/-! DEFINITION. The ring (R350 to R358): messages and their forwarding, discovery, conflicts, the cascade. The duplex role of a unit
(R359 to R366): fencing, leases, takeover. -/
namespace Sys2Proof.Machine

/-! ## Taking a message (R350, R352) -/

def emptyNode : NodeSt := ⟨none, 0, false, false, false, 0, 0, false, 0, 0, false⟩

def Dev.nodeSt (d : Dev) (n : Nat) : NodeSt := d.net.nodes.getD n emptyNode

def Dev.modNode (d : Dev) (n : Nat) (f : NodeSt → NodeSt) : Dev := { d with net := { d.net with nodes := modAt d.net.nodes n f } }

/-- Word 0 of a message. -/
structure RingHead where
  type : Nat
  src : Nat
  dst : Nat
  bcast : Bool
  hops : Nat
  epoch : Nat
  active : Bool
  seq : Nat
  deriving DecidableEq, Repr

def headOf (w : Nat) : RingHead := ⟨bitsOf w 0 8, bitsOf w 8 4, bitsOf w 12 4, bitOf w 16, bitsOf w 18 4, bitsOf w 22 4, bitOf w 26, bitsOf w 32 16⟩

/-- The hop delay of a ring port, 1/32 ns. -/
def Dev.hopDelay (d : Dev) (port : Nat) : Nat := d.get (if port = 18 then Reg.RING_HOP_E.DLY else Reg.RING_HOP_W.DLY)

/-- A ring port at work. -/
def Dev.ringPort (d : Dev) (port : Nat) : Bool := d.on Reg.RING_CFG.EN && d.mode.served && (port == 18 || port == 19) && d.portIsUp port

/-- A message goes on out of the other port. -/
def Dev.forwards (d : Dev) (port : Nat) (h : RingHead) : Bool :=
  h.type != 12 && (h.bcast || h.dst != d.node) && decide (h.hops + 1 < d.get Reg.RING_CFG.NODES)
    && (h.type != 2 || decide (d.net.hopAt.getD (port - 18) 0 ≠ 0))

/-- The forwarded copy: HOPS + 1, for PW the PATH with the hop delay; the residence time joins it at departure. -/
def Dev.forward (d : Dev) (port : Nat) (h : RingHead) (words : List Nat) : Dev :=
  if !d.forwards port h then d
  else
    let words := setAt words 0 (words.headD 0 + 2 ^ 18)
    d.ringOut (37 - port) (if h.type = 2 then setAt words 3 ((words.getD 3 0 + d.hopDelay port) % 2 ^ 32) else words)

/-- The copy is the first with its SRC, TYPE and SEQ in 1 ms. -/
def Dev.firstCopy (d : Dev) (h : RingHead) : Bool :=
  !d.net.seen.any fun x => x.1 == h.src && x.2.1 == h.type && x.2.2.1 == h.seq && decide (d.since x.2.2.2 ≤ 1000000)

/-- The message is taken, and remembered for 1 ms. -/
def Dev.remember (d : Dev) (h : RingHead) : Dev :=
  let keep := d.net.seen.filter fun x => decide (d.since x.2.2.2 ≤ 1000000)
  { d with net := { d.net with seen := keep ++ [(h.src, h.type, h.seq, d.tb)] } }

/-- A conflicting node: posted once, its messages are ignored (R355). -/
def Dev.nodeConflict (d : Dev) (n reason : Nat) : Dev :=
  if bitOf d.net.conflict n then d
  else ({ d with net := { d.net with conflict := setBit d.net.conflict n true } }).post 0x7003 sevFault [n, reason]

/-- Whether a message with this header is taken here, and the device after it is forwarded. -/
def Dev.takeHead (d : Dev) (h : RingHead) (d' : Dev) : Option RingHead × Dev :=
  if h.src = d.node ∨ (h.type = 12 ∧ h.hops ≠ 0) then (none, d)
  else if (h.bcast || h.dst == d.node) && d.firstCopy h && !bitOf d.net.conflict h.src then (some h, d'.remember h)
  else (none, d')

/-- A message of a TYPE arrives, its CRC word last: CRC, own messages, duplicates, forwarding. -/
def Dev.ringTake (d : Dev) (port type : Nat) (words : List (BitVec 64)) : Option RingHead × List Nat × Dev :=
  let ws := words.map BitVec.toNat
  let body := ws.dropLast
  let h := headOf (ws.headD 0)
  let d := (d.ringDrain 18).ringDrain 19
  if !d.ringPort port || ws.length < 2 || h.type != type then (none, [], d)
  else if ws.getLastD 0 % 2 ^ 32 ≠ ringCrc body ∨ bitsOf (ws.headD 0) 48 16 ≠ d.get Reg.RING_CFG.RING_ID then (none, [], d.bump Reg.RING_CNT.CRC_ERR)
  else
    let (r, d) := d.takeHead h (d.forward port h body)
    (r, body, d)

/-- A RING capture record (R495). -/
def Dev.ringRecord (d : Dev) (port : Nat) (h : RingHead) (words : List Nat) : Dev :=
  d.capture 10 ([h.type, h.src, port - 18, 0, 0, 0, 0, 0] ++ (words.map (leBytes 8)).flatten)

/-! ## Leases and roles (R359, R360, R362 to R366) -/

/-- An ACTIVE unit that sends a heartbeat renews its lease. -/
def Dev.renewLease (d : Dev) : Dev :=
  if !d.duplexed || !d.active || !d.mode.printing then d
  else
    let d := { d with net := { d.net with leaseAt := d.tb } }
    if d.on Reg.RING_STAT.LEASE_VALID then d else (d.put Reg.RING_STAT.LEASE_VALID 1).leaseRecord 0

/-- LEASE_VALID and LEASE_REM as a heartbeat carries them. -/
def Dev.leaseRem (d : Dev) : Nat :=
  if d.duplexed && d.active && d.on Reg.RING_STAT.LEASE_VALID then 10000 - min 10000 (d.since d.net.leaseAt) else 0

/-- A newer epoch (R297). -/
def newerEpoch (e f : Nat) : Bool := let k := (e + 16 - f % 16) % 16; decide (1 ≤ k) && decide (k ≤ 7)

/-- The partner has been heard within 6 us: on the ring, on the lease link. -/
def Dev.ringHears (d : Dev) : Bool := (d.nodeSt d.partnerNode).beatAt.any fun t => decide (d.since t < 6000)
def Dev.linkHears (d : Dev) : Bool := d.net.link.any fun l => decide (d.since l.1 < 6000)

/-- TB of the partner's last heartbeat. -/
def Dev.lastHeard (d : Dev) : Nat := max ((d.nodeSt d.partnerNode).beatAt.getD 0) ((d.net.link.map (·.1)).getD 0)

/-- Commands that waited for the status that the active reports complete with their own. -/
def Dev.tellOwn (d : Dev) : Dev :=
  d.net.untold.foldl (fun d x => d.completeNow x.1 x.2.1 x.2.2.1 x.2.2.2) { d with net := { d.net with untold := [], told := [], due := [], gate := 0 } }

/-- Without a partner that is ACTIVE the unit becomes ACTIVE (R359). -/
def Dev.becomeActive (d : Dev) : Dev :=
  let net := { d.net with waitAt := none, sync := none, testOnly := false }
  ({ d with duplex := .active, net := net }).tellOwn.drvMasterAgain.markRole

/-- The drive frame for the next APPLY leaves at once, with TAKEOVER; where its period has not been computed it is now (R323, R365). -/
def Dev.takeoverFrame (d : Dev) : Dev :=
  let d := { d with linen := { d.linen with takeover := true } }
  let k := d.readTime / d.servoT + 1
  let d := if d.linenRuns && (decide (d.linen.cycle < k) || d.linen.frame.isNone) then
      ({ d with linen := { d.linen with cycle := max k d.linen.cycle } }).servoStep (max k d.linen.cycle) else d
  d.sendSetpoints

/-- Takeover (R365): 1 silence, 2 lease, 3 yield, 4 arbitration. -/
def Dev.takeover (d : Dev) (cause : Nat) : Dev :=
  if d.duplex != .standby then d
  else
    let heard := d.lastHeard
    let d := { d with duplex := .active, net := { d.net with arb := none, sync := none, tookOver := some heard, partner := 0, snapSent := false } }
    let d := (d.setEpoch (d.get Reg.RING_STAT.EPOCH + 1)).put Reg.RING_STAT.ARBITRATING 0
    let d := ((d.bump Reg.RING_CNT.TAKEOVERS).renewLease.leaseRecord 7).tellOwn
    let d := d.markRole.drvMasterAgain
    let d := if d.follower then d else d.takeoverFrame
    let fs := (d.chk.frames.filter fun r => !r.posted && r.tfFirst.any fun t => decide (t ≤ d.tb)).map fun r => (r.tag, r.frame)
    let d := d.findings fs vSuspect cTakeover
    let (ns, d) := d.draw 32
    d.post 0x7004 sevFault [d.partnerNode, cause, d.get Reg.RING_STAT.EPOCH, ns]

/-- A BEAT, PW or lease frame of the partner fences the unit (R362), or gives a unit that is not ACTIVE its epoch. -/
def Dev.fence (d : Dev) (epoch : Nat) (active : Bool) : Dev :=
  if !d.mode.printing then d
  else if !d.active then (if active then d.setEpoch epoch else d)
  else
    let own := d.get Reg.RING_STAT.EPOCH
    if newerEpoch epoch own then d.enterSyncing
    else if active && epoch == own then
      let d := d.post 0x700A sevFault [own, epoch]
      if d.on Reg.RING_NODE.UNIT then d.enterSyncing else d
    else d

/-- What a heartbeat of the partner says of its lease: a standby takes over on YIELD or LEASE_VALID = 0 (R363). -/
def Dev.leaseHeard (d : Dev) (valid yield : Bool) (rem : Nat) : Dev :=
  let d := { d with net := { d.net with leaseEnd := some (tbPlus d.tb rem) } }
  if !d.mode.printing then d else if yield then d.takeover 3 else if !valid then d.takeover 2 else d

/-- Entry to READY, once the partner's role is known (R359). -/
def Dev.partnerFound (d : Dev) (active : Bool) : Dev :=
  match d.net.waitAt with
  | none => d
  | some _ =>
    let d := { d with net := { d.net with waitAt := none } }
    if active || d.on Reg.RING_NODE.UNIT then ({ d with duplex := .active }).enterSyncing else d.becomeActive

/-- Entry to READY with PARTNER = 1: by the partner's role where it is heard, else the unit waits 100 ms for it. -/
def Dev.duplexEntry (d : Dev) : Dev :=
  if !d.duplexed then { d with duplex := .active }
  else
    let d := { d with duplex := .syncing, net := { d.net with waitAt := some d.tb } }.drvSlave
    if d.ringHears then d.partnerFound (d.nodeSt d.partnerNode).active
    else match d.net.link with
      | some l => if d.linkHears then d.partnerFound l.2.1 else d
      | none => d

/-- PARTNER_WAIT_TIMEOUT: no partner heard for 100 ms. -/
def execPartnerWaitTimeout (dt : Nat) (s : State) : Host.Outcome State Fault Refusal :=
  s.act dt fun d => if d.mode.printing && d.net.waitAt.any fun t => decide (100000000 ≤ d.since t) then d.becomeActive else d

/-- LEASE_PATH: 0 ring, 1 lease link; 0 lost, 1 restored. -/
def Dev.leasePath (d : Dev) (path : Nat) (up : Bool) : Dev :=
  let net := if path = 0 then { d.net with ringLost := !up } else { d.net with linkLost := !up }
  (({ d with net := net }).post 0x700B sevWarn [path, b2n up]).leaseRecord (2 + path + 2 * b2n up)

/-- PARTNER_SILENCE: a standby that hears its partner on neither path, or whose partner's lease has run out, takes over; one path alone is
posted. -/
def execPartnerSilence (dt : Nat) (s : State) : Host.Outcome State Fault Refusal :=
  s.act dt fun d =>
    if !d.duplexed || !d.mode.printing then d
    else
      let ring := d.ringHears
      let link := d.linkHears
      let d := (d.put Reg.RING_LEASE.RING_RX (b2n ring)).put Reg.RING_LEASE.LINK_RX (b2n link)
      let ranOut := d.net.leaseEnd.any fun t => decide (d.since t < 2 ^ 63)
      if !ring && !link then d.takeover 1
      else
        let d := if !ring && !d.net.ringLost && d.net.waitAt.isNone then d.leasePath 0 false else d
        let d := if !link && !d.net.linkLost && d.net.waitAt.isNone then d.leasePath 1 false else d
        if ranOut then d.takeover 2 else d

/-- LEASE_EXPIRY: no heartbeat sent on either path for 10 us while the partner is STANDBY. -/
def execLeaseExpiry (dt : Nat) (s : State) : Host.Outcome State Fault Refusal :=
  s.act dt fun d =>
    if d.duplexed && d.mode.printing && d.active && decide (d.net.partner = 2) && decide (10000 ≤ d.since d.net.leaseAt) then
      (d.leaseRecord 1).enterSyncing
    else d

/-! ## The lease link (R364) -/

/-- CRC-16/CCITT over bytes, from 0xFFFF. -/
def crc16 (bs : List Nat) : Nat :=
  bs.foldl (fun c b =>
    (List.range 8).foldl (fun c _ => if 0x8000 ≤ c then Nat.xor (c * 2 % 65536) 0x1021 else c * 2 % 65536) (Nat.xor c (b % 256 * 256))) 0xFFFF

/-- HANDOVER yields at line 0 of its frame (R370). -/
def Dev.yieldCheck (d : Dev) : Dev :=
  match d.net.yieldAt with
  | none => d
  | some (tag, f) =>
    match d.job? tag with
    | some j => if d.passed (j.frameStart f) then { d with net := { d.net with yield_ := true, yieldAt := none } } else d
    | none => { d with net := { d.net with yield_ := true, yieldAt := none } }

/-- LEASE_FRAME_SEND: every 2 us; it renews the lease. -/
def execLeaseFrameSend (dt : Nat) (s : State) : Host.Outcome State Fault Refusal :=
  s.act dt fun d =>
    if !d.duplexed || !d.mode.served || d.since d.net.leaseTx < 2000 then d
    else
      let d := d.renewLease.yieldCheck
      let act := d.active && d.mode.printing
      let b1 := b2n act + 2 * b2n d.net.yield_ + 4 * b2n (d.mode.printing && d.duplex == .standby)
        + 8 * b2n (act && d.on Reg.RING_STAT.LEASE_VALID)
      let bs := [d.node + 16 * d.get Reg.RING_STAT.EPOCH, b1] ++ leBytes 4 d.stamp ++ leBytes 2 d.leaseRem
      let c := crc16 bs
      ({ d with net := { d.net with leaseTx := d.tb } }).send (.lease ((true, 0xBC) :: (bs ++ leBytes 2 c).map fun b => (false, b)))

/-- LEASE_FRAME: the ten bytes of a lease frame; one with a bad CRC does not count. -/
def execLeaseFrame (dt : Nat) (bytes : List Byte) (s : State) : Host.Outcome State Fault Refusal :=
  s.act dt fun d =>
    let bs := natBytes bytes
    let b1 := leAt bs 1 1
    let epoch := leAt bs 0 1 / 16
    if !d.duplexed || !d.mode.served || decide (bs.length ≠ 10) || decide (leAt bs 8 2 ≠ crc16 (bs.take 8)) || decide (leAt bs 0 1 % 16 ≠ d.partnerNode) then d
    else
      let d := if d.net.linkLost then d.leasePath 1 true else d
      let net := { d.net with link := some (d.tb, bitOf b1 0, bitOf b1 1, bitOf b1 2, bitOf b1 3, leAt bs 6 2) }
      let d := ({ d with net := { net with partner := if bitOf b1 0 then 1 else if bitOf b1 2 then 2 else 3 } }).put Reg.RING_LEASE.LINK_RX 1
      let d := (d.partnerFound (bitOf b1 0)).fence epoch (bitOf b1 0)
      d.leaseHeard (bitOf b1 3) (bitOf b1 1) (leAt bs 6 2)

/-! ## BEAT (R351, R354) -/

/-- The roster's bits change: RING_ROSTER. -/
def Dev.setRoster (d : Dev) (present active : Nat) : Dev :=
  if present = d.get Reg.RING_ROSTER.PRESENT ∧ active = d.get Reg.RING_ROSTER.ACTIVE then d
  else ((d.put Reg.RING_ROSTER.PRESENT present).put Reg.RING_ROSTER.ACTIVE active).post 0x7001 sevInfo [present, active]

/-- BEAT_TIMER: every 2 us; it renews the lease where a ring port is UP. -/
def execBeatTimer (dt : Nat) (s : State) : Host.Outcome State Fault Refusal :=
  s.act dt fun d =>
    if !d.on Reg.RING_CFG.EN || !d.mode.served || d.since d.net.beatAt < 2000 then d
    else
      let d := if d.portIsUp 18 || d.portIsUp 19 then d.renewLease else d
      let d := d.yieldCheck
      let w1 := min 131071 d.horizon + 2 ^ 17 * b2n d.net.yield_ + 2 ^ 18 * d.get Reg.RING_HEALTH.PASS
        + 2 ^ 19 * b2n (d.active && d.mode.printing && d.on Reg.RING_STAT.LEASE_VALID) + 2 ^ 32 * d.leaseRem
      let d := d.ringSend 3 0 true [w1, d.chk.lastFrame + 2 ^ 32 * d.get Reg.CHK_LAST.TAG]
      { d with net := { d.net with beatAt := d.tb } }

/-- A BEAT of the partner. -/
def Dev.partnerBeat (d : Dev) (port : Nat) (h : RingHead) (words : List Nat) (old : NodeSt) : Dev :=
  let w1 := words.getD 1 0
  let w2 := words.getD 2 0
  let now := (bitOf w1 17, bitOf w1 18, bitOf w1 19)
  let d := if now ≠ (old.yield_, old.healthOk, old.leaseValid) then d.ringRecord port h words else d
  let d := if d.net.ringLost then d.leasePath 0 true else d
  let d := d.put Reg.RING_LEASE.RING_RX 1
  let d := match d.net.handover with
    | some t => if h.active && (newerEpoch h.epoch (d.get Reg.RING_STAT.EPOCH) || !d.active) then
        ({ d with net := { d.net with handover := none } }).complete t stOk 0 else d
    | none => d
  let d := (d.partnerFound h.active).fence h.epoch h.active
  let d := if d.active || !d.mode.printing then d else d.partnerPosted (bitsOf w2 32 8) (w2 % 2 ^ 32)
  d.leaseHeard (bitOf w1 19) (bitOf w1 17) (bitsOf w1 32 16)

/-- A BEAT message. -/
def Dev.beat (d : Dev) (port : Nat) (words : List (BitVec 64)) : Dev :=
  let (r, ws, d) := d.ringTake port 3 words
  match r with
  | none => d
  | some h =>
    let w1 := ws.getD 1 0
    let w2 := ws.getD 2 0
    let old := d.nodeSt h.src
    let d := d.modNode h.src fun _ => ⟨some d.tb, bitsOf w1 0 17, bitOf w1 17, bitOf w1 18, bitOf w1 19, bitsOf w1 32 16, h.epoch, h.active,
      w2 % 2 ^ 32, bitsOf w2 32 8, false⟩
    let present := setBit (d.get Reg.RING_ROSTER.PRESENT) h.src true
    let d := d.setRoster present (setBit (d.get Reg.RING_ROSTER.ACTIVE) h.src h.active)
    let d := if d.get Reg.RING_CFG.NODES < popCount present 16 + 1 then d.nodeConflict h.src 2 else d
    if d.duplexed && h.src == d.partnerNode then d.partnerBeat port h ws old else d

/-- A follower that leaves before its VERDICT of a frame whose line 0 fired while it was present makes that frame REJECT (R416). -/
def Dev.memberLeaves (d : Dev) (m : Nat) : Dev :=
  let open_ := (d.chk.frames.filter fun f => bitOf f.awaits m && !bitOf f.awaits (8 + m)).map fun f => (f.tag, f.frame)
  open_.foldl (fun d (t, f) => (d.finding t f vReject cFollower none none).modFrame t f fun r => { r with awaits := setBit r.awaits (8 + m) true }) d

/-- NODE_ABSENT: no BEAT of a node for 6 us. -/
def execNodeAbsent (dt : Nat) (n : Nat) (s : State) : Host.Outcome State Fault Refusal :=
  s.act dt fun d =>
    if 16 ≤ n || !d.on Reg.RING_CFG.EN || !d.mode.served || !bitOf (d.get Reg.RING_ROSTER.PRESENT) n
        || !((d.nodeSt n).beatAt.any fun t => decide (6000 ≤ d.since t)) then d
    else
      let present := setBit (d.get Reg.RING_ROSTER.PRESENT) n false
      let d := d.setRoster present (setBit (d.get Reg.RING_ROSTER.ACTIVE) n false)
      if d.follower || decide (n < 2) || decide (bitsOf present (2 * (n / 2)) 2 ≠ 0) then d else d.memberLeaves (n / 2)

/-! ## ROLL (R351, R355) -/

/-- ROLL_TIMER: every 1 ms. -/
def execRollTimer (dt : Nat) (s : State) : Host.Outcome State Fault Refusal :=
  s.act dt fun d => if d.on Reg.RING_CFG.EN && d.mode.served && decide (1000000 ≤ d.since d.net.rollAt) then d.sendRoll else d

/-- CFG_CRC as the partner has it: the same registers with the other UNIT. -/
def Dev.partnerCrc (d : Dev) : Nat := (d.put Reg.RING_NODE.UNIT (1 - d.get Reg.RING_NODE.UNIT)).cfgCrc

/-- The active sends SNAPSHOT to a partner that has begun to synchronise (R369). -/
def Dev.sendSnapshot (d : Dev) : Dev :=
  let one (d : Dev) (r : PartnerRec) : Dev := d.mirror 11 0 0 r
  let tab (d : Dev) (k i : Nat) (bs : List Nat) : Dev := one d (.table k i (bs.map (BitVec.ofNat 8)))
  let d := one d.dramReq (.identity (d.get Reg.GLB_ID.STEPPING) (d.get Reg.SVC_FW_VER.VERSION))
  let d := tab d 1 0 (nozzleBytes (d.gzBank 0))
  let d := (List.range 16).foldl (fun d i => tab d 7 i (stitchSetBytes (d.gzBank 1) i)) d
  let d := tab (tab d 11 0 (alignBytes (d.gzBank 2))) 9 0x20 d.gz.policy
  let d := tab (tab (tab d 9 0x21 d.link.policy) 9 0x22 d.linen.policy) 9 0x23 d.sense.policy
  let d := d.jobs.foldl (fun d j => one d (.job j.tag j.j0 j.frames j.scaleN j.scaleD (j.phase == .live))) d
  let d := if d.follower then d
    else
      let d := d.axesOn.foldl (fun d n => one d (.gear n (d.get (Reg.LINEN_AX_GN_n.GN n)) (d.get (Reg.LINEN_AX_GD_n.GD n)))) d
      one (one d (.linen d.linenImage)) (.edge d.pos.pw d.pos.rem d.pos.eHw)
  let d := one d (.mode d.mode.code)
  { d with net := { d.net with snapSent := true } }

/-- The partner's ROLL. -/
def Dev.partnerRoll (d : Dev) (w1 : Nat) : Dev :=
  if w1 / 2 ^ 32 ≠ d.partnerCrc then d.nodeConflict d.partnerNode 3
  else
    let role := bitsOf w1 20 2
    let d := { d with net := { d.net with partner := role, snapSent := d.net.snapSent && decide (role = 3) } }
    if role = 3 ∧ !d.net.snapSent ∧ d.active ∧ d.mode.printing then d.sendSnapshot else d

/-- ROLL: one of this ring with the own node number comes from another device where its SEQ is none of the own ROLLs of the last 1 ms. -/
def execRoll (dt : Nat) (port : Nat) (words : List (BitVec 64)) (s : State) : Host.Outcome State Fault Refusal :=
  s.act dt fun d =>
    let ws := words.map BitVec.toNat
    let h := headOf (ws.headD 0)
    let mine := d.net.rolls.any fun x => x.1 == h.seq && decide (d.since x.2 ≤ 1000000)
    let twin := d.ringPort port && decide (2 ≤ ws.length) && h.type == 1 && h.src == d.node && ws.getLastD 0 % 2 ^ 32 == ringCrc ws.dropLast
      && bitsOf (ws.headD 0) 48 16 == d.get Reg.RING_CFG.RING_ID && !mine
    let (r, body, d) := d.ringTake port 1 words
    if twin then d.nodeConflict d.node 1
    else match r with
      | some h => if d.duplexed && h.src == d.partnerNode then d.partnerRoll (body.getD 1 0) else d
      | none => d

/-! ## PW (R72, R73, R351, R356 to R358) -/

/-- PW_BROADCAST: each unit of member 0, at every whole microsecond of TB. -/
def execPwBroadcast (dt : Nat) (s : State) : Host.Outcome State Fault Refusal :=
  s.act dt fun d =>
    if !d.on Reg.RING_CFG.EN || !d.mode.served || d.on Reg.RING_NODE.MEMBER || decide (d.tb / 1000 = d.net.pwAt / 1000) then d
    else
      let (age, d) := match d.latest with
        | some x => (min 0xFFFFFFFF (d.since x.t), d)
        | none => d.draw 32
      let w2 := age + 2 ^ 32 * d.get Reg.POS_STATUS.HELD + 2 ^ 33 * d.get Reg.POS_STATUS.REG_LOST + 2 ^ 34 * d.get Reg.POS_STATUS.AT_REST
      let d := d.ringSend 2 0 true [d.pos.pw + 2 ^ 48 * (d.frac % 65536), w2, 0]
      { d with net := { d.net with pwAt := d.tb } }

/-- What HELD, REG_LOST and AT_REST of a broadcast do on a follower. -/
def Dev.pwFlagsTaken (d : Dev) (held lost rest : Bool) : Dev :=
  let wasHeld := d.on Reg.POS_STATUS.HELD
  let wasLost := d.on Reg.POS_STATUS.REG_LOST
  let d := (d.put Reg.POS_STATUS.HELD (b2n held)).put Reg.POS_STATUS.REG_LOST (b2n lost)
  let d := if held && !wasHeld then (d.findings d.framesUnfired vSuspect cPosition).dropEstimate else d
  let d := if lost && !wasLost then
      let d := d.findings d.framesUnfired vReject cPosition
      let d := match d.live? with
        | some j => d.finding j.tag (j.frameInPrint d.pos.pw) vReject cPosition none none
        | none => d
      d.dropEstimate
    else d
  if rest && !d.on Reg.POS_STATUS.AT_REST then (d.dropEstimate.put Reg.POS_STATUS.AT_REST 1).restCheck else d

/-- A broadcast feeds a follower's estimator: the sample's time is the arrival less PATH, the hop delay and AGE. The first one with a job
staged puts the follower in RUN (R31). With no sample before it, a broadcast of a web at rest that repeats the PW held adds none (log entry
154). -/
def Dev.followPw (d : Dev) (port : Nat) (h : RingHead) (words : List Nat) : Dev :=
  let w1 := words.getD 1 0
  let w2 := words.getD 2 0
  let late := (words.getD 3 0 % 2 ^ 32 + d.hopDelay port) / 32 + w2 % 2 ^ 32
  let pos := { d.pos with bcastAt := d.tb }
  let net := { d.net with activeAt := if h.active then d.tb else d.net.activeAt }
  let d := (({ d with pos := pos, net := net }).put Reg.RING_STAT.PW_SRC h.src).put Reg.POS_STATUS.POS_LOST 0
  let lost := bitOf w2 33
  let d := d.pwFlagsTaken (bitOf w2 32) lost (bitOf w2 34)
  let pw := bitsOf w1 0 48
  let frac := bitsOf w1 48 16
  let x : Sample := ⟨pw, frac, 65536, d.tb - late⟩
  let same := match d.latest with
    | some l => l.pw == pw && l.rem == frac
    | none => d.on Reg.POS_STATUS.AT_REST && d.pos.pw == pw
  let d := if same || d.on Reg.POS_STATUS.HELD then d
    else
      let d := (({ d with pos := { d.pos with rem := frac, d := 65536 } }).setPw pw x.t)
      let d := if lost then d else d.addSample x
      d.webReached.syncCheck
  match d.nextStaged with
  | some j => if d.mode = .ready ∧ d.active then (d.goLive j.tag j.origin false).positionReached.enterRun else d
  | none => d

/-- R358: a member-0 standby compares the active's broadcast with its own PW at the same edge. -/
def Dev.comparePw (d : Dev) (port : Nat) (words : List Nat) : Dev :=
  let t := d.tb - ((words.getD 3 0 % 2 ^ 32 + d.hopDelay port) / 32 + words.getD 2 0 % 2 ^ 32)
  let pw := bitsOf (words.getD 1 0) 0 48
  let near (p : Nat) : Bool := decide ((pwDiff pw p).natAbs ≤ 1)
  let next := (d.pos.pwLog.filter fun x => decide (t < x.1)).getLast?
  if d.duplex != .standby || near (d.pwAt t) || next.any fun x => near x.2 then d else d.enterSyncing

/-- A PW message has come on a ring port (R72, R357, R358). -/
def Dev.pwTaken (d : Dev) (port : Nat) (words : List (BitVec 64)) : Dev :=
  let (r, ws, d) := d.ringTake port 2 words
  match r with
  | none => d
  | some h =>
    if 2 ≤ h.src then d
    else if d.follower then
      (if h.active || decide (2000 ≤ d.since d.net.activeAt) then d.followPw port h ws else d)
    else if d.duplexed && h.src == d.partnerNode then
      let d := d.fence h.epoch h.active
      if h.active then d.comparePw port ws else d
    else d

/-- ACTIVE_PW_TIMEOUT: no broadcast with ACTIVE for 2 us: the follower takes those of the other unit of member 0. -/
def execActivePwTimeout (dt : Nat) (s : State) : Host.Outcome State Fault Refusal :=
  s.act dt fun d =>
    if d.mode.served && d.follower && decide (2000 ≤ d.since d.net.activeAt) then
      d.put Reg.RING_STAT.PW_SRC (match (List.range 2).find? fun n => bitOf (d.get Reg.RING_ROSTER.PRESENT) n && !(d.nodeSt n).active with
        | some n => n
        | none => d.get Reg.RING_STAT.PW_SRC)
    else d

/-! ## STOP_REQ, VERDICT (R356, R416) -/

/-- STOP_REQ at the master: as a STOP input, or as QUICK_STOP. -/
def execStopReq (dt : Nat) (port : Nat) (words : List (BitVec 64)) (s : State) : Host.Outcome State Fault Refusal :=
  s.act dt fun d =>
    let (r, ws, d) := d.ringTake port 4 words
    match r with
    | none => d
    | some h =>
      let d := d.ringRecord port h ws
      if d.follower || !d.active || !d.mode.printing then d
      else (if bitOf (ws.getD 1 0) 0 then d.quickStop else d.stopWeb).mirrorLinen.restCheck

/-- VERDICT of a follower's frame. -/
def execVerdictMessage (dt : Nat) (port : Nat) (words : List (BitVec 64)) (s : State) : Host.Outcome State Fault Refusal :=
  s.act dt fun d =>
    let (r, ws, d) := d.ringTake port 5 words
    match r with
    | none => d
    | some h =>
      let w1 := ws.getD 1 0
      let tag := bitsOf w1 0 8
      let f := bitsOf w1 8 32
      let v := bitsOf w1 40 2
      let d := d.ringRecord port h ws
      if d.follower || h.src < 2 || (d.job? tag).isNone then d
      else
        let d := d.modFrame tag f fun x => { x with awaits := setBit x.awaits (8 + h.src / 2) true }
        if (d.frame tag f).verdict < v then d.finding tag f v cFollower none none else d

/-! ## Hop delay (R353) -/

/-- A DELAY leaves on one port. The neighbour's node number is not known to it, so a request has BCAST (DESIGN CHOICE, log entry 158). -/
def Dev.delayOut (d : Dev) (port dst : Nat) (bcast : Bool) (payload : List Nat) : Dev :=
  let d := d.ringOut port (d.ringWord0 12 dst bcast (port - 18) :: payload)
  { d with net := { d.net with seqs := modAt d.net.seqs 12 fun n => (n + 1) % 65536 } }

/-- HOP_DELAY_MEASURE: 16 DELAY requests, after LANE_UP and every 1 ms. -/
def execHopDelayMeasure (dt : Nat) (port : Nat) (s : State) : Host.Outcome State Fault Refusal :=
  s.act dt fun d =>
    let last := d.net.hopAt.getD (port - 18) 0
    if !d.ringPort port || (decide (last ≠ 0) && decide (d.since last < 1000000)) then d
    else
      let d := { d with net := { d.net with asked := d.net.asked.filter (fun x => x.1 != port), hops := d.net.hops.filter fun x => x.1 != port } }
      (List.range 16).foldl (fun d _ => d.delayOut port 0 true [0, 0]) d

/-- DELAY: a request is answered with the residence; the 16 answers give the mean. -/
def execDelay (dt : Nat) (port : Nat) (words : List (BitVec 64)) (s : State) : Host.Outcome State Fault Refusal :=
  s.act dt fun d =>
    let (r, ws, d) := d.ringTake port 12 words
    match r with
    | none => d
    | some h =>
      if !bitOf (ws.getD 1 0) 0 then d.delayOut port h.src false [1 + 2 ^ 16 * h.seq, 0]
      else match d.net.asked.find? fun x => x.1 == port && x.2.1 == bitsOf (ws.getD 1 0) 16 16 with
        | none => d
        | some q =>
          let (f, d) := d.draw 5
          let hop := (32 * d.tb + f - q.2.2 - ws.getD 2 0 % 2 ^ 32) / 2
          let d := { d with net := { d.net with asked := d.net.asked.filter (fun x => x != q), hops := d.net.hops ++ [(port, hop)] } }
          let mine : List Nat := (d.net.hops.filter fun (x : Nat × Nat) => x.1 == port).map (fun x => x.2)
          if mine.length < 16 then d
          else
            let net := { d.net with hops := d.net.hops.filter (fun x => x.1 != port), hopAt := setAt d.net.hopAt (port - 18) (max 1 d.tb) }
            ({ d with net := net }).put (if port = 18 then Reg.RING_HOP_E.DLY else Reg.RING_HOP_W.DLY) (min 65535 (mine.foldl (· + ·) 0 / 16))

end Sys2Proof.Machine
end

