-- ==== Sys2Proof/Machine/DuplexUnit.lean ====
section
/-! DEFINITION. The duplex pair at work: line-check summaries and arbitration (R367, R368), the active's records (R361), resynchronisation
(R369), HANDOVER (R370), the standby test (R371). -/
namespace Sys2Proof.Machine

/-! ## Compare mode (R367, R368) -/

/-- The summaries of an LCS, by link. -/
def lcsLinks (mask : Nat) (words : List Nat) : List (Nat × Nat) :=
  let halves := (words.map fun w => [w % 2 ^ 32, w / 2 ^ 32 % 2 ^ 32]).flatten
  (maskList mask 16).zip halves

/-- LCS at a unit that is not ACTIVE. -/
def execLcs (dt : Nat) (port : Nat) (words : List (BitVec 64)) (s : State) : Host.Outcome State Fault Refusal :=
  s.act dt fun d =>
    let (r, ws, d) := d.ringTake port 6 words
    match r with
    | none => d
    | some h =>
      if !d.duplexed || h.src != d.partnerNode || d.active || !d.mode.printing then d
      else
        let w1 := ws.getD 1 0
        let x : Summary := ⟨bitsOf w1 40 8, w1 % 2 ^ 40, lcsLinks (bitsOf w1 48 16) (ws.drop 2)⟩
        ({ d with net := { d.net with theirs := d.net.theirs ++ [x] } }).compareSummary x.tag x.line

/-- A line that the old active has sent: its fire instant is less than TARGET_LEAD away, or past. -/
def Dev.sentByActive (d : Dev) (x : Nat × Nat) : Bool :=
  match d.job? x.1 with
  | none => false
  | some j => d.linksOn.any fun n => (List.range (d.rowsOf n)).any fun r =>
      d.passed (d.firePos n r j x.2) || (d.fireAt n r j x.2).any fun t => decide (t ≤ d.tb * 65536 + d.get Reg.LINK_LEAD.TARGET * 65536000)

/-- REJECT for every frame that holds one of a list of lines. -/
def Dev.mismatched (d : Dev) (ls : List (Nat × Nat)) : Dev :=
  ls.foldl (fun d (t, l) => match d.job? t with
    | some j => d.lineFinding j l vReject cMismatch none
    | none => d) d

/-- The outcome of an arbitration, once both results are there. -/
def Dev.arbOutcome (d : Dev) : Dev :=
  match d.net.arb with
  | none => d
  | some a =>
    match a.own, a.partner with
    | some own, some far =>
      let act := d.active
      let pa := bitOf (if act then own else far) 2
      let ps := bitOf (if act then far else own) 2
      let row := if pa then (if ps then 1 else 2) else if ps then 3 else 4
      let d := (({ d with net := { d.net with arb := none } }).put Reg.RING_STAT.ARBITRATING 0).post 0x7006 sevWarn [own, far, row]
      let d := match row with
        | 1 | 4 => d.mismatched a.lines
        | 3 => d.mismatched (a.lines.filter d.sentByActive)
        | _ => d
      match row, act with
      | 3, true => d.enterSyncing
      | 3, false => d.takeover 4
      | 2, false => d.enterSyncing
      | 4, false => d.enterSyncing
      | _, _ => d
    | _, _ => d

/-- MISMATCH at the active: its self-check starts, or the line joins. -/
def execMismatch (dt : Nat) (port : Nat) (words : List (BitVec 64)) (s : State) : Host.Outcome State Fault Refusal :=
  s.act dt fun d =>
    let (r, ws, d) := d.ringTake port 7 words
    match r with
    | none => d
    | some h =>
      if !d.duplexed || h.src != d.partnerNode then d
      else
        let w1 := ws.getD 1 0
        let d := d.ringRecord port h ws
        if !d.active || !d.mode.printing then d else (d.bump Reg.RING_CNT2.MISMATCH).arbitrate h.seq (bitsOf w1 40 8) (w1 % 2 ^ 40)

/-- SELF_CHECK_DONE: 5 us after its start, with what the residue check and the known-answer line gave. -/
def execSelfCheckDone (dt : Nat) (residue kat : Bool) (s : State) : Host.Outcome State Fault Refusal :=
  s.act dt fun d =>
    match d.net.arb with
    | none => d
    | some a =>
      if a.own.isSome || !d.mode.printing || decide (d.since a.at_ < 5000) then d
      else
        let w1 := b2n residue + 2 * b2n kat + 4 * b2n (residue && kat) + 2 ^ 16 * a.seq
        let d := ({ d with net := { d.net with arb := some { a with own := some w1 } } }).ringSend 8 d.partnerNode false [w1]
        d.arbOutcome

/-- ARBITER: the partner's result. -/
def execArbiter (dt : Nat) (port : Nat) (words : List (BitVec 64)) (s : State) : Host.Outcome State Fault Refusal :=
  s.act dt fun d =>
    let (r, ws, d) := d.ringTake port 8 words
    match r with
    | none => d
    | some h =>
      if !d.duplexed || h.src != d.partnerNode then d
      else
        let w1 := ws.getD 1 0
        let d := d.ringRecord port h ws
        match d.net.arb with
        | none => d
        | some a => if bitsOf w1 16 16 ≠ a.seq then d
          else ({ d with net := { d.net with arb := some { a with partner := some (w1 % 2 ^ 32) } } }).arbOutcome

/-- ARBITER_TIMEOUT: no result of the partner within 10 us counts as FAIL. -/
def execArbiterTimeout (dt : Nat) (s : State) : Host.Outcome State Fault Refusal :=
  s.act dt fun d =>
    match d.net.arb with
    | none => d
    | some a =>
      if a.partner.isSome || !d.mode.printing || decide (d.since a.at_ < 10000) then d
      else ({ d with net := { d.net with arb := some { a with partner := some 0 } } }).arbOutcome

/-! ## The active's records (R361, R369) -/

/-- A table as a load brings it, into the inactive bank. -/
def Dev.tableTaken (d : Dev) (kind inst : Nat) (bytes : List Nat) : Dev :=
  let pend (d : Dev) (bit : Nat) : Dev := ({ d with gz := { d.gz with pending := setBit d.gz.pending bit true } }).gzDue
  match kind with
  | 1 => pend (d.modIdle 0 fun b => (List.range (bytes.length / 8)).foldl (fun b i => b.setEntry i (leAt bytes (8 * i) 8)) b) 0
  | 7 => pend (d.modIdle 1 fun b => { b with stitches := kvPut b.stitches inst (stitchOf bytes) }) 1
  | 11 => pend (d.modIdle 2 fun b => { b with align := (List.range 64).foldl (fun l n =>
      putAlign l n (signedOf 32 (leAt bytes (8 * n) 4)) (signedOf 16 (leAt bytes (8 * n + 4) 2))) [] }) 2
  | 9 => ({ d with gz := { d.gz with policyNext := kvPut d.gz.policyNext inst bytes } }).gzDue
  | _ => d

/-- The active confirms F_join, and stage 3 begins (R369): the job is live at the active's J0, composition starts at line 0 of F_join, every
frame before it is the active's. -/
def Dev.joinConfirmed (d : Dev) (tag join : Nat) : Dev :=
  match d.net.sync, d.job? tag, d.net.jobs.find? fun j => j.1 == tag with
  | some s, some j, some (_, j0, _) =>
    if s.stage ≠ 2 then d
    else
      let d := { d with net := { d.net with sync := some { s with stage := 3, tag := tag, join := join } } }
      let d := d.syncStage 3 tag join
      let d := if j.phase = .staged ∧ d.live?.isNone then d.goLive tag j0 false else d
      let line := join * j.repeat_
      let links := d.link.links.map fun l => { l with rows := l.rows.map fun r => { r with next := some (tag, line) } }
      let d := { d with dmk := { d.dmk with front := some (tag, line) }, link := { d.link with links := links } }
      let d := d.modJob tag fun j => { j with markNext := join }
      (List.range join).foldl (fun d f => d.modFrame tag f fun r => { r with posted := true }) d
  | _, _, _ => d

/-- The lowest frame from `f` on whose line 0 Damask has not begun to compose. -/
def Dev.notBegun (d : Dev) (tag f : Nat) : Nat :=
  match d.dmk.front, d.job? tag with
  | some (t, l), some j => if t = tag then max f (cdiv l j.repeat_) else f
  | _, _ => f

/-- The partner's stepping or image differs (R355). -/
def Dev.sameImage (d : Dev) (stepping image : Nat) : Dev :=
  if stepping = d.get Reg.GLB_ID.STEPPING ∧ image = d.get Reg.SVC_FW_VER.VERSION then d else d.nodeConflict d.partnerNode 4

/-- One record of the active, on a unit that is not ACTIVE. -/
def Dev.recordTaken (d : Dev) (tag line : Nat) (r : PartnerRec) : Dev :=
  match r with
  | .identity stepping image => d.sameImage stepping image
  | .table kind inst bytes => d.tableTaken kind inst (natBytes bytes)
  | .nozzle _ _ | .align _ _ _ | .switch _ =>
    if tag = 0 ∨ (d.job? tag).isNone then (d.applyDecision r).gzDue
    else { d with net := { d.net with due := d.net.due ++ [(tag, line, r)] } }
  | .job t j0 frames n m live =>
    { d with net := { d.net with jobs := d.net.jobs.filter (fun j => j.1 != t) ++ [(t, j0, frames, n, m, live)] } }
  | .live t j0 =>
    let d := { d with net := { d.net with jobs := d.net.jobs.map fun j => if j.1 = t then (t, j0, j.2.2.1, j.2.2.2.1, j.2.2.2.2.1, true) else (j.1, j.2.1, j.2.2.1, j.2.2.2.1, j.2.2.2.2.1, false) } }
    if d.duplex = .standby ∧ d.live?.isNone ∧ (d.job? t).any (fun j => j.phase == .staged) then (d.goLive t j0 false).positionReached else d
  | .status op t code detail =>
    match d.net.untold.find? fun x => x.1.op == op && x.1.tag == t with
    | some x => ({ d with net := { d.net with untold := d.net.untold.filter fun y => y != x } }).completeNow x.1 code detail x.2.2.2
    | none => { d with net := { d.net with told := d.net.told ++ [(op, t, code, detail)] } }
  | .mode m => match m with
    | 4 => if d.mode = .run ∨ d.mode = .hold then d.goto .ready else d
    | 5 => if d.mode = .ready ∨ d.mode = .hold then d.enterRun else d
    | 6 => if d.mode = .run then d.goto .hold else d
    | _ => d
  | .linen l =>
    if d.follower ∨ l.period < d.linen.cycle then d
    else if l.period = d.linen.cycle then d.takeLinen l
    else { d with linen := { d.linen with mirrored := some l } }
  | .gear n gn gd => if d.follower then d else (d.put (Reg.LINEN_AX_GN_n.GN n) gn).put (Reg.LINEN_AX_GD_n.GD n) gd
  | .camSlot pos n table =>
    if d.follower then d else (d.schedule 5 ⟨pos, .camStart n table, .servo⟩).getD d
  | .linenReg off v => if d.follower then d else { d with linen := { d.linen with next := d.linen.next ++ [(off, v)] } }
  | .edge pw rem e => if d.follower then d else { d with net := { d.net with edge := some (pw, rem, e) } }
  | .join t f => d.joinConfirmed t f
  | .part => d

/-- A MIRROR, DECISION or SNAPSHOT of at most 64 payload words: whether it is the partner's and taken, and what it leaves. `r` is what the
image reads in it. -/
def Dev.partnerMsg (d : Dev) (port type : Nat) (words : List (BitVec 64)) (tag line : Nat) (r : PartnerRec) : Bool × Dev :=
  let (g, _, d) := d.ringTake port type words
  match g with
  | none => (false, d)
  | some h =>
    if !d.duplexed || h.src != d.partnerNode || !d.mode.printing || 66 < words.length then (false, d)
    else if d.active then
      (true, match r with
        | .join t f => if (d.job? t).isSome then d.mirror 9 0 0 (.join t (d.notBegun t f + 1)) else d
        | .identity stepping image => d.sameImage stepping image
        | _ => d)
    else (true, d.recordTaken tag line r)

/-- MIRROR: the active's state. A record that names the lowest frame a SYNCING unit holds is answered with F_join. -/
def execMirror (dt : Nat) (port : Nat) (words : List (BitVec 64)) (tag line : Nat) (r : PartnerRec) (s : State) :
    Host.Outcome State Fault Refusal := s.act dt fun d => (d.partnerMsg port 9 words tag line r).2.nameJoin

/-- DECISION: what takes effect at the line it names. -/
def execDecision (dt : Nat) (port : Nat) (words : List (BitVec 64)) (tag line : Nat) (r : PartnerRec) (s : State) :
    Host.Outcome State Fault Refusal := s.act dt fun d => (d.partnerMsg port 10 words tag line r).2

/-- SNAPSHOT: with its last record, the device state, stage 2 begins. The unit names its own stepping and image in answer (DESIGN CHOICE, log
entry 159). -/
def execSnapshot (dt : Nat) (port : Nat) (words : List (BitVec 64)) (tag line : Nat) (r : PartnerRec) (s : State) :
    Host.Outcome State Fault Refusal :=
  s.act dt fun d =>
    let (taken, d) := d.partnerMsg port 11 words tag line r
    if !taken || d.active then d
    else match r, d.net.sync with
      | .identity _ _, _ => d.partnerSend 9 0 0 (.identity (d.get Reg.GLB_ID.STEPPING) (d.get Reg.SVC_FW_VER.VERSION))
      | .mode _, some y =>
        if y.stage = 1 then
          (({ d with net := { d.net with sync := some { y with stage := 2, snapped := true } } }).syncStage 2 0 0).nameJoin
        else d
      | _, _ => d

/-! ## HANDOVER (R370) -/

/-- What HANDOVER does, when it applies (R91). -/
def Dev.handover (d : Dev) (t : Ticket) (x : Desc) : Dev :=
  match valueExtra x [0, 0, 0, 0] with
  | some w => d.complete t stBadParam w
  | none =>
    if !d.duplexed || !d.active || decide (d.net.partner ≠ 2) || d.net.handover.isSome then d.complete t stRefused d.mode.code
    else
      let at_ := match d.dmk.front with
        | some (tag, l) => (d.job? tag).map fun j => (tag, cdiv l j.repeat_)
        | none => d.live?.map fun j => (j.tag, j.frameInPrint d.pos.pw + 1)
      let net := { d.net with handover := some t, yieldAt := at_ }
      { d with net := { net with yield_ := at_.isNone } }

/-- HANDOVER: YIELD at line 0 of the next frame that Damask has not begun. -/
def execHandover (dt : Nat) (ring : Nat) (x : Desc) (s : State) : Host.Outcome State Fault Refusal :=
  s.act dt fun d => d.onParam ring x (· == 0x7001) [.run, .hold] true fun d t => d.handover t x

/-! ## STANDBY_TEST (R371) -/

/-- STANDBY_TEST: every 100 ms with CONTINUOUS, with what the residue check and the known-answer line gave. -/
def execStandbyTest (dt : Nat) (residue kat : Bool) (s : State) : Host.Outcome State Fault Refusal :=
  s.act dt fun d =>
    if !d.duplexed || !d.mode.printing || d.active || !d.on Reg.RING_CFG.STBY_TEST || decide (d.since d.net.testAt < 100000000) then d
    else
      let links := d.linksOn.all fun n => d.portIsUp n && decide ((d.lk n).fit = 2)
      let lease := d.linkHears
      let pass := residue && kat && links && lease
      let d := ((d.put Reg.RING_HEALTH.PASS (b2n pass)).put Reg.RING_HEALTH.RESIDUE (b2n residue)).put Reg.RING_HEALTH.KAT (b2n kat)
      let d := ((d.put Reg.RING_HEALTH.LINKS (b2n links)).put Reg.RING_HEALTH.LEASE (b2n lease)).bump Reg.RING_HEALTH.TESTS
      let word := b2n pass + 2 * b2n residue + 4 * b2n kat + 8 * b2n links + 16 * b2n lease + 2 ^ 16 * d.get Reg.RING_HEALTH.TESTS
      let d := ({ d with net := { d.net with testAt := d.tb } }).post 0x7008 sevInfo [word]
      if pass then (if d.net.testOnly then d.enterStandby 0 0 else d)
      else
        let d := (d.bump Reg.RING_CNT3.TEST_FAILS).post 0x7009 sevWarn [word]
        if d.duplex != .standby then d
        else
          let d := d.enterSyncing
          { d with net := { d.net with testOnly := true } }

end Sys2Proof.Machine
end

