-- ==== Sys2Proof/Machine/Clocks.lean ====
section
/-! DEFINITION. Clocks, one-sided resets and the calibration of the fire-timing delay lines (R425 to R444). -/
namespace Sys2Proof.Machine

/-! ## One-sided resets and the PCIE domain (R436 to R438) -/

/-- A side outside CORE has been reset alone: the generation counts of its control-class crossings, and SAFE with cause 5. -/
def Dev.oneSided (d : Dev) (ns : List Nat) (n loc : Nat) : Dev :=
  (ns.foldl (fun (d : Dev) k => d.wrap (Reg.SENSE_XING_n.GEN k)) d).enterSafe causeOneSided loc n

/-- The PCIE domain has been reset. -/
def Dev.pcieReset (d : Dev) : Dev :=
  (d.flushPcie.configReset).oneSided [1, 2] 1 (d.loc 0 0 0 1 0 0)

/-- PCIE_SIDE_RESET: a hot reset, a link down or a link disable. -/
def execPcieSideReset (dt : Nat) (s : State) : Host.Outcome State Fault Refusal :=
  s.act dt fun d => if d.mode = .off ∨ !d.on Reg.SENSE_CLK_STAT.LOCK_PCIE then d else d.pcieReset

/-- The owner of the CORE side of crossing 5, tile 0, which the spec leaves open among the engines of R25: tile 5 of it. -/
def Dev.ownerLoc (d : Dev) : Nat :=
  let c := Config.crossingOwner / 256 % 6
  d.loc 0 c (Config.crossingOwner % 256 % enginesOf c) 5 0 0

/-- SVC_WATCHDOG: the service processor's domain alone is reset; characters in crossing 15 are lost, the monitor sessions end. -/
def execSvcWatchdog (dt : Nat) (s : State) : Host.Outcome State Fault Refusal :=
  s.act dt fun d =>
    if d.mode = .off ∨ !d.svc.up then d
    else
      let d := (d.flushXing 15 1).lockSession 0 |>.lockSession 1
      d.oneSided [5, 6] 5 d.ownerLoc

/-! ## PLLs (R427) -/

/-- The AUX PLL is lost: both Ethernet ports are as with their link down. -/
def Dev.auxLost (d : Dev) : Dev :=
  let drop (d : Dev) (p : Nat) : Dev := if d.on (Reg.TIME_PORT_CNT_p.LINK p) then d.ethLost p else d
  drop (drop (d.put Reg.SENSE_CLK_STAT.LOCK_AUX 0) 0) 1

/-- The CORE, TB, SVC or DRAM PLL is lost: the asynchronous path holds the outputs, and the fault is fatal. -/
def Dev.corePllLost (d : Dev) : Dev :=
  let d := { d with clk := { d.clk with asyncHold := true } }
  (d.driveHold (some false)).psoReset.portsIdle.fatal (d.loc 0 4 8 1 0 0)

/-- A bit of SENSE_CLK_STAT. -/
def clkBit (i : Nat) : Fld :=
  [Reg.SENSE_CLK_STAT.CREF_OK, Reg.SENSE_CLK_STAT.TREF_OK, Reg.SENSE_CLK_STAT.LOCK_CORE, Reg.SENSE_CLK_STAT.LOCK_TB,
    Reg.SENSE_CLK_STAT.LOCK_SVC, Reg.SENSE_CLK_STAT.LOCK_DRAM, Reg.SENSE_CLK_STAT.LOCK_PCIE, Reg.SENSE_CLK_STAT.LOCK_LANE].getD i
    Reg.SENSE_CLK_STAT.LOCK_AUX

/-- PLL_LOCK_LOSS: the bit of SENSE_CLK_STAT that falls, and for a lane PLL the ports on it. -/
def execPllLockLoss (dt : Nat) (pll ports : Nat) (s : State) : Host.Outcome State Fault Refusal :=
  s.act dt fun d =>
    if d.mode = .off ∨ pll = 1 ∨ 8 < pll ∨ !d.on (clkBit pll) ∨ !d.svc.pllsLocked then d
    else
      let d := (d.put (clkBit pll) 0)
      let d := { d with clk := { d.clk with relockAt := d.tb } }
      match pll with
      | 0 => (([2, 3, 4, 5].foldl (fun (d : Dev) i => d.put (clkBit i) 0) d).corePllLost).auxLost
      | 6 => { d with host := { d.host with linkWidth := 0, linkSpeed := 0 } }.pcieReset
      | 7 => ((List.range 20).filter fun p => bitOf ports p && d.on (Reg.LANE_PORT_CFG_p.EN p)
          && decide (d.get (Reg.LANE_PORT_STAT_p.STATE p) ≠ 9)).foldl (fun (d : Dev) p => d.portDown p 1 (clockMacro p)) d
      | 8 => d.auxLost
      | _ => d.corePllLost

/-- PLL_RELOCK_ATTEMPT: the bits of SENSE_CLK_STAT that are good again. Without CREF no PLL that it feeds locks. -/
def execPllRelockAttempt (dt : Nat) (good : Nat) (s : State) : Host.Outcome State Fault Refusal :=
  s.act dt fun d =>
    if d.mode = .off ∨ !d.svc.pllsLocked ∨ d.since d.clk.relockAt < 10000000 ∨ [0, 2, 3, 4, 5, 6, 7, 8].all (fun i => d.on (clkBit i)) then d
    else
      let d := { d with clk := { d.clk with relockAt := d.tb } }
      let d := if bitOf good 0 then d.put Reg.SENSE_CLK_STAT.CREF_OK 1 else d
      let fed := if d.on Reg.SENSE_CLK_STAT.CREF_OK then [2, 3, 4, 5, 6, 7, 8] else [6, 7]
      let aux := d.on Reg.SENSE_CLK_STAT.LOCK_AUX
      let d := (fed.filter (bitOf good ·)).foldl (fun (d : Dev) i => d.put (clkBit i) 1) d
      if d.on Reg.SENSE_CLK_STAT.LOCK_AUX && !aux then
        { d with sense := { d.sense with mods := d.sense.mods.map fun m => { m with validAt := d.tb } } }
      else d

/-! ## Calibration runs (R440 to R443) -/

/-- The twins that a run calibrates, as 2 x line + twin: both, or the one not in service. -/
def Dev.calTwins (d : Dev) (r : CalRun) : List Nat :=
  if r.both then List.range 76 else (List.range 38).map fun l => 2 * l + b2n (!bitOf d.clk.inB l)

/-- The readings of the die sensors at the latest sample. -/
def Dev.dieTemps (d : Dev) : List Int := ((d.sense.hist.head?.map (·.2)).getD []).take 16

/-- The largest change from one set of readings to another, in 0.25 C. -/
def tempChange (now old : List Int) : Int :=
  ((now.zip old).map fun (a, b) => a - b).foldl (fun m x => if m.natAbs < x.natAbs then x else m) 0

/-- A die sensor has moved by more than CAL_DT (R441). -/
def Dev.calTrigger (d : Dev) (old : List Int) : Bool :=
  let t := d.get Reg.SENSE_CAL_CFG.CAL_DT
  decide (t ≠ 0) && decide (4 * t < (tempChange d.dieTemps old).natAbs)

/-- A run ends: its counts, its event, its CAL_NOW commands. -/
def Dev.calDone (d : Dev) (r : CalRun) (cause line : Nat) : Dev :=
  let fail := b2n (decide (cause ≠ 0))
  let d := (d.put Reg.SENSE_CAL_STAT.RUNNING 0).bump Reg.SENSE_CAL_STAT.RUNS
  let d := if r.trigger = 0 then { d with svc := { d.svc with durations := setAt d.svc.durations 6 (d.since r.at_ / 1000) } } else d
  let d :=
    if cause = 0 then
      let clk := { d.clk with cal := none, passTemps := r.temps, failed := none, swapDue := if r.both then d.clk.swapDue else 2 ^ 38 - 1 }
      ({ d with clk := clk }.put Reg.SENSE_CAL_STAT.PASS 1).put Reg.SENSE_CAL_TEMP.TEMP
        (fieldOf 16 (r.temps.foldl (fun m x => if m < x then x else m) (r.temps.headD 0)))
    else
      let clk := { d.clk with cal := none, trims := if r.trigger = 0 then d.clk.trims else r.saved, failed := some (d.tb, r.trigger) }
      ((({ d with clk := clk }.put Reg.SENSE_CAL_STAT.PASS 0).put Reg.SENSE_CAL_STAT.CAUSE cause).put Reg.SENSE_CAL_STAT.LINE line).bump
        Reg.SENSE_CAL_TEMP.FAILS
  let d := d.post 0x6040 (if cause = 0 then sevInfo else sevWarn) [fail + 16 * cause, r.rounds, line, r.trigger, fieldOf 32 r.delta]
  r.tickets.foldl (fun (d : Dev) t => d.complete t stOk (fail + 16 * cause)) d

/-- A run starts; with no TREF it fails at once. -/
def Dev.calStart (d : Dev) (trigger : Nat) (both : Bool) (temps : List Int) (tickets : List Ticket) : Dev :=
  let r : CalRun := ⟨trigger, both, 0, temps, tempChange temps d.clk.passTemps, [], tickets, d.clk.trims, d.tb⟩
  if !d.on Reg.SENSE_CLK_STAT.TREF_OK then d.calDone r 1 0
  else { (d.put Reg.SENSE_CAL_STAT.RUNNING 1) with clk := { d.clk with cal := some r } }

/-- The temperature test at a thermal sample. A failed run is left to CAL_RETRY. -/
def Dev.calTest (d : Dev) : Dev :=
  if d.clk.cal.isSome || d.clk.passTemps.isEmpty || d.clk.failed.any (fun f => f.2 == 1) || !d.calTrigger d.clk.passTemps then d
  else d.calStart 1 false d.dieTemps []

/-- At the end of a passing run the test is made again against its start readings; a failed run is left to CAL_RETRY. -/
def Dev.calEnd (d : Dev) (r : CalRun) (cause line : Nat) : Dev :=
  let d := d.calDone r cause line
  if decide (cause = 0) && d.calTrigger r.temps then d.calStart 1 false d.dieTemps [] else d

/-- A tap's width lies within 23.4 to 39.1 ps: count x 31.25 / 2,048. -/
def tapGood (count : Nat) : Bool := decide (2340 * 2048 ≤ 3125 * count) && decide (3125 * count ≤ 3910 * 2048)

/-- The largest integral error is at most 15.6 ps. -/
def inlGood (counts : List Nat) : Bool :=
  (List.range 32).all fun i => decide
    ((((3125 * (counts.take (i + 1)).foldl (· + ·) 0 : Nat) : Int) - ((3125 * 2048 * (i + 1) : Nat) : Int)).natAbs ≤ 1560 * 2048)

/-- A twin passes. -/
def twinGood (counts : List Nat) : Bool := counts.all tapGood && inlGood counts

/-- Insert a count into a list that falls. -/
def insertFalling (c : Nat) : List Nat → List Nat
  | [] => [c]
  | a :: t => if a ≤ c then c :: a :: t else a :: insertFalling c t

/-- More than half of the edges fall in fewer than 8 taps. -/
def spreadBad (counts : List Nat) : Bool := decide (32768 < ((counts.foldr insertFalling []).take 7).foldl (· + ·) 0)

/-- The trims of a tap; a step toward the target, or none left. -/
def stepTrim (wide : Bool) (t : Nat × Nat) : Option (Nat × Nat) :=
  let move (x : Nat) : Option Nat := if wide then (if x = 0 then none else some (x - 1)) else (if 15 ≤ x then none else some (x + 1))
  match move t.1, move t.2 with
  | some a, _ => some (a, t.2)
  | none, some b => some (t.1, b)
  | none, none => none

/-- The taps of a twin that are out of limits move their trims; the flag says that one has none left. -/
def trimTwin (trims : List (Nat × (Nat × Nat))) (twin : Nat) (counts : List Nat) : List (Nat × (Nat × Nat)) × Bool :=
  ((List.range 32).zip counts).foldl (fun (acc : List (Nat × (Nat × Nat)) × Bool) (i, c) =>
    if tapGood c then acc
    else
      let k := 32 * twin + i
      match stepTrim (decide (2048 < c)) ((kvGet acc.1 k).getD (8, 8)) with
      | some t => (if t = (8, 8) then kvDel acc.1 k else kvPut acc.1 k t, acc.2)
      | none => (acc.1, true)) (trims, false)

/-- CAL_ROUND_DONE: the tap counts of every twin under calibration, by 2 x line + twin. -/
def execCalRoundDone (dt : Nat) (counts : List (Nat × List Nat)) (s : State) : Host.Outcome State Fault Refusal :=
  s.act dt fun d =>
    match d.clk.cal with
    | none => d
    | some r =>
      let twins := (d.calTwins r).filter fun k => !r.passed.contains k
      let of (k : Nat) : List Nat := ((counts.find? fun x => x.1 == k).map (·.2)).getD []
      if !twins.all fun k => decide ((of k).length = 32) && decide ((of k).foldl (· + ·) 0 = 65536) then d
      else
        let r : CalRun := { r with rounds := r.rounds + 1 }
        match twins.find? fun k => spreadBad (of k) with
        | some k => d.calEnd r 2 (k / 2)
        | none =>
          let (trims, stuck) := twins.foldl (fun (acc : List (Nat × (Nat × Nat)) × Option Nat) k =>
            let (t, b) := trimTwin acc.1 k (of k)
            (t, if b && acc.2.isNone then some k else acc.2)) (d.clk.trims, none)
          let d := { d with clk := { d.clk with trims := trims } }
          match stuck with
          | some k => d.calEnd r 3 (k / 2)
          | none =>
            let r : CalRun := { r with passed := r.passed ++ twins.filter fun k => twinGood (of k) }
            match twins.find? fun k => !twinGood (of k) with
            | none => d.calEnd r 0 0
            | some k => if 8 ≤ r.rounds then d.calEnd r 4 (k / 2) else { d with clk := { d.clk with cal := some r } }

/-- What CAL_NOW does, when it applies (R91). -/
def Dev.calNow (d : Dev) (t : Ticket) (x : Desc) : Dev :=
  match valueExtra x [0, 0, 0, 0] with
  | some w => d.complete t stBadParam w
  | none =>
    match d.clk.cal with
    | some r => { d with clk := { d.clk with cal := some { r with tickets := r.tickets ++ [t] } } }
    | none => d.calStart 2 (d.mode == .setup) d.dieTemps [t]

/-- CAL_NOW: PARAM 0x6801. In SETUP it calibrates both twins. -/
def execCalNow (dt : Nat) (ring : Nat) (x : Desc) (s : State) : Host.Outcome State Fault Refusal :=
  s.act dt fun d => d.onParam ring x (· == 0x6801) allServed true fun d t => d.calNow t x

/-- CAL_RETRY: 1 s after a failed run whose trigger holds. -/
def execCalRetry (dt : Nat) (s : State) : Host.Outcome State Fault Refusal :=
  s.act dt fun d =>
    match d.clk.failed, d.clk.cal with
    | some (t, 1), none =>
      if d.mode = .off ∨ d.since t < 1000000000 then d
      else if d.calTrigger d.clk.passTemps then d.calStart 1 false d.dieTemps []
      else { d with clk := { d.clk with failed := none } }
    | _, _ => d

/-- TWIN_SWAP: a line swaps at the first instant at which it is not in use (R441). -/
def execTwinSwap (dt : Nat) (line : Nat) (s : State) : Host.Outcome State Fault Refusal :=
  s.act dt fun d =>
    if d.mode = .off ∨ 38 ≤ line ∨ !bitOf d.clk.swapDue line ∨ d.clk.cal.isSome then d
    else { d with clk := { d.clk with swapDue := setBit d.clk.swapDue line false, inB := setBit d.clk.inB line (!bitOf d.clk.inB line) } }

/-! ## TREF (R425) -/

/-- TREF_LOST: no edge for 1 us; a run in progress fails. -/
def execTrefLost (dt : Nat) (s : State) : Host.Outcome State Fault Refusal :=
  s.act dt fun d =>
    if d.mode = .off ∨ !d.on Reg.SENSE_CLK_STAT.TREF_OK then d
    else
      let d := (d.put Reg.SENSE_CLK_STAT.TREF_OK 0).post 0x6042 sevWarn [0]
      match d.clk.cal with
      | some r => d.calEnd r 1 0
      | none => d

/-- TREF_RESTORED. -/
def execTrefRestored (dt : Nat) (s : State) : Host.Outcome State Fault Refusal :=
  s.act dt fun d =>
    if d.mode = .off ∨ d.on Reg.SENSE_CLK_STAT.TREF_OK then d
    else (d.put Reg.SENSE_CLK_STAT.TREF_OK 1).post 0x6042 sevWarn [1]

end Sys2Proof.Machine
end

