-- ==== Sys2Proof/Machine/Dram.lean ====
section
/-! DEFINITION. The DRAM controller's schedule in a pseudo-channel (R395 to R398), row disturbance (R400) and the refresh slots (R401).
`State.mem` is the stack with the queued writes over it: a read takes from the write queue what it finds there (R396), so which writes still
wait is never seen in the data. -/
namespace Sys2Proof.Machine

/-! ## Row disturbance (R400) -/

/-- The 32 ms window that `t` lies in begins: counts and throttles return to 0. -/
def Dev.rowRoll (d : Dev) (t : Nat) : Dev :=
  let w := t / 32000000
  if w ≤ d.ecc.window then d
  else { (d.put Reg.MEM_DRAM_ROWACT.THROTTLED 0) with ecc := { d.ecc with acts := [], window := w } }

/-- ROW_WINDOW_END: a 32 ms window ends. -/
def execRowWindowEnd (dt : Nat) (s : State) : Host.Outcome State Fault Refusal :=
  s.act dt fun d => if d.mode = .off then d else d.rowRoll d.tb

/-- The open row of a bank. -/
def DramChan.open_ (c : DramChan) (bank : Nat) : Option Nat := kvGet c.rows bank

/-- Change a pseudo-channel. -/
def Dev.setPchan (d : Dev) (p : Nat) (c : DramChan) : Dev := { d with ecc := { d.ecc with chans := setAt d.ecc.chans p c } }

def Dev.pchan (d : Dev) (p : Nat) : DramChan := d.ecc.chans.getD p ⟨[], [], [], false, [], 0, 0⟩

/-- A row is activated for a request. The activation above 4,096 in the window refreshes the rows beside it, posts DRAM_ROW_ACT and
throttles the port. The controller's own activations of those rows are not counted (DESIGN CHOICE,
log entry 100). -/
def Dev.activate (d : Dev) (p : Nat) (r : DramReq) : Dev :=
  let bank := dramBank r.addr
  let row := dramRow r.addr
  let c := d.pchan p
  let d := (d.setPchan p { c with rows := kvPut c.rows bank row }).send (.dram p (.activate bank row))
  let key := 32 * (r.addr / 2 ^ 15) + p
  let n := (kvGet d.ecc.acts key).getD 0 + 1
  let d := { d with ecc := { d.ecc with acts := kvPut d.ecc.acts key n } }
  if n ≠ 4097 then d
  else
    let thr := d.get Reg.MEM_DRAM_ROWACT.THROTTLED
    let d := if bitOf thr r.port then d else
      (d.put Reg.MEM_DRAM_ROWACT.THROTTLED (setBit thr r.port true)).bump (Reg.MEM_DRAM_PCNT_n.THROTTLES r.port)
    (d.bump Reg.MEM_DRAM_ROWACT.EVENTS).postAt 0xC011 sevWarn [row, r.port, n] (d.dramLoc r.addr 0)

/-! ## The write queue (R396, R398) -/

def sameBurst (x y : DramReq) : Bool := x.addr / 32 == y.addr / 32

/-- A write comes to the queue: it replaces one to the same burst; where the queue is full it waits. -/
def DramChan.write (c : DramChan) (r : DramReq) : DramChan :=
  if c.writes.any (sameBurst r) then { c with writes := c.writes.map fun w => if sameBurst r w then r else w }
  else if c.writes.length < 64 ∧ c.waiting = [] then { c with writes := c.writes ++ [r] }
  else { c with waiting := c.waiting ++ [r] }

/-- The first writer that waits takes the place that a write left. -/
def DramChan.takeIn (c : DramChan) : DramChan :=
  match c.waiting with
  | [] => c
  | r :: l => { ({ c with waiting := [] }).write r with waiting := l }

/-- Start or end of a write drain. -/
def DramChan.drain (c : DramChan) (panic : Bool) : DramChan :=
  let n := c.writes.length
  { c with draining := if c.draining then decide (16 < n) else decide ((if panic then 64 else 48) ≤ n) }

/-- A port asks: it ends self-refresh, unless it is patrol scrub (R404). -/
def Dev.dramAsk (d : Dev) (p t : Nat) (r : DramReq) : Dev :=
  let d := if r.port = 10 then d else
    { d.dramWake with ecc := { d.dramWake.ecc with lastReq := max d.ecc.lastReq t } }
  let c := d.pchan p
  if r.write then
    let e := (c.write r).drain (d.on Reg.MEM_DRAM_STAT.PANIC)
    let d := d.setPchan p e
    if c.writes.length < 64 ∧ e.writes.length = 64 then d.bump Reg.MEM_DRAM_WQ.FULL else d
  else d.setPchan p { c with reads := c.reads ++ [⟨r, t, 0⟩] }

/-! ## The next command (R397) -/

/-- What the next command of a pseudo-channel is: a refresh, the read or the write at a place of its queue, or none. -/
inductive DramPick where
  | refresh
  | read (i : Nat)
  | write (i : Nat)
  | none_
  deriving DecidableEq, Repr

/-- Older reads that a row hit at place `k` would go ahead of: those of its port to its bank. -/
def DramChan.passes (c : DramChan) (k : Nat) (r : DramReq) : List DramWait :=
  (c.reads.take k).filter fun x => x.req.port == r.port && dramBank x.req.addr == dramBank r.addr

/-- The read of rule 6: the oldest of the highest priority; with `hit`, a read behind it to the same bank that hits the open row, where no
read that it goes ahead of has been passed 16 times. -/
def DramChan.pickRead (c : DramChan) (ok : DramReq → Bool) (hit : Bool) : Option Nat :=
  let ports := (c.reads.filter fun x => ok x.req).map (·.req.port)
  let top := ports.foldl min 10
  match c.reads.findIdx? fun x => ok x.req && x.req.port == top with
  | none => none
  | some i =>
    let bank := dramBank ((c.reads.map (·.req.addr)).getD i 0)
    let first := c.reads.findIdx? fun x =>
      ok x.req && x.req.port == top && dramBank x.req.addr == bank && c.open_ bank == some (dramRow x.req.addr)
    match first with
    | some k => if hit && (c.passes k ⟨top, false, (c.reads.map (·.req.addr)).getD k 0⟩).all (·.passed < 16) then some k else some i
    | none => some i

/-- The first rule that applies. `ok` says which requests no throttle holds. -/
def DramChan.pick (c : DramChan) (owed limit : Nat) (panic : Bool) (t : Nat) (ok : DramReq → Bool) (hit : Bool) : DramPick :=
  let read (p : DramWait → Bool) : Option Nat := c.reads.findIdx? fun x => ok x.req && p x
  let oldest := (c.writes.findIdx? ok).elim .none_ .write
  if limit ≤ owed then .refresh
  else if c.idle then (if 0 < owed then .refresh else .none_)
  else match (if panic then read fun x => x.req.port == 0 else none) with
  | some i => .read i
  | none =>
    match read fun x => decide (10000 < t - x.since) with
    | some i => .read i
    | none =>
      if c.draining && (!panic || 64 ≤ c.writes.length) && oldest != .none_ then oldest
      else match c.pickRead ok hit with
      | some i => .read i
      | none => if c.reads.isEmpty then oldest else .none_

/-- A refresh issues: the pseudo-channel is unavailable for tRFC (R391), its banks precharged. -/
def Dev.dramRefresh (d : Dev) (p t : Nat) : Dev :=
  let c := d.pchan p
  let d := (d.setPchan p { c with busy := t + 350, rows := [] }).send (.dram p .refresh)
  { d with ecc := { d.ecc with owed := setAt d.ecc.owed p (d.ecc.owed.getD p 0 - 1) } }

/-- A request issues, with the activation that it needs. -/
def Dev.dramBurst (d : Dev) (p t : Nat) (r : DramReq) : Dev :=
  let bank := dramBank r.addr
  let row := dramRow r.addr
  let d := { d with ecc := { d.ecc with portAt := setAt d.ecc.portAt r.port t } }
  if (d.pchan p).open_ bank = some row then d.send (.dram p (.burst r))
  else
    let d := (d.activate p r).send (.dram p (.burst r))
    if kvGet d.ecc.acts (32 * (r.addr / 2 ^ 15) + p) = some 4097 then
      let c := d.pchan p
      (d.setPchan p { c with rows := c.rows.filter (·.1 != bank) }).send (.dram p (.neighbours bank row))
    else d

/-- A command issues, unless a refresh, a sweep or self-refresh holds the pseudo-channel. -/
def Dev.dramIssue (d : Dev) (p t : Nat) (hit : Bool) : Dev :=
  let d := d.rowRoll t
  let c := d.pchan p
  if t < c.busy ∨ d.on Reg.MEM_DRAM_STAT.TRAINING ∨ d.on Reg.MEM_DRAM_STAT.SELF_REF then d
  else
    let panic := d.on Reg.MEM_DRAM_STAT.PANIC
    let thr := d.get Reg.MEM_DRAM_ROWACT.THROTTLED
    let ok (r : DramReq) : Bool := !bitOf thr r.port || decide (d.ecc.portAt.getD r.port 0 + 1000 ≤ t)
    match c.pick (d.ecc.owed.getD p 0) (d.get Reg.MEM_DRAM_REF.LIMIT) panic t ok hit with
    | .none_ => d
    | .refresh => d.dramRefresh p t
    | .read i =>
      match c.reads[i]? with
      | none => d
      | some x =>
        let ahead := c.passes i x.req
        let hits := c.open_ (dramBank x.req.addr) == some (dramRow x.req.addr)
        let reads := c.reads.map fun y => if hits && ahead.contains y then { y with passed := y.passed + 1 } else y
        (d.setPchan p { c with reads := reads.eraseIdx i }).dramBurst p t x.req
    | .write i =>
      match c.writes[i]? with
      | none => d
      | some r =>
        let e := (({ c with writes := c.writes.eraseIdx i }).takeIn).drain panic
        (d.setPchan p e).dramBurst p t r

/-- What happens at a pseudo-channel between two of its slots. -/
def Dev.dramStep (d : Dev) (p : Nat) (x : DramStep) : Dev :=
  let at_ (ns : Nat) : Nat := min d.tb ((d.pchan p).last + ns)
  let mark (d : Dev) (t : Nat) : Dev := d.setPchan p { d.pchan p with last := t }
  match x with
  | .ask ns r => if dramChan r.addr = p ∧ r.addr < 0x400000000 ∧ r.port ≤ 10 then mark (d.dramAsk p (at_ ns) r) (at_ ns) else d
  | .issue ns hit => mark (d.dramIssue p (at_ ns) hit) (at_ ns)

/-! ## Refresh slots (R401) -/

/-- The slot of pseudo-channel `p`: one more refresh is owed; it issues where the banks are idle or the limit is reached. -/
def Dev.refreshSlot (d : Dev) (p at_ : Nat) : Dev :=
  let d := if d.ecc.cooling then { (d.put Reg.MEM_DRAM_REF.LIMIT 8) with ecc := { d.ecc with cooling := false } } else d
  let limit := d.get Reg.MEM_DRAM_REF.LIMIT
  let owed := min limit (d.ecc.owed.getD p 0 + 1)
  let d := { d with ecc := { d.ecc with owed := setAt d.ecc.owed p owed, slotAt := setAt d.ecc.slotAt p (at_ + d.trefi) } }
  let d := if d.get Reg.MEM_DRAM_REF.OWED_MAX < owed then d.put Reg.MEM_DRAM_REF.OWED_MAX owed else d
  if (d.pchan p).idle || owed = limit then d.dramRefresh p at_ else d

/-- REFRESH_SLOT: the slot of pseudo-channel `p` comes, after `steps` there; MEM_DRAM_WQ shows the fullest write queue. -/
def execRefreshSlot (dt : Nat) (p : Nat) (steps : List DramStep) (s : State) : Host.Outcome State Fault Refusal :=
  s.act dt fun d =>
    if d.mode = .off ∨ 32 ≤ p then d
    else
      let d := steps.foldl (fun d x => d.dramStep p x) d
      let q := d.ecc.chans.foldl (fun m c => max m c.writes.length) 0
      let d := d.put Reg.MEM_DRAM_WQ.LEVEL q
      let d := if d.get Reg.MEM_DRAM_WQ.PEAK < q then d.put Reg.MEM_DRAM_WQ.PEAK q else d
      let at_ := d.ecc.slotAt.getD p 0
      if d.on Reg.MEM_DRAM_STAT.SELF_REF ∨ 2 ^ 63 ≤ d.since at_ then d else d.refreshSlot p at_

end Sys2Proof.Machine
end

