-- ==== Sys2Proof/Machine/Crypto.lean ====
section
/-! DEFINITION. SHA-256 and ECDSA over P-256, which R474 names and does not define: FIPS 180-4 and FIPS 186-4 (PRESUMED). -/
namespace Sys2Proof.Machine

/-! ## SHA-256 -/

/-- The first 64 primes: a number below 361 is one if no smaller number below 19 but 0 and 1 divides it. -/
def shaPrimes : List Nat := (List.range 312).filter fun n => decide (2 ≤ n) && (List.range 18).all fun k => decide (k < 2) || k == n || n % k != 0

/-- The greatest number of at most 40 bits whose `k`-th power is at most `n`, bit by bit from the top. -/
def rootOf (k n : Nat) : Nat := (List.range 40).foldr (fun i r => if (r + 2 ^ i) ^ k ≤ n then r + 2 ^ i else r) 0

/-- The first 32 bits of the fraction of the `k`-th root of a number. -/
def rootFraction (k p : Nat) : Nat := rootOf k (p * 2 ^ (32 * k)) % 2 ^ 32

/-- The round constants, of cube roots, and the initial state, of square roots. -/
def shaK : List Nat := shaPrimes.map (rootFraction 3)
def shaInit : List Nat := (shaPrimes.take 8).map (rootFraction 2)

/-- A number of `n` bytes, the highest byte first. -/
def ofBe : List Nat → Nat := List.foldl (fun a b => 256 * a + b) 0

/-- The bytes of a number, the highest first. -/
def beBytes (n v : Nat) : List Nat := (leBytes n v).reverse

/-- A 32-bit word rotated right. -/
def rotr (x n : Nat) : Nat := x / 2 ^ n + x % 2 ^ n * 2 ^ (32 - n)

/-- The message schedule, newest word first, grown to 64 words. -/
def shaSchedule : Nat → List Nat → List Nat
  | 0, w => w
  | n + 1, w =>
    let a := w.getD 1 0
    let b := w.getD 14 0
    let s1 := Nat.xor (Nat.xor (rotr a 17) (rotr a 19)) (a / 2 ^ 10)
    let s0 := Nat.xor (Nat.xor (rotr b 7) (rotr b 18)) (b / 2 ^ 3)
    shaSchedule n ((s1 + w.getD 6 0 + s0 + w.getD 15 0) % 2 ^ 32 :: w)

/-- One round. -/
def shaRound (h : List Nat) (kw : Nat × Nat) : List Nat :=
  match h with
  | [a, b, c, d, e, f, g, x] =>
    let ch := Nat.xor (Nat.land e f) (Nat.land (Nat.xor e 0xFFFFFFFF) g)
    let maj := Nat.xor (Nat.xor (Nat.land a b) (Nat.land a c)) (Nat.land b c)
    let t1 := x + Nat.xor (Nat.xor (rotr e 6) (rotr e 11)) (rotr e 25) + ch + kw.1 + kw.2
    let t2 := Nat.xor (Nat.xor (rotr a 2) (rotr a 13)) (rotr a 22) + maj
    [(t1 + t2) % 2 ^ 32, a, b, c, (d + t1) % 2 ^ 32, e, f, g]
  | h => h

/-- One block of 64 bytes. -/
def shaBlock (h block : List Nat) : List Nat :=
  let w := ((List.range 16).map fun i => ofBe ((block.drop (4 * i)).take 4)).reverse
  let r := (shaK.zip (shaSchedule 48 w).reverse).foldl shaRound h
  (h.zip r).map fun (a, b) => (a + b) % 2 ^ 32

/-- The blocks of a padded message; `n` bounds them. -/
def shaBlocks : Nat → List Nat → List Nat → List Nat
  | 0, h, _ => h
  | n + 1, h, m => shaBlocks n (shaBlock h (m.take 64)) (m.drop 64)

/-- The SHA-256 of bytes, as a number read with its first byte highest. -/
def sha256 (m : List Nat) : Nat :=
  let pad := (119 - m.length % 64) % 64
  let m' := m ++ [0x80] ++ List.replicate pad 0 ++ beBytes 8 (8 * m.length)
  (shaBlocks (m'.length / 64) shaInit m').foldl (fun a w => a * 2 ^ 32 + w) 0

/-! ## P-256 -/

/-- The field, the order, the coefficient b, the base point. -/
def p256P : Nat := 0xffffffff00000001000000000000000000000000ffffffffffffffffffffffff
def p256N : Nat := 0xffffffff00000000ffffffffffffffffbce6faada7179e84f3b9cac2fc632551
def p256B : Nat := 0x5ac635d8aa3a93e7b3ebbd55769886bc651d06b0cc53b0f63bce3c3e27d2604b
def p256G : Nat × Nat := (0x6b17d1f2e12c4247f8bce6e563a440f277037d812deb33a0f4a13945d898c296,
  0x4fe342e2fe1a7f9b8ee7eb4a7c0f9e162bce33576b315ececbb6406837bf51f5)

/-- A power modulo `m`, by the lowest `k` bits of the exponent. -/
def powMod (m : Nat) : Nat → Nat → Nat → Nat
  | 0, _, _ => 1
  | k + 1, a, e => let r := powMod m k (a * a % m) (e / 2); if e % 2 = 1 then a * r % m else r

/-- The inverse modulo a prime below 2^256. -/
def invMod (m a : Nat) : Nat := powMod m 256 (a % m) (m - 2)

/-- The sum of two points; none is the point at infinity. -/
def p256Add (a b : Option (Nat × Nat)) : Option (Nat × Nat) :=
  match a, b with
  | none, b => b
  | a, none => a
  | some (x1, y1), some (x2, y2) =>
    let p := p256P
    if x1 = x2 ∧ (y1 + y2) % p = 0 then none
    else
      let l := if x1 = x2 then (3 * x1 * x1 + p - 3) * invMod p (2 * y1) % p else (y2 + p - y1) * invMod p (x2 + p - x1) % p
      let x := (l * l + 2 * p - x1 - x2) % p
      some (x, (l * (x1 + p - x) + p - y1) % p)

/-- A multiple of a point, by the lowest `n` bits of the factor. -/
def p256Mul : Nat → Nat → Option (Nat × Nat) → Option (Nat × Nat)
  | 0, _, _ => none
  | n + 1, k, a => let r := p256Mul n (k / 2) (p256Add a a); if k % 2 = 1 then p256Add a r else r

/-- A signature (r, s) of a hash verifies with a public key. -/
def ecdsaOk (key : Nat × Nat) (hash r s : Nat) : Bool :=
  let (x, y) := key
  let onCurve := decide (x < p256P) && decide (y < p256P) && decide (y * y % p256P = (x * x * x + (p256P - 3) * x + p256B) % p256P)
  if !onCurve || r = 0 || p256N ≤ r || s = 0 || p256N ≤ s then false
  else
    let w := invMod p256N s
    match p256Add (p256Mul 256 (hash * w % p256N) (some p256G)) (p256Mul 256 (r * w % p256N) (some key)) with
    | none => false
    | some (v, _) => decide (v % p256N = r)

end Sys2Proof.Machine
end

