-- ==== Sys2Proof/Machine/Sense.lean ====
section
/-! DEFINITION. Temperatures, throttle, thermal shutdown, mains watch and ride-through (R445 to R465). -/
namespace Sys2Proof.Machine

/-! ## Set-up values (R456) -/

/-- The fields of the thermal and mains registers that the set-up check tests, by offset: each with its test. -/
def senseChecks : List (Fld × (Dev → Bool)) :=
  let within (f : Fld) (lo hi : Nat) : Fld × (Dev → Bool) := (f, fun d => decide (lo ≤ d.get f) && decide (d.get f ≤ hi))
  [within Reg.SENSE_THERM_CFG.THR 70 105, within Reg.SENSE_THERM_CFG.STACK_THR 75 100, within Reg.SENSE_THERM_CFG.PAUSE_STEP 1 255,
   within Reg.SENSE_MOD_CFG.DEC 0 2, within Reg.SENSE_MOD_CFG.FREQ 40 70, within Reg.SENSE_MOD_CFG.SAG_PCT 50 99,
   within Reg.SENSE_MOD_CFG.HYST 1 10]
  ++ (List.range 4).map (fun n => (Reg.SENSE_MOD_NOM_n.NOM n, fun d => !bitOf (d.get Reg.SENSE_MOD_CFG.EN) n || d.on (Reg.SENSE_MOD_NOM_n.NOM n)))
  ++ [within Reg.SENSE_MOD_DC.DC_LOW_PCT 50 99,
   (Reg.SENSE_MOD_DC.DC_TGT_PCT, fun d => decide (d.get Reg.SENSE_MOD_DC.DC_LOW_PCT < d.get Reg.SENSE_MOD_DC.DC_TGT_PCT)
     && decide (d.get Reg.SENSE_MOD_DC.DC_TGT_PCT ≤ 100))]

/-- Values that wait for their instant take effect. -/
def Dev.senseApply (d : Dev) (off : Nat) : Dev :=
  let d := (d.sense.next.filter fun x => x.1 == off).foldl (fun (d : Dev) x => d.forceReg x.1 x.2) d
  { d with sense := { d.sense with next := d.sense.next.filter fun x => x.1 != off } }

/-- What SENSE_PARAM does, when it applies (R91). -/
def Dev.senseParam (d : Dev) (t : Ticket) (x : Desc) : Dev :=
  let off := 0x60000 + paramId x % 4096
  match valueExtra x [0xFFFFFFFF, 0, 0, 0] with
  | some w => d.complete t stBadParam w
  | none =>
    let new := d.forceReg off (x.w 6)
    if Nat.land (x.w 6) (Nat.xor 0xFFFFFFFF (lkMask off)) ≠ 0 then d.complete t stBadParam 6
    else if senseChecks.any fun c => decide (c.1.off = off) && !c.2 new then d.complete t stBadParam 6
    else if off = 0x60080 ∧ (new.get Reg.SENSE_MOD_CFG.EN ≠ d.get Reg.SENSE_MOD_CFG.EN ∨ new.get Reg.SENSE_MOD_CFG.DEC ≠ d.get Reg.SENSE_MOD_CFG.DEC) then
      d.complete t stRefused d.mode.code
    else
      let d := { d with sense := { d.sense with next := d.sense.next ++ [(off, x.w 6)] } }
      let d := if off = 0x60080 ∧ d.get Reg.SENSE_MOD_CFG.EN % 8 = 0 then d.senseApply off else d
      d.complete t stOk 0

/-- SENSE_PARAM: PARAM 0x6000, 0x6080 or 0x6094. -/
def execSenseParam (dt : Nat) (ring : Nat) (x : Desc) (s : State) : Host.Outcome State Fault Refusal :=
  s.act dt fun d => d.onParam ring x (fun i => [0x6000, 0x6080, 0x6094].contains i) readyRunHold true fun d t => d.senseParam t x

/-! ## Sensors (R445 to R447) -/

/-- The groups of sensors. -/
def sensorGroups : List (List Nat) := [[0, 1], [2, 3], [4, 5, 6, 7], [8, 9, 10], [11, 12], [13, 14, 15], [16]]

def Dev.sensor (d : Dev) (s : Nat) : Sensor := d.sense.sensors.getD s ⟨false, false, 0, 0, false⟩

/-- The raw reading of a sensor at the latest sample, in 0.25 C. -/
def Dev.reading (d : Dev) (s : Nat) : Int := ((d.sense.hist.head?.map (·.2)).getD []).getD s 0

/-- The raw reading over the samples of the last 10 s. -/
def spanOf (xs : List Int) : Nat :=
  match xs with
  | [] => 0
  | a :: t => (t.foldl max a - t.foldl min a).toNat

/-- Ten seconds of samples are there. -/
def Dev.histFull (d : Dev) : Bool := d.sense.hist.getLast?.any fun x => decide (10000000000 ≤ d.since x.1)

/-- The samples of the last 10 s, and the first one before them. -/
def Dev.trimHist (d : Dev) : List (Nat × List Int) → List (Nat × List Int)
  | [] => []
  | x :: t => if 10000000000 ≤ d.since x.1 then [x] else x :: Dev.trimHist d t

/-- How far the sum of the valid neighbours of a sensor has moved over 10 s, and how many they are. -/
def Dev.neighbours (d : Dev) (s : Nat) : Nat × Nat :=
  let ns := ((sensorGroups.find? (·.contains s)).getD []).filter fun n => n != s && !(d.sensor n).broken
  (spanOf (d.sense.hist.map fun x => (ns.map fun n => x.2.getD n 0).foldl (· + ·) 0), ns.length)

/-- One sensor at a sample (R447), by the sensors as they were before it. -/
def Dev.sensorStep (old : Dev) (d : Dev) (s : Nat) : Dev :=
  let r := d.reading s
  let x := old.sensor s
  let inside := decide (-220 ≤ r) && decide (r ≤ 600)
  let x : Sensor := { x with inRange := if inside then x.inRange else d.tb, moved := x.moved || decide (4 ≤ (r - x.stuckAt).natAbs) }
  let (move, k) := old.neighbours s
  let stuck := d.histFull && decide (0 < k) && decide (8 * k < move) && decide (spanOf (d.sense.hist.map fun h => h.2.getD s 0) ≤ 1)
  let show_ (d : Dev) (x : Sensor) : Dev :=
    let d := { d with sense := { d.sense with sensors := setAt d.sense.sensors s x } }
    ((d.put (Reg.SENSE_TEMP_n.TEMP s) (fieldOf 16 r)).put (Reg.SENSE_TEMP_n.BROKEN s) (b2n x.broken)).put (Reg.SENSE_TEMP_n.STUCK s) (b2n (x.broken && x.stuck))
  let loc := d.loc 0 4 8 0 s 0
  if !x.broken && (!inside || stuck) then
    (show_ d { x with broken := true, stuck := inside, stuckAt := r, inRange := d.tb, moved := false }).postAt 0x6002 sevWarn
      [s, b2n inside, fieldOf 32 r, move / max 1 k] loc
  else if x.broken && inside && decide (10000000000 ≤ d.since x.inRange) && (!x.stuck || x.moved) then
    (show_ d { x with broken := false, stuck := false }).postAt 0x6003 sevInfo [s, fieldOf 32 r] loc
  else show_ d x

/-- The highest valid reading of the die, if any sensor is valid. -/
def Dev.dieMax (d : Dev) : Option Int :=
  (((List.range 16).filter fun s => !(d.sensor s).broken).map d.reading).foldl (fun m x => some (match m with | some y => max x y | none => x)) none

/-- A sensor's reading as the rules take it: THR or STACK_THR while it is broken. -/
def Dev.effective (d : Dev) (s : Nat) : Int :=
  if (d.sensor s).broken then 4 * ((if s = 16 then d.get Reg.SENSE_THERM_CFG.STACK_THR else d.get Reg.SENSE_THERM_CFG.THR : Nat) : Int)
  else d.reading s

/-! ## Throttle (R446, R449, R451) -/

/-- The target level of a reading at a point. -/
def throttleTarget (t p : Int) : Nat := if p ≤ t then min 15 (1 + (t - p).toNat / 2) else 0

/-- The throttle level moves by at most 1. -/
def Dev.throttle (d : Dev) : Dev :=
  let pd : Int := 4 * (d.get Reg.SENSE_THERM_CFG.THR : Nat)
  let ps : Int := 4 * (d.get Reg.SENSE_THERM_CFG.STACK_THR : Nat)
  let hot := (List.range 16).foldl (fun b s => if d.effective b < d.effective s then s else b) 0
  let die := d.effective hot
  let stack := d.effective 16
  let td := throttleTarget die pd
  let ts := throttleTarget stack ps
  let level := d.get Reg.SENSE_THERM_STAT.LEVEL
  let new := if level ≤ max td ts then (if level < max td ts then level + 1 else level)
    else if die < pd - 8 ∧ stack < ps - 8 then level - 1 else level
  if new = level then d
  else
    let bind := decide (td < ts)
    let sensor := if bind then 16 else hot
    let d := d.put Reg.SENSE_THERM_STAT.LEVEL new
    let d := if level < new then (d.put Reg.SENSE_THERM_STAT.BIND (b2n bind)).put Reg.SENSE_THERM_STAT.SENSOR sensor else d
    let sensor := d.get Reg.SENSE_THERM_STAT.SENSOR
    d.post 0x6001 sevWarn [new, sensor, fieldOf 32 (d.reading sensor), if level = 0 then 0 else if new = 0 then 2 else 1]

/-- FAST: 0.5 ms sampling, from 5 C below a point, until both are 6 C below. -/
def Dev.sampleRate (d : Dev) : Dev :=
  let pd : Int := 4 * (d.get Reg.SENSE_THERM_CFG.THR : Nat) - 20
  let ps : Int := 4 * (d.get Reg.SENSE_THERM_CFG.STACK_THR : Nat) - 20
  let stack := d.effective 16
  if d.dieMax.any (fun m => decide (pd ≤ m)) || decide (ps ≤ stack) then d.put Reg.SENSE_THERM_STAT.FAST 1
  else if d.dieMax.all (fun m => decide (m ≤ pd - 4)) && decide (stack ≤ ps - 4) then d.put Reg.SENSE_THERM_STAT.FAST 0
  else d

/-! ## Shutdown (R448, R452 to R455) -/

/-- The body of a shutdown record, bytes 4 to 1,019. -/
def shutBytes (r : ShutRec) : List Nat :=
  leBytes 4 r.count ++ leBytes 8 r.time ++ leBytes 8 r.tb ++ [r.cause, r.sensor, r.state, b2n r.ack] ++ leBytes 2 r.thr ++ [r.level, 0]
    ++ ((r.readings.map fun x => leBytes 2 (fieldOf 16 x)).flatten) ++ [0, 0] ++ leBytes 4 r.broken ++ leBytes 6 r.pw ++ [0, 0, r.tag, 0, 0, 0]
    ++ leBytes 4 r.frame ++ List.replicate 932 0

/-- The triggering reading of a record: of its sensor, or of the lowest broken sensor of its group. -/
def shutReading (r : ShutRec) : Int :=
  let s := if r.cause = 3 then (((sensorGroups.getD r.sensor []).find? fun s => bitOf r.broken s).getD 0) else r.sensor
  r.readings.getD s 0

/-- The registers that show the newest record. -/
def Dev.showShut (d : Dev) : Dev :=
  match d.shutRecord with
  | none => d
  | some r =>
    let d := (d.put Reg.SENSE_SHUT.SEQ r.seq).put Reg.SENSE_SHUT.UNACK (b2n !r.ack)
    ((d.put Reg.SENSE_SHUT_INFO.CAUSE r.cause).put Reg.SENSE_SHUT_INFO.SENSOR r.sensor).put Reg.SENSE_SHUT_INFO.TEMP (fieldOf 16 (shutReading r))

/-- Write a shutdown record; its SEQ comes from the copies in MRAM (R389). A write that fails leaves both copies. -/
def Dev.writeShut (d : Dev) (r : ShutRec) (ok : Bool) : Dev :=
  if !ok then d.put Reg.SENSE_SHUT.WRITE_FAIL 1
  else
    let l := mramWrite (d.sense.shut.map fun x => x.map fun (y : ShutRec) => (y.seq, y)) r
    let copies := l.map fun (x : Option (Nat × ShutRec)) => x.map fun (q, y) => ({ y with seq := q } : ShutRec)
    let d := { d with sense := { d.sense with shut := copies } }
    ((d.mramChecked l shutBytes).put Reg.SENSE_SHUT.WRITE_FAIL 0).showShut

/-- The causes of R452 that hold, bit per cause. -/
def Dev.shutCauses (d : Dev) : Nat :=
  2 * b2n (d.dieMax.any fun m => decide (460 ≤ m)) + 4 * b2n (!(d.sensor 16).broken && decide (420 ≤ d.reading 16))
    + 8 * b2n ((sensorGroups.take 6).any fun g => decide (2 ≤ (g.filter fun s => (d.sensor s).broken).length))

/-- A shutdown with a cause: its record, PEND, and outside SAFE the entry to SAFE. -/
def Dev.shutDown (d : Dev) (cause : Nat) (ok : Bool) : Dev :=
  let broken := (List.range 17).foldl (fun m s => setBit m s (d.sensor s).broken) 0
  let sensor := match cause with
    | 1 => (List.range 16).foldl (fun b s => if !(d.sensor s).broken && ((d.sensor b).broken || decide (d.reading b < d.reading s)) then s else b) 0
    | 2 => 16
    | _ => ((List.range 6).find? fun g => decide (2 ≤ ((sensorGroups.getD g []).filter fun s => (d.sensor s).broken).length)).getD 0
  let count := match d.shutRecord with | some r => min 0xFFFFFFFF (r.count + 1) | none => 1
  let (tag, frame) := match d.live? with | some j => (j.tag, j.frameInPrint d.pos.pw) | none => (0, 0)
  let rec_ : ShutRec := ⟨0, count, d.readTime, d.tb, cause, sensor, d.mode.code, false, 4 * d.get Reg.SENSE_THERM_CFG.THR,
    d.get Reg.SENSE_THERM_STAT.LEVEL, (List.range 17).map d.reading, broken, d.pos.pw, tag, frame⟩
  let d := (d.writeShut rec_ ok).put Reg.SENSE_SHUT.PEND 1
  d.enterSafe causeThermal 0 0

/-- The test of R452: one sample at which a cause begins to hold is enough. -/
def Dev.shutTest (d : Dev) (ok : Bool) : Dev :=
  let now := d.shutCauses
  let old := d.sense.trig
  let d := { d with sense := { d.sense with trig := now } }
  match [1, 2, 3].find? fun c => bitOf now c && !bitOf old c with
  | some c => d.shutDown c ok
  | none => d

/-- THERMAL_SAMPLE: the raw readings of the 17 sensors, and whether the MRAM takes a shutdown record. -/
def execThermalSample (dt : Nat) (readings : List Int) (mramOk : Bool) (s : State) : Host.Outcome State Fault Refusal :=
  s.act dt fun d =>
    let early := match d.sense.hist with
      | [] => false
      | (t, _) :: _ => decide (d.since t < (if d.on Reg.SENSE_THERM_STAT.FAST then 400000 else 7900000))
    if d.mode = .off ∨ !d.svc.pllsLocked ∨ readings.length ≠ 17 ∨ early = true then d
    else
      let first := d.sense.hist.isEmpty
      let d := d.senseApply 0x60000
      let d := { d with sense := { d.sense with hist := d.trimHist ((d.tb, readings) :: d.sense.hist) } }
      let d := (List.range 17).foldl (Dev.sensorStep d) d
      let top (d : Dev) (f : Fld) (x : Int) : Dev := if first || decide (signedOf 16 (d.get f) < x) then d.put f (fieldOf 16 x) else d
      let d := match d.dieMax with | some m => top d Reg.SENSE_TMAX.DIE_MAX m | none => d
      let d := if (d.sensor 16).broken then d else top d Reg.SENSE_TMAX.STACK_MAX (d.reading 16)
      let d := d.sampleRate.throttle
      ((d.hotMode (d.reading 16) (d.sensor 16).broken).calTest).shutTest mramOk

/-- A write of SENSE_SHUT_ACK: with GO in SAFE or SETUP it acknowledges the newest record (R455). -/
def Dev.ackWrite (d : Dev) (value : Nat) (mramOk : Bool) : Dev :=
  let open_ := d.mode == .safe || d.mode == .setup
  let d := d.writeReg 0x60074 value
  if !bitOf value 16 || !open_ then d
  else
    let thr : Int := 4 * (d.get Reg.SENSE_THERM_CFG.THR : Nat) - 40
    let sthr : Int := 4 * (d.get Reg.SENSE_THERM_CFG.STACK_THR : Nat) - 40
    match d.shutRecord with
    | some r =>
      if value % 65536 ≠ r.seq % 65536 ∨ d.dieMax.any (fun m => decide (thr ≤ m)) ∨ sthr ≤ d.effective 16 then d.bump Reg.SENSE_SHUT.REFUSED
      else if !mramOk then d.writeShut r false
      else ((d.writeShut { r with ack := true } true).put Reg.SENSE_SHUT.PEND 0).put Reg.SENSE_SHUT.UNACK 0
    | none => d.bump Reg.SENSE_SHUT.REFUSED

/-- SHUTDOWN_ACK: a write of SENSE_SHUT_ACK, and whether the MRAM takes the record. -/
def execShutdownAck (dt : Nat) (value : Nat) (mramOk : Bool) (s : State) : Host.Outcome State Fault Refusal :=
  s.act dt fun d => d.ackWrite value mramOk

/-! ## Ride-through (R462 to R464) -/

def Dev.modIn (d : Dev) (n : Nat) : ModIn := d.sense.mods.getD n ⟨0, 0, 0, 0, 0, 0, false, 0, none, 0, 0, 0, 0, false, false, 0, 0, true, 0⟩

def Dev.modModIn (d : Dev) (n : Nat) (f : ModIn → ModIn) : Dev := { d with sense := { d.sense with mods := modAt d.sense.mods n f } }

def Dev.modEnabled (d : Dev) (n : Nat) : Bool := d.mode.served && bitOf (d.get Reg.SENSE_MOD_CFG.EN) n

/-- The phases that sag; a faulty input takes no part. -/
def Dev.sagging (d : Dev) : List Nat := [0, 1, 2].filter fun n => bitOf (d.get Reg.SENSE_MAINS_STAT.SAG) n && (d.modIn n).fault.isNone

/-- The conditions present: 0 to 2 a phase sags, 3 the bus is low, 4 to 7 an input is faulty. -/
def Dev.mainsConditions (d : Dev) : List Nat :=
  d.sagging ++ (if d.on Reg.SENSE_MAINS_STAT.DC_LOW && (d.modIn 3).fault.isNone then [3] else [])
    ++ ([0, 1, 2, 3].filter fun n => d.modEnabled n && (d.modIn n).fault.isSome).map (· + 4)

/-- The action in force by the conditions present: the strongest of their entries. -/
def Dev.mainsAction (d : Dev) : Nat :=
  let p (i : Nat) : Nat := d.sense.policy.getD i 0
  let cs := d.mainsConditions
  let sag := d.sagging.length
  [if sag = 0 then 0 else p (sag - 1), if cs.contains 3 then p 3 else 0, if cs.any (4 ≤ ·) then p 5 else 0,
    if d.on Reg.SENSE_MAINS_STAT.ESCALATED then p 4 else 0].foldl max 0

/-- RIDE_THROUGH. -/
def Dev.ridePost (d : Dev) (action kind : Nat) : Dev :=
  let cap := match d.linen.rideCap with | some (c, _) => c | none => d.linen.v
  d.post 0x6022 sevWarn [action, min 0xFFFFFFFF (cap / 2 ^ 24), d.get Reg.SENSE_MAINS_CYC.CYC, kind]

/-- The conditions have changed, or one has lasted RT_MAX: the action in force follows. -/
def Dev.rideUpdate (d : Dev) (escalated : Bool) : Dev :=
  let cs := d.mainsConditions
  let since := cs.map fun c => (c, ((d.sense.since.find? fun x => x.1 == c).map (·.2)).getD d.tb)
  let d : Dev := { d with sense := { d.sense with since := since } }
  let max_ : Nat := leAt d.sense.policy 14 2 * 1000000
  let d : Dev := if since.any fun x => decide (max_ ≤ d.since x.2) then d else d.put Reg.SENSE_MAINS_STAT.ESCALATED 0
  let old : Nat := d.get Reg.SENSE_MAINS_STAT.ACTION
  let new : Nat := d.mainsAction
  let d := d.put Reg.SENSE_MAINS_STAT.ACTION new
  if old = new then (if escalated && (new != 0) then d.ridePost new 1 else d)
  else if new = 0 then
    let d := d.ridePost old 2
    { d with sense := { d.sense with rideDue := 0 } }
  else
    let d := if old = 0 then d.bump Reg.SENSE_MAINS_CNT.RIDES else d
    let d := d.ridePost new (b2n escalated)
    if !d.active || !d.mode.printing then d
    else if d.follower then (if new = 2 then d.stopWeb else d)
    else if d.webMoves then { d with sense := { d.sense with rideDue := new } }
    else d

/-- RIDE_THROUGH_ESCALATE: a condition has lasted RT_MAX. -/
def execRideThroughEscalate (dt : Nat) (s : State) : Host.Outcome State Fault Refusal :=
  s.act dt fun d =>
    let max_ := leAt d.sense.policy 14 2 * 1000000
    if d.on Reg.SENSE_MAINS_STAT.ESCALATED || !d.sense.since.any fun x => decide (max_ ≤ d.since x.2) then d
    else (d.put Reg.SENSE_MAINS_STAT.ESCALATED 1).rideUpdate true

/-! ## Modulator inputs (R457, R458) -/

/-- M by DEC. -/
def Dev.modM (d : Dev) : Nat := 64 * 2 ^ d.get Reg.SENSE_MOD_CFG.DEC

/-- One modulator bit. -/
def modBit (m : ModIn) (b : Bool) : ModIn :=
  let i1 := (m.i1 + if b then 1 else 2 ^ 32 - 1) % 2 ^ 32
  let i2 := (m.i2 + i1) % 2 ^ 32
  { m with i1 := i1, i2 := i2, i3 := (m.i3 + i2) % 2 ^ 32, last := b, run := if b = m.last then m.run + 1 else 1 }

/-- A sample s in 2^-23 of full scale, after M bits. -/
def modComb (m : ModIn) (dec : Nat) : Int × ModIn :=
  let sub (a b : Nat) : Nat := (a + 2 ^ 32 - b) % 2 ^ 32
  let c1 := sub m.i3 m.z1
  let c2 := sub c1 m.z2
  let c3 := signedOf 32 (sub c2 m.z3)
  let s : Int := match dec with
    | 0 => c3 * 32
    | 1 => c3 * 4
    | _ => c3 / 2
  (max (-8388607) (min 8388607 s), { m with z1 := m.i3, z2 := c1, z3 := c2 })

/-- MOD_FAULT: 4,096 identical bits, the AUX PLL lost, or no zero crossing for 4 nominal half-cycles. -/
def execModFault (dt : Nat) (n : Nat) (s : State) : Host.Outcome State Fault Refusal :=
  s.act dt fun d =>
    let m := d.modIn n
    if 4 ≤ n ∨ d.mode = .off ∨ !d.modEnabled n ∨ m.fault.isSome then d
    else
      let none_ := decide (n < 3) && m.rmsOk && decide (4 * 1000000000 ≤ d.since m.zeroAt * 2 * d.get Reg.SENSE_MOD_CFG.FREQ)
      let cause := if 4096 ≤ m.run then some 0 else if !d.on Reg.SENSE_CLK_STAT.LOCK_AUX then some 1 else if none_ then some 2 else none
      match cause with
      | none => d
      | some c =>
        let d := (d.modModIn n fun m => { m with fault := some c, validAt := d.tb }).put (Reg.SENSE_MOD_VAL_n.FAULT n) 1
        (d.post 0x6023 sevWarn [n, c, 0]).rideUpdate false

/-- A faulty input clears after 1 ms of valid bits. -/
def Dev.modClear (d : Dev) (n : Nat) : Dev :=
  let m := d.modIn n
  match m.fault with
  | none => d
  | some c =>
    let bad := decide (4096 ≤ m.run) || (c == 2 && decide (m.zeroAt ≤ m.validAt))
    if bad then (if 4096 ≤ m.run then d.modModIn n fun m => { m with validAt := d.tb } else d)
    else if d.since (if c = 2 then m.zeroAt else m.validAt) < 1000000 then d
    else
      let d := (d.modModIn n fun m => { m with fault := none }).put (Reg.SENSE_MOD_VAL_n.FAULT n) 0
      (d.post 0x6023 sevWarn [n, c, 1]).rideUpdate false

/-! ## Half-cycles and sags (R459, R460) -/

/-- The lowest-numbered enabled phase. -/
def Dev.countedPhase (d : Dev) : Option Nat := [0, 1, 2].find? d.modEnabled

/-- MAINS_SAG. -/
def Dev.sagPost (d : Dev) (n rms kind : Nat) : Dev :=
  d.post 0x6020 sevWarn [d.get Reg.SENSE_MAINS_STAT.SAG, rms * 1000 / max 1 (d.get (Reg.SENSE_MOD_NOM_n.NOM n)), d.get Reg.SENSE_MAINS_CYC.CYC,
    d.sense.half + 2 * n, d.get Reg.SENSE_MAINS_STAT.ACTION, kind]

/-- What a half-cycle's RMS says of a sag. -/
def Dev.sagTest (d : Dev) (n rms : Nat) : Dev :=
  let nom := d.get (Reg.SENSE_MOD_NOM_n.NOM n)
  let pct := d.get Reg.SENSE_MOD_CFG.SAG_PCT
  let sag := bitOf (d.get Reg.SENSE_MAINS_STAT.SAG) n
  let put (d : Dev) (b : Bool) : Dev :=
    (d.put Reg.SENSE_MAINS_STAT.SAG (setBit (d.get Reg.SENSE_MAINS_STAT.SAG) n b)).put (Reg.SENSE_MOD_VAL_n.LOW n) (b2n b)
  if (d.modIn n).fault.isSome then d
  else if !sag then
    if 100 * rms < pct * nom then
      ((((put d true).bump Reg.SENSE_MAINS_CNT.SAGS).modModIn n fun m => { m with good := 0 }).rideUpdate false).sagPost n rms 0
    else d
  else if (pct + d.get Reg.SENSE_MOD_CFG.HYST) * nom ≤ 100 * rms then
    if 1 ≤ (d.modIn n).good then (((put d false).modModIn n fun m => { m with good := 0 }).rideUpdate false).sagPost n rms 1
    else d.modModIn n fun m => { m with good := m.good + 1 }
  else d.modModIn n fun m => { m with good := 0 }

/-- A half-cycle of a phase ends, at a zero crossing or by time. -/
def Dev.halfEnd (d : Dev) (n : Nat) (crossing : Bool) : Dev :=
  let m := d.modIn n
  let rms := isqrt (m.sumSq / max 1 m.n)
  let counted := decide (d.countedPhase = some n)
  let up := crossing && !m.neg
  let d := if counted then d.put Reg.SENSE_MAINS_STAT.HALF (min 65535 (d.since m.halfAt / 10000)) else d
  let d := if counted && up then d.wrap Reg.SENSE_MAINS_CYC.CYC else d
  let d := if counted then { d with sense := { d.sense with half := b2n !up } } else d
  let d := d.put (Reg.SENSE_MOD_VAL_n.VAL n) rms
  let good := decide (d.get Reg.SENSE_MOD_CFG.SAG_PCT * d.get (Reg.SENSE_MOD_NOM_n.NOM n) ≤ 100 * rms)
  let d := d.modModIn n fun m => { m with halfAt := d.tb, sumSq := 0, n := 0, armed := false, rmsOk := m.rmsOk && good }
  (d.sagTest n rms).senseApply 0x60080

/-- T_h x 4 x FREQ, in ns. -/
def twoSeconds : Nat := 2000000000

/-- A sample of a phase: it ends the half-cycle, or belongs to it. -/
def Dev.phaseSample (d : Dev) (n : Nat) (x : Int) : Dev :=
  let m := d.modIn n
  let neg := decide (x < 0)
  let cross := neg != m.neg
  let ends := cross && m.armed && decide (twoSeconds ≤ d.since m.halfAt * 8 * d.get Reg.SENSE_MOD_CFG.FREQ)
  let d := d.modModIn n fun m => { m with neg := neg, zeroAt := if cross then d.tb else m.zeroAt, rmsOk := cross || m.rmsOk }
  let d := if ends then d.halfEnd n true else d
  let nom := d.get (Reg.SENSE_MOD_NOM_n.NOM n)
  d.modModIn n fun m => { m with sumSq := m.sumSq + x.natAbs * x.natAbs, n := m.n + 1, armed := m.armed || decide (nom < 8 * x.natAbs) }

/-- MOD_SAMPLE: M bits of input `n`, oldest first. -/
def execModSample (dt : Nat) (n : Nat) (bits : List Bool) (s : State) : Host.Outcome State Fault Refusal :=
  s.act dt fun d =>
    if 4 ≤ n ∨ d.mode = .off ∨ !d.modEnabled n ∨ !d.on Reg.SENSE_CLK_STAT.LOCK_AUX ∨ bits.length ≠ d.modM then d
    else
      let (x, m) := modComb (bits.foldl modBit (d.modIn n)) (d.get Reg.SENSE_MOD_CFG.DEC)
      let d := d.modModIn n fun _ => m
      let d := if n = 3 then d.modModIn 3 fun m => { m with sum := m.sum + x, n := m.n + 1 } else d.phaseSample n x
      d.modClear n

/-- HALF_CYCLE_TIMEOUT: 1.25 T_h without a crossing that ends it. -/
def execHalfCycleTimeout (dt : Nat) (n : Nat) (s : State) : Host.Outcome State Fault Refusal :=
  s.act dt fun d =>
    if 3 ≤ n ∨ d.mode = .off ∨ !d.modEnabled n ∨ !d.on Reg.SENSE_CLK_STAT.LOCK_AUX
        ∨ d.since (d.modIn n).halfAt * 8 * d.get Reg.SENSE_MOD_CFG.FREQ < 5 * 1000000000 then d
    else d.halfEnd n false

/-- DC_BUS_MEAN: the mean of a millisecond of TB (R461). -/
def execDcBusMean (dt : Nat) (s : State) : Host.Outcome State Fault Refusal :=
  s.act dt fun d =>
    let m := d.modIn 3
    if d.mode = .off ∨ !d.modEnabled 3 ∨ m.n = 0 ∨ d.tb / 1000000 = d.sense.dcAt / 1000000 then d
    else
      let d := d.senseApply 0x60094
      let mean := m.sum / (m.n : Int)
      let d := (d.modModIn 3 fun m => { m with sum := 0, n := 0 }).put (Reg.SENSE_MOD_VAL_n.VAL 3) (fieldOf 24 mean)
      let d := { d with sense := { d.sense with dcAt := d.tb } }
      let nom : Int := d.get (Reg.SENSE_MOD_NOM_n.NOM 3)
      let low : Int := d.get Reg.SENSE_MOD_DC.DC_LOW_PCT
      let was := d.on Reg.SENSE_MAINS_STAT.DC_LOW
      let post (d : Dev) (b : Bool) : Dev :=
        let d := ((d.put Reg.SENSE_MAINS_STAT.DC_LOW (b2n b)).put (Reg.SENSE_MOD_VAL_n.LOW 3) (b2n b)).rideUpdate false
        d.post 0x6021 sevWarn [fieldOf 32 (mean * 1000 / max 1 nom), d.get Reg.SENSE_MAINS_CYC.CYC, d.get Reg.SENSE_MAINS_STAT.ACTION, b2n !b]
      if m.fault.isSome then d
      else if !was && decide (100 * mean < low * nom) then post d true
      else if was && decide ((low + (d.get Reg.SENSE_MOD_CFG.HYST : Nat)) * nom ≤ 100 * mean) then post d false
      else d

end Sys2Proof.Machine
end

