-- ==== Sys2Proof/Machine/Flags.lean ====
section
/-! DEFINITION. Status fields that show the state of the machine when they are read, and the read of a BAR0 word (R9, R31, R41 to R43,
R108, R273, R333, R344, R364, R472, R482, R491, R493). -/
namespace Sys2Proof.Machine

/-- DMA_CH_STAT_n.STATE: of a list's channel as held; a channel that serves rings is ACTIVE with a doorbell read outstanding or a buffer
being filled, DRAINING while only responses are awaited (R114; DEDUCED, log entry 146). -/
def Dev.chState (d : Dev) (ch : Nat) : Nat :=
  let held := d.get (Reg.DMA_CH_STAT_n.STATE ch)
  if 12 < ch ∨ held = 3 then held
  else if (decide (ch = 0) && d.host.dbBusy) || d.host.writes.any (fun w => w.ch == ch && !w.sent)
      || d.cal.open_.any (fun b => decide (d.channelOf b.ring = ch) && decide (b.filled ≠ 0) && b.closed.isNone) then 1
  else if d.host.writes.any (fun w => w.ch == ch) || !(d.chan ch).stale.isEmpty then 2
  else 0

/-- POS_BCAST.AGE: time since the last broadcast taken, in 100 ns. -/
def Dev.bcastAge (d : Dev) : Nat := if d.pos.bcastAt = 0 then 0xFFFF else min 0xFFFF (d.since d.pos.bcastAt / 100)

/-- RING_LEASE.REM: the own lease on an active, the partner's on a standby. -/
def Dev.leaseShown (d : Dev) : Nat :=
  if d.active then d.leaseRem
  else match d.net.leaseEnd with
    | some t => if 2 ^ 63 ≤ d.since t then (t + 2 ^ 64 - d.tb) % 2 ^ 64 else 0
    | none => 0

/-- Fields that read the state of the machine; every other field reads what is stored. -/
def shownFields : List (Fld × (Dev → Nat)) :=
  let timeForm (d : Dev) : Int × Int × Nat := d.timeAt d.tb
  [(Reg.GLB_ID.GRADE, fun _ => Config.efuseGrade), (Reg.GLB_STATE.STATE, fun d => d.mode.code), (Reg.GLB_STATE.DUPLEX, Dev.duplexCode),
   (Reg.GLB_STATE.PARTNER, fun d => b2n d.duplexed), (Reg.GLB_STATE.LOCKED, fun d => b2n (!d.lkOpen)),
   (Reg.POS_PW_LO.PW_LO, fun d => d.pos.pw), (Reg.POS_PW_HI.PW_HI, fun d => d.pos.pw / 2 ^ 32), (Reg.POS_REM.REM, fun d => d.pos.rem),
   (Reg.POS_STATUS.FOLLOWER, fun d => b2n d.follower), (Reg.POS_BCAST.AGE, Dev.bcastAge),
   (Reg.TIME_NOW_LO.NOW, fun d => d.readTime), (Reg.TIME_NOW_HI.NOW, fun d => d.readTime / 2 ^ 32),
   (Reg.TIME_TB_LO.TB, fun d => d.tb), (Reg.TIME_TB_HI.TB, fun d => d.tb / 2 ^ 32),
   (Reg.TIME_OFS_LO.OFS, fun d => fieldOf 32 (timeForm d).1), (Reg.TIME_OFS_HI.OFS, fun d => fieldOf 64 (timeForm d).1 / 2 ^ 32),
   (Reg.TIME_RATE.RATE, fun d => fieldOf 32 (timeForm d).2.1),
   (Reg.TIME_ANCHOR_LO.ANCHOR, fun d => (timeForm d).2.2), (Reg.TIME_ANCHOR_HI.ANCHOR, fun d => (timeForm d).2.2 / 2 ^ 32),
   (Reg.LINK_HORIZON.H, fun d => min 131071 d.horizon), (Reg.RING_NODE.NODE, Dev.node), (Reg.RING_LEASE.REM, Dev.leaseShown),
   (Reg.SVC_MON.KEY_SET, fun d => b2n (decide (d.svc.key ≠ 0))), (Reg.SVC_BOOT.FLOOR, fun _ => Config.efuseFloor),
   (Reg.SVC_BOOT.REVOKED, fun _ => Config.efuseRevoked),
   (Reg.SVC_MBOX_TX.GO, fun d => b2n (decide (128 ≤ d.svc.inq.length))),
   (Reg.SVC_MBOX_RX.CHAR, fun d => d.svc.outq.headD 0), (Reg.SVC_MBOX_RX.VALID, fun d => b2n !d.svc.outq.isEmpty)]
  ++ (List.range 4).map (fun n => (Reg.POS_ENC_CNT_n.CNT n, fun d => fieldOf 32 ((d.pos.encs.map (·.e)).getD n 0)))
  ++ (List.range 16).map (fun n => (Reg.DMA_CH_STAT_n.PRIO n, fun _ => chPriority.getD n 0))
  ++ (List.range 16).map (fun n => (Reg.DMA_CH_STAT_n.STATE n, fun d => d.chState n))
  ++ (List.range 16).map (fun n => (Reg.LINK_STAT_n.EPOCH n, fun d => d.get Reg.RING_STAT.EPOCH))
  ++ (List.range 16).map (fun n => (Reg.LINK_HORIZON_n.H n, fun d => if d.on (Reg.LINK_CFG_n.EN n) then min 131071 (d.horizonOf n) else 0))

/-- A field as a read shows it. -/
def Dev.shown (d : Dev) (f : Fld) : Nat :=
  (match shownFields.find? fun x => x.1.off == f.off && x.1.lo == f.lo with
    | some x => x.2 d
    | none => d.get f) % 2 ^ f.w

/-- KIND of a histogram by its number (R492). -/
def histKind (h : Nat) : Nat :=
  if h < 5120 then 0 else if h < 5200 then 1 else if h < 5328 then 2 else if h < 5456 then 3 else if h < 5472 then 4 else 5

/-- The bytes of a histogram (R493). -/
def histBytes (h : Nat) (x : Option Hist) : List Nat :=
  match x with
  | none => List.replicate 64 0 ++ leBytes 4 0xFFFFFFFF ++ List.replicate 12 0
  | some x => x.bins.flatMap (leBytes 4) ++ leBytes 4 x.min ++ leBytes 4 x.max ++ leBytes 4 x.count ++ [histKind h, 0, 0, 0]

/-- A word of the recorder window at byte offset `o` of the selected space; bytes beyond the end of a space read 0 (R491). -/
def Dev.winWord (d : Dev) (o : Nat) : Nat :=
  if d.on Reg.REC_CURSOR.SPACE then
    let h := o / 80
    if 5488 ≤ h then 0 else leAt (histBytes h (kvGet d.recd.hists h)) (o % 80) 4
  else if 0x100000 ≤ o then 0
  else bitsOf ((kvGet d.recd.mem (o / 8)).getD 0) (o % 8 * 8) 32

/-- A word put together from the fields of its register. -/
def Dev.wordOf (d : Dev) (off : Nat) (r : RegDesc) : Nat :=
  (r.fields.map fun f => d.shown (f.at_ off) * 2 ^ f.lo).foldl (· + ·) 0

/-- A read of one BAR0 word: an offset that no register occupies reads 0, and so does every block but GLB in SELFTEST (R43). The wait of a
DMA channel, which no rule times, is a free value; a read of SVC_MBOX_RX takes its character (R485). -/
def Dev.readReg (d : Dev) (off : Nat) : Nat × Dev :=
  if !d.decodes off then (0, d)
  else if 0xE1000 ≤ off ∧ off < 0xE2000 then (d.winWord (8 * d.get Reg.REC_CURSOR.OFFSET + (off - 0xE1000)), d)
  else match regAt off with
    | none => (0, d)
    | some r =>
      if decide (0x20018 ≤ off) && decide (off < 0x20200) && decide (off % 32 = 0x18) then d.draw 16
      else
        let v := d.wordOf off r
        (v, if off = 0xF0024 then { d with svc := { d.svc with outq := d.svc.outq.drop 1 } } else d)

end Sys2Proof.Machine
end

