-- ==== Sys2Proof/Machine/Setup.lean ====
section
/-! DEFINITION. The set-up check (R10, R49, R77, R152, R268, R338, R345, R419, R442, R477, R502), the changes between SETUP and READY
(R31, R32, R36), BAR0 writes and bad accesses (R38, R42, R379), and SAFE_STATUS (R476). -/
namespace Sys2Proof.Machine

/-! ## The set-up check -/

/-- A field in a range. -/
def within (f : Fld) (lo hi : Nat) : Fld × (Dev → Bool) := (f, fun d => decide (lo ≤ d.get f) && decide (d.get f ≤ hi))

/-- A field that must not be 0. -/
def nonzero (f : Fld) : Fld × (Dev → Bool) := (f, fun d => d.on f)

/-- Rings of a kind that are enabled, below ring `n`. -/
def Dev.ringsBelow (d : Dev) (n k : Nat) : Nat :=
  ((List.range n).filter fun i => d.on (Reg.HOST_RING_CFG_n.EN i) && decide (d.get (Reg.HOST_RING_CFG_n.KIND i) = k)).length

/-- The limits of R77: fewest and most enabled rings of each kind. -/
def ringLimits : List (Nat × Nat) := [(1, 1), (1, 16), (1, 8), (1, 1), (0, 1), (0, 4)]

/-- HOST (R77, R82, R83). -/
def hostChecks : List (Fld × (Dev → Bool)) :=
  [(Reg.HOST_DB_ADDR_LO.ADDR_LO, fun d => decide (d.get Reg.HOST_DB_ADDR_LO.ADDR_LO % 64 = 0)), within Reg.HOST_DB_POLL.POLL 1 200]
  ++ (List.range 32).flatMap (fun n =>
    [(Reg.HOST_RING_CFG_n.EN n, fun d => !d.on (Reg.HOST_RING_CFG_n.EN n) || decide (d.get (Reg.HOST_RING_BASE_LO_n.BASE_LO n) % 64 = 0)),
     within (Reg.HOST_RING_CFG_n.KIND n) 0 5, within (Reg.HOST_RING_CFG_n.LOG2SIZE n) 4 16, nonzero (Reg.HOST_RING_CFG_n.VEC n),
     (Reg.HOST_RING_CFG_n.KIND n, fun d =>
        let k := d.get (Reg.HOST_RING_CFG_n.KIND n)
        !d.on (Reg.HOST_RING_CFG_n.EN n) || decide (d.ringsBelow n k < (ringLimits.getD k (0, 32)).2))])
  ++ [(Reg.HOST_RING_CFG_n.KIND 31, fun d => (List.range 6).all fun k => decide ((ringLimits.getD k (0, 0)).1 ≤ d.ringsBelow 32 k))]

/-- POS (R45, R49, R58). -/
def posChecks : List (Fld × (Dev → Bool)) :=
  [within Reg.POS_CFG.VEL_K 2 8, nonzero Reg.POS_CFG.REST_MS, nonzero Reg.POS_SCALE_N.VALUE, nonzero Reg.POS_SCALE_D.VALUE]
  ++ (List.range 4).flatMap (fun n =>
    [within (Reg.POS_ENC_CFG_n.OVS_LIM n) 1 26,
     (Reg.POS_ENC_CFG_n.EN n, fun d => d.follower || decide (d.get Reg.POS_CFG.WEB_ENC ≠ n) || d.on (Reg.POS_ENC_CFG_n.EN n)),
     (Reg.POS_IDX_PERIOD_n.PERIOD n, fun d =>
        decide (d.get (Reg.POS_IDX_PERIOD_n.PERIOD n) = 0) || decide (33 ≤ d.get (Reg.POS_IDX_PERIOD_n.PERIOD n)))])
  ++ (List.range 8).map (fun n => within (Reg.POS_PSI_CFG_n.FUNC n) 0 2)

/-- An enabled tracker on a port. -/
def Dev.trackerOn (d : Dev) (t port : Nat) : Bool := d.on (Reg.TIME_TRK_CFG_t.EN t) && decide (d.get (Reg.TIME_TRK_CFG_t.PORT t) = port)

/-- TIME (R327, R338). -/
def timeChecks : List (Fld × (Dev → Bool)) :=
  [within Reg.TIME_CFG.SRC 0 2, within Reg.TIME_CFG.DRV_ROLE 0 2,
   (Reg.TIME_CFG.DRV_ROLE, fun d => decide (d.get Reg.TIME_CFG.DRV_ROLE ≠ 2) || (!d.on Reg.TIME_CFG.AUTO_SWITCH && d.on Reg.TIME_CFG.SRC)),
   (Reg.TIME_CFG.LOG_SYNC, fun d => !(decide (2 ≤ d.get Reg.TIME_CFG.LOG_SYNC) && decide (d.get Reg.TIME_CFG.LOG_SYNC ≤ 8))),
   within Reg.TIME_SERVO.SLEW_PPM 1 500, nonzero Reg.TIME_SERVO.TAU]
  ++ (List.range 2).flatMap (fun t =>
    [nonzero (Reg.TIME_TRK_CFG_t.SYNC_TMO t),
     (Reg.TIME_TRK_CFG_t.PORT t, fun d => !(decide (d.get Reg.TIME_CFG.DRV_ROLE = 1) && d.trackerOn t 0)),
     (Reg.TIME_TRK_CFG_t.EN t, fun d =>
        decide (d.get Reg.TIME_CFG.DRV_ROLE ≠ 2) || decide (d.get Reg.TIME_CFG.SRC ≠ t + 1) || d.on (Reg.TIME_TRK_CFG_t.EN t)),
     (Reg.TIME_TRK_CFG_t.PORT t, fun d =>
        decide (d.get Reg.TIME_CFG.DRV_ROLE ≠ 2) || decide (d.get Reg.TIME_CFG.SRC ≠ t + 1) || !d.on (Reg.TIME_TRK_CFG_t.PORT t))])
  ++ [(Reg.TIME_TRK_CFG_t.DOMAIN 1, fun d =>
        !(d.on (Reg.TIME_TRK_CFG_t.EN 0) && d.on (Reg.TIME_TRK_CFG_t.EN 1)
          && decide (d.get (Reg.TIME_TRK_CFG_t.PORT 0) = d.get (Reg.TIME_TRK_CFG_t.PORT 1))
          && decide (d.get (Reg.TIME_TRK_CFG_t.DOMAIN 0) = d.get (Reg.TIME_TRK_CFG_t.DOMAIN 1)))),
      (Reg.TIME_PORT_MAC_LO_p.MAC_LO 0, fun d =>
        !(d.on Reg.TIME_CFG.DRV_ROLE || d.trackerOn 0 0 || d.trackerOn 1 0) || d.on (Reg.TIME_PORT_MAC_LO_p.MAC_LO 0)),
      (Reg.TIME_PORT_MAC_LO_p.MAC_LO 1, fun d => !(d.trackerOn 0 1 || d.trackerOn 1 1) || d.on (Reg.TIME_PORT_MAC_LO_p.MAC_LO 1))]

/-- LINEN (R302, R304, R314, R318, R321, R338). -/
def linenChecks : List (Fld × (Dev → Bool)) :=
  [nonzero Reg.LINEN_CFG.LOSS_MAX, within Reg.LINEN_CFG.SP_LEAD 10 500,
   (Reg.LINEN_CFG.SP_LEAD, fun d => decide (2 * d.get Reg.LINEN_CFG.SP_LEAD ≤ 125 * 2 ^ d.get Reg.LINEN_CFG.PERIOD)),
   (Reg.LINEN_CFG.EN, fun d => !d.on Reg.LINEN_CFG.EN || d.on Reg.TIME_CFG.DRV_ROLE),
   (Reg.LINEN_ETYPE.ETYPE, fun d => decide (0x600 ≤ d.get Reg.LINEN_ETYPE.ETYPE) && decide (d.get Reg.LINEN_ETYPE.ETYPE ≠ 0x88F7)),
   within Reg.LINEN_VMAX.VMAX 1 160000, within Reg.LINEN_GOV.H_MIN 16 32768, nonzero Reg.LINEN_GOV_DEC.A_G]
  ++ (List.range 12).flatMap (fun n =>
    [(Reg.LINEN_AX_CFG_n.ANS_TMO n, fun d => !d.on (Reg.LINEN_AX_CFG_n.ANS n) || d.on (Reg.LINEN_AX_CFG_n.ANS_TMO n)),
     (Reg.LINEN_AX_GD_n.GD n, fun d => !d.on (Reg.LINEN_AX_CFG_n.EN n) || d.on (Reg.LINEN_AX_GD_n.GD n))])

/-- RING (R345, R355). -/
def ringChecks : List (Fld × (Dev → Bool)) :=
  [(Reg.RING_CFG.EN, fun d => decide (d.net.conflict = 0)),
   (Reg.RING_CFG.PARTNER, fun d => d.on Reg.RING_CFG.EN || !d.on Reg.RING_CFG.PARTNER), within Reg.RING_CFG.NODES 1 16,
   (Reg.RING_NODE.MEMBER, fun d => d.on Reg.RING_CFG.EN || !d.on Reg.RING_NODE.MEMBER),
   (Reg.RING_NODE.UNIT, fun d => (d.on Reg.RING_CFG.EN && d.on Reg.RING_CFG.PARTNER) || !d.on Reg.RING_NODE.UNIT)]

/-- LANE (R239, R250, R259, R345, R442). -/
def laneChecks : List (Fld × (Dev → Bool)) :=
  (List.range 20).flatMap fun p =>
    let mode (d : Dev) : Bool := d.on (Reg.LANE_PORT_CFG_p.MODE p)
    let rate (d : Dev) : Nat := d.get (Reg.LANE_PORT_CFG_p.MAX_RATE p)
    let ring (d : Dev) : Bool := decide (18 ≤ p) && d.on Reg.RING_CFG.EN
    let firstOn (d : Dev) : Bool := d.on (Reg.LANE_PORT_CFG_p.EN p) && !isCamera p
      && ((List.range p).all fun q => isCamera q || !d.on (Reg.LANE_PORT_CFG_p.EN q))
    [(Reg.LANE_PORT_CFG_p.EN p, fun d => d.on (Reg.LANE_PORT_CFG_p.EN p) || !ring d),
     (Reg.LANE_PORT_CFG_p.EN p, fun d => d.on Reg.SENSE_CAL_STAT.PASS || !firstOn d),
     (Reg.LANE_PORT_CFG_p.MODE p, fun d => !mode d || decide (p < 16)),
     (Reg.LANE_PORT_CFG_p.MAX_RATE p, fun d => decide (rate d ≤ (if mode d then 1 else 2)) && (decide (rate d = 2) || !ring d)),
     (Reg.LANE_PORT_CFG_p.MIN_RATE p, fun d => decide (d.get (Reg.LANE_PORT_CFG_p.MIN_RATE p) ≤ min 2 (rate d))),
     (Reg.LANE_PORT_CFG_p.SLEEP_EN p, fun d => !d.on (Reg.LANE_PORT_CFG_p.SLEEP_EN p) || !mode d),
     (Reg.LANE_PORT_CFG_p.SLEEP_IDLE p, fun d => !d.on (Reg.LANE_PORT_CFG_p.SLEEP_EN p) || d.on (Reg.LANE_PORT_CFG_p.SLEEP_IDLE p))]

/-- The SLOTS field of a row. -/
def slotsField (n r : Nat) : Fld :=
  match r with
  | 0 => Reg.LINK_SLOTS01_n.SLOTS_0 n
  | 1 => Reg.LINK_SLOTS01_n.SLOTS_1 n
  | 2 => Reg.LINK_SLOTS23_n.SLOTS_2 n
  | _ => Reg.LINK_SLOTS23_n.SLOTS_3 n

/-- The slots of an enabled link are within its limit. -/
def Dev.slotsFit (d : Dev) (n : Nat) : Bool :=
  decide (((List.range (d.get (Reg.LINK_CFG_n.ROWS n) + 1)).map fun r => d.get (slotsField n r) + 1).foldl (· + ·) 0
    ≤ (if d.on (Reg.LANE_PORT_CFG_p.MODE n) then 4096 else 16384))

/-- LINK (R268, R477). -/
def linkChecks : List (Fld × (Dev → Bool)) :=
  (List.range 16).flatMap (fun n =>
    let signed (f : Fld) : Dev → Int := fun d => signedOf 16 (d.get f)
    let limit : Dev → Int := signed (Reg.LINK_TEMP_n.LIMIT n)
    let hard : Dev → Int := signed (Reg.LINK_TEMP_n.HARD n)
    (List.range 4).map (fun r => (slotsField n r, fun (d : Dev) => decide (d.get (Reg.LINK_CFG_n.ROWS n) ≠ r) || d.slotsFit n))
    ++ [(Reg.LINK_TEMP_n.LIMIT n, fun d => decide (-160 ≤ limit d) && decide (limit d ≤ 800)),
        (Reg.LINK_TEMP_n.HARD n, fun d => decide (-160 ≤ hard d) && decide (hard d ≤ 800) && decide (limit d < hard d))])
  ++ [within Reg.LINK_LEAD.TARGET 8 200, within Reg.LINK_HOLD.ACK_TMO 1 20, within Reg.LINK_HOLD.STATUS_TMO 2 255,
      within Reg.LINK_FIFO.DEPTH 512 65536,
      (Reg.LINK_FIFO.DEPTH, fun d => decide (d.get Reg.LINEN_GOV.H_MIN < d.get Reg.LINK_FIFO.DEPTH)),
      within Reg.LINK_LS.MIB 64 8192, within Reg.LINK_TIME.TIME_INT 10 10000]

/-- CAM (R221 to R225). -/
def camChecks : List (Fld × (Dev → Bool)) :=
  (List.range 2).flatMap (fun n =>
    [(Reg.CAM_CFG_n.IMG_RING n, fun d =>
        let r := d.get (Reg.CAM_CFG_n.IMG_RING n)
        !d.on (Reg.CAM_CFG_n.IMAGE n) || (d.on (Reg.HOST_RING_CFG_n.EN r) && decide (d.get (Reg.HOST_RING_CFG_n.KIND r) = 5))),
     within (Reg.CAM_NPIX_n.NPIX n) 1 65536,
     (Reg.CAM_XP_n.XP n, fun d => !d.on (Reg.CAM_CFG_n.EN n) || d.on (Reg.CAM_XP_n.XP n)),
     within (Reg.CAM_TRIG_n.TRIG_FC n) 64 65535, nonzero (Reg.CAM_TRIG_n.PULSE n)])
  ++ [(Reg.CAM_CFG_n.TRIG_PSO 1, fun d => !(d.on (Reg.CAM_CFG_n.EN 0) && d.on (Reg.CAM_CFG_n.EN 1)
        && decide (d.get (Reg.CAM_CFG_n.TRIG_PSO 0) = d.get (Reg.CAM_CFG_n.TRIG_PSO 1)))),
      (Reg.CAM_CFG_n.CH_MASK 1, fun d => decide (Nat.land (d.get (Reg.CAM_CFG_n.CH_MASK 0)) (d.get (Reg.CAM_CFG_n.CH_MASK 1)) = 0)),
      (Reg.CAM_ANALYSIS.WEAK_PCT, fun d => decide (d.get Reg.CAM_ANALYSIS.BAD_PCT < d.get Reg.CAM_ANALYSIS.WEAK_PCT)), nonzero Reg.CAM_TMO.TMO]

/-- The regions of DRAM that set-up places, as base and end: the Calico save area, the content store, the tile store. -/
def Dev.saveRegion (d : Dev) : Nat × Nat :=
  let b := d.get2 Reg.PIPE_CAL_SAVE_LO.BASE_LO Reg.PIPE_CAL_SAVE_HI.BASE_HI
  (b, b + 2 ^ 20)

def Dev.csRegion (d : Dev) : Nat × Nat :=
  let b := d.get2 Reg.PIPE_DMK_CS_LO.BASE_LO Reg.PIPE_DMK_CS_HI.BASE_HI
  (b, b + d.get Reg.PIPE_DMK_CS_SIZE.MIB * 2 ^ 20)

def Dev.tsRegion (d : Dev) : Nat × Nat :=
  let b := d.get2 Reg.PIPE_DMK_TS_LO.BASE_LO Reg.PIPE_DMK_TS_HI.BASE_HI
  (b, b + d.get Reg.PIPE_DMK_TS_SIZE.MIB * 2 ^ 20)

/-- Two regions do not overlap. -/
def apart (a b : Nat × Nat) : Bool := decide (a.2 ≤ b.1) || decide (b.2 ≤ a.1)

/-- PIPE (R119, R145, R152, R213 to R219). -/
def pipeChecks : List (Fld × (Dev → Bool)) :=
  let mib (f : Fld) : Fld × (Dev → Bool) := (f, fun d => decide (d.get f % 2 ^ 20 = 0))
  [nonzero Reg.PIPE_CAL_CFG.FLUSH_US, mib Reg.PIPE_CAL_SAVE_LO.BASE_LO, mib Reg.PIPE_DMK_CS_LO.BASE_LO, mib Reg.PIPE_DMK_TS_LO.BASE_LO,
   (Reg.PIPE_CAL_SAVE_HI.BASE_HI, fun d => decide (d.saveRegion.2 ≤ 2 ^ 34)),
   nonzero Reg.PIPE_DMK_CS_SIZE.MIB, nonzero Reg.PIPE_DMK_TS_SIZE.MIB,
   (Reg.PIPE_DMK_CS_SIZE.MIB, fun d => decide (d.csRegion.2 ≤ 2 ^ 34) && apart d.csRegion d.saveRegion),
   (Reg.PIPE_DMK_TS_SIZE.MIB, fun d => decide (d.tsRegion.2 ≤ 2 ^ 34) && apart d.tsRegion d.saveRegion && apart d.tsRegion d.csRegion),
   (Reg.PIPE_DMK_TS_SIZE.MIB, fun d => decide (d.get Reg.LINK_LS.MIB < d.get Reg.PIPE_DMK_TS_SIZE.MIB)),
   within Reg.PIPE_GZ_NTW.NT_W 1 65536,
   (Reg.PIPE_GZ_NTW.NT_W, fun d => decide ((d.get Reg.PIPE_GZ_CFG.CH_M1 + 1) * d.get Reg.PIPE_GZ_NTW.NT_W ≤ 262144)),
   nonzero Reg.PIPE_GZ_DECIDE.K_FAIL, nonzero Reg.PIPE_GZ_DECIDE.K_OK, nonzero Reg.PIPE_GZ_DECIDE.K_WEAK,
   within Reg.PIPE_GZ_COMP.W1 0 16, within Reg.PIPE_GZ_COMP.W2 0 16, within Reg.PIPE_GZ_COMP.W3 0 16,
   within Reg.PIPE_GZ_DEGRADE.MAX_FAIL 1 1000, within Reg.PIPE_GZ_LADDER.P 2 16, within Reg.PIPE_GZ_LADDER.LD 8 64]

/-- MEM, CHK and REC (R382, R417 to R419, R489, R498, R502). -/
def otherChecks : List (Fld × (Dev → Bool)) :=
  [within Reg.MEM_SCRUB_CFG.SRAM_S 0 3600, within Reg.MEM_SCRUB_CFG.DRAM_H 0 168,
   (Reg.CHK_CFG.MARK_EN, fun d => !d.on Reg.CHK_CFG.MARK_EN || !d.on Reg.RING_NODE.MEMBER),
   (Reg.CHK_CFG.MARK_PSO, fun d => !d.on Reg.CHK_CFG.MARK_EN || (List.range 2).all fun n =>
      !d.on (Reg.CAM_CFG_n.EN n) || decide (d.get (Reg.CAM_CFG_n.TRIG_PSO n) ≠ d.get Reg.CHK_CFG.MARK_PSO)),
   (Reg.CHK_CFG.PULSE_US, fun d => !d.on Reg.CHK_CFG.MARK_MODE || d.on Reg.CHK_CFG.PULSE_US),
   (Reg.CHK_GATE_HI.GATE_HI, fun d => decide (d.get2 Reg.CHK_GATE_LO.GATE_LO Reg.CHK_GATE_HI.GATE_HI ≤ 2 ^ 40)),
   within Reg.REC_CFG.MIN_SEV 0 4, nonzero Reg.REC_CFG.LEAD_W, nonzero Reg.REC_CFG.DESC_MS,
   (Reg.REC_RPL_CFG.EN, fun d => !d.on Reg.REC_RPL_CFG.EN
      || (!d.on Reg.RING_CFG.EN && !d.on Reg.LINEN_CFG.EN && !d.on Reg.CHK_CFG.MARK_EN && !d.on (Reg.CAM_CFG_n.EN 0) && !d.on (Reg.CAM_CFG_n.EN 1)
        && (d.ringOfKind 4).isSome))]

/-- Every condition of the set-up check: the field it names, and when it holds. -/
def setupChecks : List (Fld × (Dev → Bool)) :=
  hostChecks ++ posChecks ++ timeChecks ++ linenChecks ++ senseChecks ++ ringChecks ++ laneChecks ++ linkChecks ++ camChecks ++ pipeChecks
    ++ otherChecks

/-- The first failing field in ascending BAR0 offset, and in one register the lowest (R477). -/
def Dev.setupFails (d : Dev) : Option Fld :=
  (setupChecks.filter fun c => !c.2 d).foldl (fun m c => match m with
    | some f => if c.1.key < f.key then some c.1 else some f
    | none => some c.1) none

/-! ## SETUP and READY -/

/-- Entry to SETUP: with the ring enabled RING_HOLD goes high and ports 18 and 19 wait 20 us; every enabled port starts bring-up (R250,
R347). The duplex sub-state does not apply (R34). -/
def Dev.enterSetup (d : Dev) : Dev :=
  let d := d.goto .setup
  let d := { d with duplex := .active, net := { d.net with sync := none, arb := none, waitAt := none } }.drvMasterAgain
  let d := if d.on Reg.RING_CFG.EN then
      let d := d.driveHold (some true)
      ({ d with net := { d.net with holdAt := some d.tb } }).ringPortChange 18
    else d
  ((List.range 20).filter fun p => d.on (Reg.LANE_PORT_CFG_p.EN p)).foldl Dev.bringUp d

/-- A write of GLB_STATE_CTL: FORCE_SAFE acts alone; a request that its state does not take is refused with STATE_REFUSED. -/
def Dev.ctlWrite (d : Dev) (value : Nat) : Dev :=
  let refuse : Dev := d.post 0x0002 sevWarn [d.mode.code, value % 8]
  if d.mode = .off then d
  else if bitOf value 2 then d.forceSafe
  else match bitOf value 0, bitOf value 1 with
    | false, false => d
    | true, true => refuse
    | true, false =>
      if d.mode = .setup then (if d.svc.checking then d else { d with svc := { d.svc with checking := true } }) else refuse
    | false, true => if d.mode = .ready ∧ d.jobs = [] then d.enterSetup else refuse

/-- GO_READY. -/
def execGoReady (dt : Nat) (value : Nat) (s : State) : Host.Outcome State Fault Refusal :=
  s.act dt fun d => if bitOf value 0 then d.ctlWrite value else d

/-- GO_SETUP. -/
def execGoSetup (dt : Nat) (value : Nat) (s : State) : Host.Outcome State Fault Refusal :=
  s.act dt fun d => if bitOf value 1 then d.ctlWrite value else d

/-- The check has passed: READY; the ring's detection mode is fixed (R346), lane tests stop (R262), replay mode begins (R502). -/
def Dev.passSetup (d : Dev) : Dev :=
  let d := (List.range 20).foldl (fun (d : Dev) p =>
    let loop := d.get (Reg.LANE_TEST_p.LOOP p)
    let running := d.get (Reg.LANE_PORT_STAT_p.STATE p) = 8
    let d := d.clearTest p
    if running then d.stopTest p loop else d) d
  let d := d.put Reg.RING_STAT.DETECT (b2n (decide (5 ≤ d.get Reg.RING_CFG.NODES)))
  let d := if d.on Reg.REC_RPL_CFG.EN then d.put Reg.REC_RPL_STAT.STATE 1 else d
  (d.goto .ready).duplexEntry

/-- SETUP_CHECK_DONE. -/
def execSetupCheckDone (dt : Nat) (s : State) : Host.Outcome State Fault Refusal :=
  s.act dt fun d =>
    if d.mode ≠ .setup ∨ !d.svc.checking then d
    else
      let d := { d with svc := { d.svc with checking := false } }
      match d.setupFails with
      | some f => d.post 0x0003 sevWarn [f.off, f.lo]
      | none => d.passSetup

/-! ## BAR0 accesses -/

/-- What a write of set-up does beside the fields: an enabled ring has no expected sequence (R80), RING_HOLD follows EN (R347), a known conflict ends with a new set-up (R355), the time
source follows SRC (R327), a tracker follows its EN, HOLD_MAX goes to the heads (R278), and a modulator input starts afresh (R457). -/
def Dev.afterWrite (before d : Dev) (off : Nat) : Dev :=
  let rose (f : Fld) : Bool := d.on f && !before.on f
  if 0x10100 ≤ off ∧ off < 0x10500 then
    let n := (off - 0x10100) / 32
    if rose (Reg.HOST_RING_CFG_n.EN n) then d.modRing n fun r => { r with expSeq := none, ownRetry := 0 } else d
  else if off = 0x70000 ∨ off = 0x70004 then
    let d := if d.lkOpen then { d with net := { d.net with conflict := 0 } } else d
    if rose Reg.RING_CFG.EN then d.ringHoldOn
    else if before.on Reg.RING_CFG.EN && !d.on Reg.RING_CFG.EN then d.driveHold (some false)
    else d
  else if off = 0x40030 then (if d.get Reg.TIME_CFG.SRC ≠ before.get Reg.TIME_CFG.SRC then d.followSrc else d)
  else if off = 0x40040 ∨ off = 0x40050 then
    let t := (off - 0x40040) / 16
    if d.on (Reg.TIME_TRK_CFG_t.EN t) ≠ before.on (Reg.TIME_TRK_CFG_t.EN t) then d.followEn t else d
  else if 0x90000 ≤ off ∧ off < 0x90400 ∧ off % 64 = 0 then
    let n := (off - 0x90000) / 64
    if before.on (Reg.LINK_CFG_n.EN n) && !d.on (Reg.LINK_CFG_n.EN n) then d.linkOff n else d
  else if off = 0x90804 then (if d.get Reg.LINK_HOLD.HOLD_MAX ≠ before.get Reg.LINK_HOLD.HOLD_MAX then d.holdChanged else d)
  else if off = 0x60080 then
    (List.range 4).foldl (fun (d : Dev) n =>
      if bitOf (d.get Reg.SENSE_MOD_CFG.EN) n && !bitOf (before.get Reg.SENSE_MOD_CFG.EN) n then
        d.modModIn n fun m => { m with halfAt := d.tb, zeroAt := d.tb, validAt := d.tb, fault := none, run := 0, rmsOk := true }
      else d) d
  else d

/-- A character into the mailbox session: in SETUP and SAFE, with GO, while the input queue has room (R482). The rest of a line that is too
long is discarded (R479). -/
def Dev.mailChar (d : Dev) (value : Nat) : Dev :=
  let d := d.writeReg 0xF0020 value
  if (d.mode ≠ .setup ∧ d.mode ≠ .safe) ∨ !bitOf value 8 then d
  else if d.svc.skip then
    (if value % 256 = 13 ∨ value % 256 = 10 then { d with svc := { d.svc with skip := false } } else d)
  else if d.svc.inq.length < 128 then { d with svc := { d.svc with inq := d.svc.inq ++ [value % 256] } }
  else d

/-- MAILBOX_CHAR: a write of SVC_MBOX_TX. -/
def execMailboxChar (dt : Nat) (value : Nat) (s : State) : Host.Outcome State Fault Refusal :=
  s.act dt fun d => d.mailChar value

/-- The lane port, or the ring, whose register lies at an offset. -/
def laneReg (off o : Nat) : Bool := decide (0x80000 ≤ off) && decide (off < 0x80500) && decide (off % 64 = o)
def ringStatReg (off : Nat) : Bool := decide (0x10100 ≤ off) && decide (off < 0x10500) && decide (off % 32 = 0x14)

/-- A register whose write is a command of its own. -/
def ownRow (off : Nat) : Bool :=
  off == 0x00008 || off == 0x60074 || off == 0xE0004 || off == 0xF0020 || laneReg off 0 || laneReg off 0x20 || ringStatReg off

/-- A write of REC_STAT: its W1C bits empty the first area and the histograms (R490, R493). -/
def Dev.recStatWrite (d : Dev) (value : Nat) : Dev :=
  if !d.w1cOpen 0xE0004 then d
  else
    let d := if bitOf value 0 then d.clearFirst else d
    if bitOf value 1 then d.clearHists else d

/-- The CORE PLL is unlocked: BAR0 answers Completer Abort and takes no write (R427). -/
def Dev.bar0Dead (d : Dev) : Bool := d.clk.asyncHold && !d.on Reg.SENSE_CLK_STAT.LOCK_CORE

/-- A write of any BAR0 word. While the CORE PLL is unlocked it is discarded (R427). -/
def Dev.wordWrite (d : Dev) (off value : Nat) (mramOk : Bool) : Dev :=
  if d.bar0Dead then d
  else if !d.decodes off then d
  else if off = 0x00008 then d.ctlWrite value
  else if off = 0x60074 then d.ackWrite value mramOk
  else if off = 0xE0004 then d.recStatWrite value
  else if off = 0xF0020 then d.mailChar value
  else if laneReg off 0 then d.portWrite ((off - 0x80000) / 64) value
  else if laneReg off 0x20 then d.testWrite ((off - 0x80000) / 64) value
  else if ringStatReg off then d.ringStatWrite ((off - 0x10100) / 32) value
  else Dev.afterWrite d (d.writeReg off value) off

/-- REGISTER_WRITE: a write of a register with no row of its own. One whose on-chip transport fails parity is discarded and posted
(R379). -/
def execRegisterWrite (dt : Nat) (off value : Nat) (parity : Bool) (s : State) : Host.Outcome State Fault Refusal :=
  s.act dt fun d =>
    if d.mode = .off ∨ off % 4 ≠ 0 ∨ 0x100000 ≤ off then d
    else if parity then (d.bump Reg.MEM_PARITY.REG).postAt 0xC004 sevFault [1, off] (d.loc 0 0 0 0 0 0)
    else if ownRow off then d
    else d.wordWrite off (value % 2 ^ 32) true

/-- A read that R42 allows: one word, or two sampled in the same cycle. -/
def readOk (off len : Nat) : Bool := (decide (len = 4) && decide (off % 4 = 0)) || (decide (len = 8) && decide (off % 8 = 0))

/-- The words of a read of `n` words, each as the state before the read shows it. -/
def Dev.hostWords (d : Dev) (off n : Nat) : List Nat × Dev :=
  ((List.range n).map fun i => (d.readReg (off + 4 * i)).1, (List.range n).foldl (fun e i => (e.readReg (off + 4 * i)).2) d)

/-- BAD_ACCESS: an access by the host to BAR0 (space 0), BAR2 (1) or configuration space (2: the header, 3: the PCI Express
capability, 4: Device Serial Number). A read of the size and alignment that R42
allows is answered with its words, with Completer Abort from BAR0 while the CORE PLL is unlocked (R427), with EP set where transport parity
has struck it (R379). Any other read is answered as an Unsupported Request and any other write is discarded; one of BAR0 is posted. Before
step 8 of R470 configuration space answers Configuration Request Retry Status. -/
def execBadAccess (dt : Nat) (space off len : Nat) (write parity : Bool) (s : State) : Host.Outcome State Fault Refusal :=
  s.act dt fun d =>
    if d.mode = .off then d
    else if write then
      (if space ≠ 0 ∨ 0x100000 ≤ off ∨ (len = 4 ∧ off % 4 = 0) then d else d.post 0x0005 sevWarn [off, len, 1])
    else if space = 0 then
      if 0x100000 ≤ off then d
      else if !readOk off len then (d.post 0x0005 sevWarn [off, len, 0]).send (.readAnswer 0 off 1 false [])
      else if d.bar0Dead then d.send (.readAnswer 0 off 4 false [])
      else
        let (ws, d) := d.hostWords off (len / 4)
        let d := if parity then (d.bump Reg.MEM_PARITY.REG).postAt 0xC004 sevFault [2, off] (d.loc 0 0 0 0 0 0) else d
        d.send (.readAnswer 0 off 0 parity ws)
    else if space = 1 then
      if 0x10000 ≤ off then d
      else if readOk off len then d.send (.readAnswer 1 off 0 false ((List.range (len / 4)).map fun i => d.bar2Word (off + 4 * i)))
      else d.send (.readAnswer 1 off 1 false [])
    else if !d.svc.configOk then d.send (.readAnswer space off 2 false [])
    else if len = 4 ∧ off % 4 = 0 ∧ off < 4096 then
      match d.configWord space off with
      | some w => d.send (.readAnswer space off 0 false [w])
      | none =>
        let (w, d) := d.draw 32
        d.send (.readAnswer space off 0 false [w])
    else d.send (.readAnswer space off 1 false [])

/-! ## SAFE -/

/-- SAFE_STATUS: every 1 s. -/
def execSafeStatus (dt : Nat) (s : State) : Host.Outcome State Fault Refusal :=
  s.act dt fun d =>
    if d.mode ≠ .safe ∨ d.since d.svc.safePost < 1000000000 then d
    else
      let st := ((regAt 0xF0008).map (d.wordOf 0xF0008)).getD 0
      let d := { d with svc := { d.svc with safePost := d.tb } }
      d.post 0x0007 sevWarn [d.get Reg.GLB_STATE.SAFE_CAUSE, d.get Reg.GLB_FATAL_LOC_LO.LOC_LO, d.get Reg.GLB_FATAL_LOC_HI.LOC_HI, st,
        d.since d.svc.safeAt / 1000000000]

end Sys2Proof.Machine
end

