-- ==== Sys2Proof/Machine/Power.lean ====
section
/-! DEFINITION. Resets of the whole device and the power-up sequence (R381, R386, R389, R436, R441, R455, R466 to R474), the firmware image
(R474, R475), the monitor key (R481). -/
namespace Sys2Proof.Machine

/-! ## Cold reset (R436, R455, R467 to R469) -/

/-- The device in cold reset: MRAM keeps its regions, and PEND lives in always-on logic that only a power-on reset clears. -/
def Dev.coldReset (d : Dev) (powerOn : Bool) : Dev :=
  let d := (d.driveHold none).psoReset
  let r := Dev.reset
  let new : Dev := { r with
    mode := .off, free := d.free, out := d.out, ecc := { r.ecc with field := d.ecc.field }, gz := { r.gz with mram := d.gz.mram }
    sense := { r.sense with shut := d.sense.shut }, svc := { r.svc with key := d.svc.key } }
  if powerOn then new else new.put Reg.SENSE_SHUT.PEND (d.get Reg.SENSE_SHUT.PEND)

/-- POWER_ON_RESET: a supply detector holds the device. -/
def execPowerOnReset (dt : Nat) (s : State) : Host.Outcome State Fault Refusal := s.act dt fun d => d.coldReset true

/-- COLD_RESET: a low pulse of `ns` on RESET_N or PERST#. Below 100 ns it is ignored; below 1 us it is ignored or taken, which is open. -/
def execColdReset (dt : Nat) (ns : Nat) (s : State) : Host.Outcome State Fault Refusal :=
  s.act dt fun d =>
    if ns < 100 ∨ d.mode = .off then d
    else if 1000 ≤ ns then d.coldReset false
    else
      let (b, d) := d.draw 1
      if b = 1 then d.coldReset false else d

/-- The copies of an MRAM region that a mask calls invalid, by CRC or a UE, are so. -/
def dropBad {α : Type} (l : List (Option α)) (bad : Nat) : List (Option α) :=
  (List.range l.length).map fun i => if bitOf bad i then none else l.getD i none

/-- A region that had a record and has none any more is posted later (R389). -/
def Dev.regionLost {α : Type} (d : Dev) (off : Nat) (old new : List (Option α)) : Dev :=
  if old.any Option.isSome && !new.any Option.isSome then { d with ecc := { d.ecc with lost := d.ecc.lost ++ [off] } } else d

/-- COLD_RESET_RELEASE: the last reset input is released, step 1 of R470. `bad` is the mask of invalid copies of the alignment set, which
goes into both banks (R235). -/
def execColdResetRelease (dt : Nat) (bad : Nat) (s : State) : Host.Outcome State Fault Refusal :=
  s.act dt fun d =>
    if d.mode ≠ .off then d
    else
      let mram := dropBad d.gz.mram bad
      let align := (mramRead mram).getD []
      let d := d.regionLost 0x2000 d.gz.mram mram
      let gz := { d.gz with bank0 := { d.gz.bank0 with align := align }, bank1 := { d.gz.bank1 with align := align }, mram := mram }
      let gz : GzSt := { gz with alignLost := (mramRead mram).isNone }
      ((({ d with mode := .selftest, gz := gz }).driveHold (some false)).put Reg.SVC_ST.STAGE 1).alignRem

/-! ## Stages 1 to 4 (R386, R471) -/

/-- PLL_LOCK: CREF and every PLL of R427 are locked within 1 ms of an attempt: temperature sampling and the start-up calibration begin
(R441), and the PCI Express link trains to `width` lanes at speed `speed` (R74). `temps` are the 16 die readings, `tref` and `lref` whether
TREF runs and LREF is within its tolerance (R240). -/
def execPllLock (dt : Nat) (temps : List Int) (tref lref : Bool) (width speed : Nat) (s : State) : Host.Outcome State Fault Refusal :=
  s.act dt fun d =>
    if d.mode ≠ .selftest ∨ d.svc.pllsLocked ∨ 1000000 < d.since d.clk.relockAt then d
    else
      let d := ([0, 2, 3, 4, 5, 6, 7, 8].foldl (fun (d : Dev) i => d.put (clkBit i) 1) d).put Reg.SENSE_CLK_STAT.TREF_OK (b2n tref)
      let d := (d.put Reg.LANE_GLB.LREF_OK (b2n lref)).stageEnds 1 d.stageUs 2
      let d := if [1, 4, 8].contains width && decide (1 ≤ speed) && decide (speed ≤ 4) then
        { d with host := { d.host with linkWidth := width, linkSpeed := speed } } else d
      let d := { d with svc := { d.svc with pllsLocked := true } }
      d.calStart 0 true temps []

/-- CLOCK_STAGE_RETRY: every 10 ms. -/
def execClockStageRetry (dt : Nat) (s : State) : Host.Outcome State Fault Refusal :=
  s.act dt fun d =>
    if d.mode ≠ .selftest ∨ d.svc.pllsLocked ∨ d.since d.clk.relockAt < 10000000 then d
    else { d with clk := { d.clk with relockAt := d.tb } }

/-- EFUSE_READ_DONE: the eFuse map passes or fails its check bits; the field repair table and the shutdown record are read, with masks of
their invalid copies; the last `tail` us were the repair read. -/
def execEfuseReadDone (dt : Nat) (ok : Bool) (badField badShut tail : Nat) (s : State) : Host.Outcome State Fault Refusal :=
  s.act dt fun d =>
    if d.mode ≠ .selftest ∨ d.get Reg.SVC_ST.STAGE ≠ 2 then d
    else if !ok then (d.stageEnds 2 d.stageUs 2).selftestFail 2 (d.loc 0 4 12 0 0 0) causeSelftest
    else
      let us := d.stageUs
      let field := dropBad d.ecc.field badField
      let shut := dropBad d.sense.shut badShut
      let d := (d.regionLost 0 d.ecc.field field).regionLost 0x3000 d.sense.shut shut
      let d := { d with ecc := { d.ecc with field := field }, sense := { d.sense with shut := shut } }
      ((d.showShut.stageEnds 2 (us - tail) 3)).stageEnds 3 (min us tail) 4

/-- A repair entry takes a spare of its macro: whether there was one (R385, R386). -/
def Dev.applyRepair (d : Dev) (e : Nat) : Bool × Dev :=
  let i := bitsOf e 0 12
  let (rows, cols) := (kvGet d.ecc.spares i).getD (0, 0)
  let take (x : Nat × Nat) : Bool × Dev := (true, { d with ecc := { d.ecc with spares := kvPut d.ecc.spares i x } })
  if bitOf e 12 then (if 2 ≤ cols then (false, d.bump Reg.MEM_REPAIR2.SKIPPED) else take (rows, cols + 1))
  else if 4 ≤ rows then (false, d.bump Reg.MEM_REPAIR2.SKIPPED) else take (rows + 1, cols)

/-- Apply entries in order: how many took a spare. -/
def Dev.applyRepairs (d : Dev) (es : List Nat) : Nat × Dev :=
  (es.filter (bitOf · 23)).foldl (fun (acc : Nat × Dev) e => let (ok, d) := acc.2.applyRepair e; (acc.1 + b2n ok, d)) (0, d)

/-- BIST_DONE: the entries that BIST finds; whether the logic BIST passes, with the location of a failure; whether the service
processor's scratch memory has failed, so that the monitor stays silent (R478). -/
def execBistDone (dt : Nat) (entries : List Nat) (logicOk : Bool) (loc : Nat) (silent : Bool) (s : State) : Host.Outcome State Fault Refusal :=
  s.act dt fun d =>
    if d.mode ≠ .selftest ∨ d.get Reg.SVC_ST.STAGE ≠ 4 then d
    else
      let field := (mramRead d.ecc.field).getD []
      let (n, d) := d.applyRepairs Config.efuseMap
      let (k, d) := d.applyRepairs field
      let (m, d) := d.applyRepairs entries
      let d := (d.put Reg.MEM_REPAIR.EFUSE n).put Reg.MEM_REPAIR.FIELD k
      let d := { d with svc := { d.svc with silent := silent } }
      let d := if entries = [] then d else d.fieldToMram ((field ++ entries).take 1021)
      let d := d.stageEnds 4 d.stageUs 4
      if !logicOk ∨ m < (entries.filter (bitOf · 23)).length then d.selftestFail 4 (d.heldLoc loc) causeSelftest
      else (d.put Reg.SVC_ST.STAGE 5).startSweep ⟨1, none, none, false, []⟩

/-! ## Fill and boot (R381, R470 to R474) -/

/-- MAGIC and HDR_VER are valid. -/
def headerValid (h : List Nat) : Bool := decide (leAt h 0 4 = 0x4D495953) && decide (leAt h 4 2 = 1)

/-- Every byte of a range is 0. -/
def zeroBytes (h : List Nat) (o n : Nat) : Bool := ((h.drop o).take n).all (· == 0)

/-- The header byte of the first check that an image fails (R474). -/
def imageFault (h payload : List Nat) : Option Nat :=
  let len := leAt h 8 4
  let body := h.take 128
  let checks : List (Nat × Bool) :=
    [(0, decide (leAt h 0 4 = 0x4D495953)), (4, decide (leAt h 4 2 = 1)),
     (6, decide (leAt h 6 1 ≤ 3) && !bitOf Config.efuseRevoked (leAt h 6 1)), (7, zeroBytes h 7 1),
     (8, decide (4096 ≤ len) && decide (len ≤ 8384512) && decide (len % 4096 = 0) && decide (payload.length = len)),
     (16, decide (leAt h 16 2 ≤ 63) && decide (Config.efuseFloor % 64 ≤ leAt h 16 2)), (18, decide (leAt h 18 2 = 0x00B0)), (24, zeroBytes h 24 8),
     (32, decide (sha256 ((h.drop 32).take 64) = Config.efuseKeyHash (leAt h 6 1))),
     (96, decide (sha256 payload = ofBe ((h.drop 96).take 32))),
     (128, ecdsaOk (ofBe ((h.drop 32).take 32), ofBe ((h.drop 64).take 32)) (sha256 body) (ofBe ((h.drop 128).take 32)) (ofBe ((h.drop 160).take 32))),
     (192, zeroBytes h 192 320)]
  (checks.find? fun c => !c.2).map (·.1)

/-- The candidate slot of two headers: valid, and of the higher VERSION; slot 0 on equal versions. -/
def candidateOf (h0 h1 : List Nat) : Option Nat :=
  match headerValid h0, headerValid h1 with
  | true, true => some (b2n (decide (leAt h0 12 4 < leAt h1 12 4)))
  | true, false => some 0
  | false, true => some 1
  | false, false => none

/-- A boot that finds no image: the spec leaves the location open; it is a free one that R23 allows. -/
def Dev.bootFail (d : Dev) : Dev :=
  let (loc, d) := d.draw 48
  (d.stageEnds 8 d.stageUs 8).selftestFail 8 (d.heldLoc loc) causeImage

/-- MEMORY_FILL_DONE: the SRAM and the DRAM fill have ended, or have failed at a location; `ms` is the time of the DRAM fill, `h0` and `h1`
are the slot headers that the boot ROM then reads. -/
def execMemoryFillDone (dt : Nat) (sramOk dramOk : Bool) (ms loc : Nat) (h0 h1 : List Byte) (s : State) : Host.Outcome State Fault Refusal :=
  s.actMem dt fun d m =>
    if d.mode ≠ .selftest ∨ d.get Reg.SVC_ST.STAGE ≠ 6 then (d, m)
    else
      let d := (d.put Reg.MEM_FILL.SRAM_DONE (b2n sramOk)).put Reg.MEM_FILL.DRAM_DONE (b2n (sramOk && dramOk))
      let d := d.stageEnds 6 d.stageUs 6
      if !(sramOk && dramOk) then (d.selftestFail 6 (d.heldLoc loc) causeSelftest, m)
      else
        let d := d.put Reg.MEM_FILL.DRAM_MS (min 65535 ms)
        let d := { d with svc := { d.svc with filled := true }, ecc := { d.ecc with sramAt := d.tb, dramAt := d.tb } }
        if d.svc.forceHeld then (d.enterSafe causeForce 0 0, [])
        else
          let d := { (d.put Reg.SVC_ST.STAGE 8) with svc := { d.svc with up := true, stageAt := d.tb } }
          let a := natBytes h0
          let b := natBytes h1
          match candidateOf a b with
          | none => (d.bootFail, [])
          | some k =>
            ({ d with svc := { d.svc with candidate := some k, subsystem := leAt (if k = 0 then a else b) 20 4, configOk := true } }, [])

/-- IMAGE_LOAD_DONE: the candidate, header and payload, is loaded and checked; the other slot follows a first failure. -/
def execImageLoadDone (dt : Nat) (header payload : List Byte) (s : State) : Host.Outcome State Fault Refusal :=
  s.act dt fun d =>
    match d.svc.candidate with
    | none => d
    | some slot =>
      if d.mode ≠ .selftest ∨ d.get Reg.SVC_ST.STAGE ≠ 8 ∨ header.length ≠ 512 then d
      else
        let h := natBytes header
        match imageFault h (natBytes payload), d.svc.fallback with
        | none, _ =>
          let d := (d.put Reg.SVC_BOOT.SLOT slot).put Reg.SVC_BOOT.ROLLBACK (leAt h 16 2)
          let d := (d.put Reg.SVC_FW_VER.VERSION (leAt h 12 4)).stageEnds 8 d.stageUs 9
          { d with svc := { d.svc with verified := true } }
        | some byte, none =>
          { (d.put Reg.SVC_BOOT.FALLBACK 1) with svc := { d.svc with fallback := some (slot, byte), candidate := some (1 - slot) } }
        | some _, some _ => d.bootFail

/-- FIRMWARE_SELFTEST_DONE: step 12. SETUP, or SAFE with the lowest cause that holds (R473); the monitor prints its banner. -/
def execFirmwareSelftestDone (dt : Nat) (ok : Bool) (loc : Nat) (s : State) : Host.Outcome State Fault Refusal :=
  s.act dt fun d =>
    if d.mode ≠ .selftest ∨ d.get Reg.SVC_ST.STAGE ≠ 9 ∨ !d.svc.verified then d
    else
      let d := d.stageEnds 9 d.stageUs 9
      let d := d.put Reg.SVC_ST.TIME_MS (min 65535 (d.tb / 1000000))
      let d := { d with svc := { d.svc with upUs := d.tb / 1000 } }
      let d := if !ok then d.selftestFail 9 (d.heldLoc loc) causeSelftest
        else if d.on Reg.SENSE_SHUT.PEND then (d.enterSafe causeThermal 0 0).selftestRecord
        else d.enterSetup.selftestRecord
      ({ d with svc := { d.svc with upCause := d.get Reg.GLB_STATE.SAFE_CAUSE } }).send (.monitor .banner)

/-! ## IMAGE_WRITE and MON_KEY (R475, R481) -/

/-- IMAGE_WRITE: the image is fetched and checked before anything is erased. A second one waits in its ring. -/
def execImageWrite (dt : Nat) (ring : Nat) (x : Desc) (data : Fetch) (s : State) : Host.Outcome State Fault Refusal :=
  s.act dt fun d =>
    if d.svc.image.isSome then d
    else d.onParam ring x (· == 0xF001) [.setup] true fun d t =>
      let len := x.w 8
      let slot := x.w 9 % 2
      let addr := x.w 6 + 2 ^ 32 * x.w 7
      match valueExtra x [0xFFFFFFFF, 0xFFFFFFFF, 0xFFFFFFFF, 1] with
      | some w => d.complete t stBadParam w
      | none =>
        if addr % 4096 ≠ 0 then d.complete t stBadAddress 0
        else if len < 4608 ∨ 8385024 < len ∨ len % 4096 ≠ 512 then d.complete t stBadParam 8
        else if slot = d.get Reg.SVC_BOOT.SLOT then d.complete t stBadParam 9
        else
          let d := d.reads (d.channelOf t.ring) addr len
          match fetched data len with
          | .error code => d.fetchFail t addr len (failedAt data) code
          | .ok bytes =>
            let d := d.movedRing t.ring len
            match struckAt data, imageFault (bytes.take 512) (bytes.drop 512) with
            | some _, _ => (d.dataParity (d.channelOf t.ring)).complete t stPoisoned 0
            | none, some byte => d.complete t stTableBad byte
            | none, none => ({ d with svc := { d.svc with image := some ⟨t, slot⟩ } }).send (.flash slot bytes)

/-- IMAGE_WRITE_DONE: the slot has been erased, written and read back. -/
def execImageWriteDone (dt : Nat) (s : State) : Host.Outcome State Fault Refusal :=
  s.act dt fun d =>
    match d.svc.image with
    | none => d
    | some w => ({ d with svc := { d.svc with image := none } }).complete w.ticket stOk 0

/-- What MON_KEY does, when it applies (R91). -/
def Dev.monKey (d : Dev) (t : Ticket) (x : Desc) : Dev :=
  match valueExtra x [0xFFFFFFFF, 0, 0, 0] with
  | some w => d.complete t stBadParam w
  | none => ({ d with svc := { d.svc with key := x.w 6 } }).complete t stOk 0

/-- MON_KEY. -/
def execMonKey (dt : Nat) (ring : Nat) (x : Desc) (s : State) : Host.Outcome State Fault Refusal :=
  s.act dt fun d => d.onParam ring x (· == 0xF002) [.setup] true fun d t => d.monKey t x

end Sys2Proof.Machine
end

