-- ==== Sys2Proof/Machine/Edges.lean ====
section
/-! DEFINITION. The two commands that move PW, and with it the PARAMs that wait for line 0 of a frame (R91). -/
namespace Sys2Proof.Machine

/-- What a PARAM that has been taken does when it applies: its rule by its ID. An ID whose rule keeps it from waiting does nothing here. -/
def Dev.applyParam (d : Dev) (t : Ticket) (x : Desc) : Dev :=
  match paramId x with
  | 0x3002 => d.psoAt t x
  | 0x4001 => d.timeSrc t x
  | 0x5001 => d.camStart t x
  | 0x5002 => d.gearSet t x
  | 0x6801 => d.calNow t x
  | 0x7001 => d.handover t x
  | 0x8001 => d.laneInject t x
  | 0x9001 => d.leadSet t x
  | 0xC001 => d.memRepairClear t x
  | 0xC002 => d.dramSpeed t x
  | 0xC003 => d.dramTrain t x
  | 0xE001 => d.recMark t x
  | 0xF002 => d.monKey t x
  | id =>
    if [0x5010, 0x5014, 0x5018, 0x501C].contains id then d.linenParam t x
    else if [0x6000, 0x6080, 0x6094].contains id then d.senseParam t x
    else d

/-- PW has reached a PARAM's frame start. -/
def Dev.paramReached (d : Dev) (p : Nat) : Bool := d.mode.served && decide (0 ≤ pwDiff d.pos.pw p)

/-- The PARAMs whose frame has come apply, in the order in which they were taken (R91). -/
def Dev.paramsDue (d : Dev) : Dev :=
  let due := d.host.deferred.filter fun x => d.paramReached x.2.2
  let host := { d.host with deferred := d.host.deferred.filter fun x => !d.paramReached x.2.2 }
  due.foldl (fun (d : Dev) x => d.applyParam x.1 x.2.1) { d with host := host }

/-- WEB_ENCODER_EDGE: an accepted edge of the web encoder (R50). -/
def execWebEncoderEdge (dt : Nat) (lineA aLeads : Bool) (s : State) : Host.Outcome State Fault Refusal :=
  s.act dt fun d => (d.webEdge lineA aLeads).paramsDue

/-- PW: a ring message (R351). -/
def execPwMessage (dt : Nat) (port : Nat) (words : List (BitVec 64)) (s : State) : Host.Outcome State Fault Refusal :=
  s.act dt fun d => (d.pwTaken port words).paramsDue

end Sys2Proof.Machine
end

