-- ==== Sys2Proof/Machine/Monitor.lean ====
section
/-! DEFINITION. The Yardor monitor on UART_0 and in the mailbox (R478 to R482). Session 0 is UART_0, session 1 the mailbox. -/
namespace Sys2Proof.Machine

/-! ## Lines (R479) -/

/-- Characters as their codes. -/
def chars (s : String) : List Nat := s.toList.map Char.toNat

/-- The first line of a session's input that ends, and what follows its CR, LF or both. -/
def firstLine : List Nat → Option (List Nat × List Nat)
  | [] => none
  | 13 :: 10 :: t => some ([], t)
  | 13 :: t => some ([], t)
  | 10 :: t => some ([], t)
  | c :: t => (firstLine t).map fun (l, r) => (c :: l, r)

/-- A line as tokens, separated by spaces. -/
def tokens (l : List Nat) : List (List Nat) :=
  let r := l.foldr (fun c (acc : List Nat × List (List Nat)) =>
    if c = 32 then ([], if acc.1 = [] then acc.2 else acc.1 :: acc.2) else (c :: acc.1, acc.2)) ([], [])
  if r.1 = [] then r.2 else r.1 :: r.2

/-- The value of a digit. -/
def digitOf (base c : Nat) : Option Nat :=
  let v := if 48 ≤ c ∧ c ≤ 57 then some (c - 48) else if 65 ≤ c ∧ c ≤ 70 then some (c - 55) else if 97 ≤ c ∧ c ≤ 102 then some (c - 87) else none
  v.filter (· < base)

/-- A number in decimal, or in hexadecimal with 0x; underscores count for nothing. -/
def numberOf (t : List Nat) : Option Nat :=
  let (base, ds) := match t with
    | 48 :: 120 :: r => (16, r)
    | r => (10, r)
  let ds := ds.filter (· != 95)
  if ds = [] then none else ds.foldl (fun a c => a.bind fun n => (digitOf base c).map fun v => n * base + v) (some 0)

/-- The commands of R480. -/
def monNames : List String :=
  ["help", "ver", "state", "st", "temp", "rd", "rec", "lane", "mem", "baud", "unlock", "lock", "wr", "safe", "ack", "reboot"]

/-- A line of printable ASCII of at most 127 characters. -/
def readable (l : List Nat) : Bool := decide (l.length ≤ 127) && l.all fun c => decide (32 ≤ c) && decide (c ≤ 126)

/-- The session runs: the service processor is out of reset and not silent; the UART has its clock, the mailbox is in SETUP or SAFE. -/
def Dev.monAlive (d : Dev) (m : Nat) : Bool :=
  d.mode != .off && d.svc.up && !d.svc.silent
    && (if m = 0 then d.on Reg.SENSE_CLK_STAT.LOCK_AUX else decide (m = 1) && (d.mode == .setup || d.mode == .safe))

/-- Take a line from the mailbox's input, if it is this command with these arguments. -/
def Dev.mailTake (d : Dev) (name : String) (args : List (Option Nat)) : Option Dev :=
  match firstLine (d.svc.inq.dropWhile fun c => c == 13 || c == 10) with
  | none => none
  | some (l, rest) =>
    match tokens l with
    | [] => none
    | n :: as => if readable l && n == chars name && as.map numberOf == args then some { d with svc := { d.svc with inq := rest } } else none

/-- Say something in a session. -/
def Dev.say (d : Dev) (m : Nat) (r : MonResp) : Dev :=
  if m = 0 then d.send (.monitor r) else { d with svc := { d.svc with outq := d.svc.outq ++ (Config.monitorText r).map (· % 256) } }

/-- The last line of a response: OK, or ERR with a code. -/
def Dev.finish (d : Dev) (m : Nat) (e : Option Nat) : Dev := d.say m (match e with | some c => .err c | none => .ok)

/-- A line has come in a session. -/
def Dev.heardLine (d : Dev) (m : Nat) : Dev := d.modSession m fun x => { x with lastAt := d.tb }

/-- MONITOR_BAD_LINE: a line that is too long or unreadable, or whose first token is no command. In the mailbox it is the first line, or a full
queue with no line end in it. -/
def execMonitorBadLine (dt : Nat) (m : Nat) (line : List Nat) (s : State) : Host.Outcome State Fault Refusal :=
  s.act dt fun d =>
    if !d.monAlive m then d
    else
      let q := d.svc.inq.dropWhile fun c => c == 13 || c == 10
      let taken : Option Dev :=
        if m = 0 then some d
        else match firstLine q with
          | some (l, rest) => if l = line then some { d with svc := { d.svc with inq := rest } } else none
          | none => if d.svc.inq.length = 128 ∧ line = d.svc.inq then some { d with svc := { d.svc with inq := [], skip := true } } else none
      match taken with
      | none => d
      | some e =>
        if !readable line then (e.heardLine m).finish m (some 1)
        else match tokens line with
          | [] => d
          | n :: _ => if monNames.any fun k => chars k == n then d else (e.heardLine m).finish m (some 2)

/-- A command line: it is taken, its session heard, a change of baud rate confirmed; then wrong arguments, the boot ROM, and the lock are
looked at before what the command does, which gives an error code or none. `u` says that it needs an unlocked session. -/
def Dev.monCmd (d : Dev) (m : Nat) (name : String) (args : List (Option Nat)) (lo hi : Nat) (u : Bool)
    (f : Dev → List Nat → Dev × Option Nat) : Dev :=
  if !d.monAlive m then d
  else match (if m = 0 then some d else d.mailTake name args) with
    | none => d
    | some d =>
      let d := d.heardLine m
      let d := if m = 0 then { d with svc := { d.svc with baudAt := none } } else d
      if args.length < lo ∨ hi < args.length ∨ args.any Option.isNone then d.finish m (some 3)
      else if u && !d.svc.verified then d.finish m (some 5)
      else if u && !d.unlocked m then d.finish m (some 4)
      else
        let (d, e) := f d (args.map (·.getD 0))
        d.finish m e

/-! ## Commands that need no unlock (R480) -/

/-- HELP. -/
def execMonHelp (dt : Nat) (m : Nat) (args : List (Option Nat)) (s : State) : Host.Outcome State Fault Refusal :=
  s.act dt fun d => d.monCmd m "help" args 0 0 false fun d _ => (d.say m .help, none)

/-- VER: the boot ROM reports no firmware fields (R478). -/
def execMonVer (dt : Nat) (m : Nat) (args : List (Option Nat)) (s : State) : Host.Outcome State Fault Refusal :=
  s.act dt fun d => d.monCmd m "ver" args 0 0 false fun d _ =>
    let fw := if d.svc.verified then some (d.get Reg.SVC_FW_VER.VERSION, d.get Reg.SVC_BOOT.SLOT, d.get Reg.SVC_BOOT.ROLLBACK) else none
    (d.say m (.ver (d.get Reg.GLB_ID.PART) (d.get Reg.GLB_ID.STEPPING) (d.shown Reg.GLB_ID.GRADE) fw), none)

/-- The word at an offset as the monitor reads it. -/
def Dev.wordAt (d : Dev) (off : Nat) : Nat := ((regAt off).map (d.wordOf off)).getD 0

/-- STATE. -/
def execMonState (dt : Nat) (m : Nat) (args : List (Option Nat)) (s : State) : Host.Outcome State Fault Refusal :=
  s.act dt fun d => d.monCmd m "state" args 0 0 false fun d _ =>
    (d.say m (.state (d.wordAt 4) (d.get2 Reg.GLB_FATAL_LOC_LO.LOC_LO Reg.GLB_FATAL_LOC_HI.LOC_HI)), none)

/-- ST. -/
def execMonSt (dt : Nat) (m : Nat) (args : List (Option Nat)) (s : State) : Host.Outcome State Fault Refusal :=
  s.act dt fun d => d.monCmd m "st" args 0 0 false fun d _ =>
    (d.say m (.selftest (d.get Reg.SVC_ST.STAGE) (d.get Reg.SVC_ST.FAILED) (d.get2 Reg.SVC_ST_LOC_LO.LOC_LO Reg.SVC_ST_LOC_HI.LOC_HI)
      d.svc.durations), none)

/-- TEMP. -/
def execMonTemp (dt : Nat) (m : Nat) (args : List (Option Nat)) (s : State) : Host.Outcome State Fault Refusal :=
  s.act dt fun d => d.monCmd m "temp" args 0 0 false fun d _ =>
    (d.say m (.temp ((List.range 17).map fun n => d.wordAt (Reg.SENSE_TEMP_n.TEMP n).off) (d.get Reg.SENSE_THERM_STAT.LEVEL) (d.wordAt 0x60070)), none)

/-- Read words in order. -/
def Dev.readWords : Nat → Nat → Dev → List Nat × Dev
  | 0, _, d => ([], d)
  | n + 1, off, d =>
    let (w, d) := d.readReg off
    let (ws, d) := Dev.readWords n (off + 4) d
    (w :: ws, d)

/-- RD: an access that BAR0 does not take posts what the host's would. -/
def execMonRd (dt : Nat) (m : Nat) (args : List (Option Nat)) (s : State) : Host.Outcome State Fault Refusal :=
  s.act dt fun d => d.monCmd m "rd" args 1 2 false fun d as =>
    let off := as.getD 0 0
    let n := as.getD 1 1
    if n < 1 ∨ 64 < n ∨ 0x100000 < off + 4 * n then (d, some 3)
    else if d.bar0Dead then (d, some 6)
    else if off % 4 ≠ 0 then (d.post 0x0005 sevWarn [off, 4, 0], some 6)
    else
      let (ws, d) := d.readWords n off
      (d.say m (.words off ws), none)

/-- REC: how many records without an argument is open. -/
def execMonRec (dt : Nat) (m : Nat) (args : List (Option Nat)) (s : State) : Host.Outcome State Fault Refusal :=
  s.act dt fun d => d.monCmd m "rec" args 0 1 false fun d as =>
    let (n, d) := if as = [] then (let (k, d) := d.draw 6; (k + 1, d)) else (as.getD 0 0, d)
    if n < 1 ∨ 64 < n then (d, some 3) else (d.say m (.records (d.recd.newest.take n)), none)

/-- LANE_PORT_STAT and the counters of a port. -/
def Dev.laneWords (d : Dev) (p : Nat) : Nat × List Nat :=
  (p, [0x04, 0x10, 0x14, 0x18, 0x1C].map fun o => d.wordAt (0x80000 + 64 * p + o))

/-- LANE. -/
def execMonLane (dt : Nat) (m : Nat) (args : List (Option Nat)) (s : State) : Host.Outcome State Fault Refusal :=
  s.act dt fun d => d.monCmd m "lane" args 0 1 false fun d as =>
    if 20 ≤ as.getD 0 0 then (d, some 3)
    else (d.say m (.lane (if as = [] then (List.range 20).map d.laneWords else [d.laneWords (as.getD 0 0)])), none)

/-- MEM. -/
def execMonMem (dt : Nat) (m : Nat) (args : List (Option Nat)) (s : State) : Host.Outcome State Fault Refusal :=
  s.act dt fun d => d.monCmd m "mem" args 0 0 false fun d _ =>
    (d.say m (.mem ([Reg.MEM_REPAIR.EFUSE, Reg.MEM_CE_CNT.SRAM, Reg.MEM_UE_CNT.NEW, Reg.MEM_DRAM_STAT.HOT].map fun f => d.wordAt f.off)), none)

/-- The baud rates in the order of SVC_MON.BAUD. -/
def baudRates : List Nat := [115200, 230400, 460800, 921600, 1500000, 3000000]

/-- BAUD: the new rate applies after the response line. -/
def execMonBaud (dt : Nat) (m : Nat) (args : List (Option Nat)) (s : State) : Host.Outcome State Fault Refusal :=
  s.act dt fun d => d.monCmd m "baud" args 1 1 false fun d as =>
    match baudRates.findIdx? (· == as.getD 0 0) with
    | some i => ({ (d.put Reg.SVC_MON.BAUD i) with svc := { d.svc with baudAt := some d.tb } }, none)
    | none => (d, some 3)

/-- BAUD_REVERT: no valid line for 10 s. -/
def execBaudRevert (dt : Nat) (s : State) : Host.Outcome State Fault Refusal :=
  s.act dt fun d =>
    match d.svc.baudAt with
    | some t => if 10000000000 ≤ d.since t then { (d.put Reg.SVC_MON.BAUD 0) with svc := { d.svc with baudAt := none } } else d
    | none => d

/-- UART_BREAK: longer than two character times. The UART domain is reset: characters in crossing 15 are lost (R437). -/
def execUartBreak (dt : Nat) (s : State) : Host.Outcome State Fault Refusal :=
  s.act dt fun d =>
    if d.mode = .off ∨ !d.on Reg.SENSE_CLK_STAT.LOCK_AUX then d
    else
      let d := (d.flushXing 15 0).put Reg.SVC_MON.BAUD 0
      ({ d with svc := { d.svc with baudAt := none } }).lockSession 0

/-! ## Unlocking (R481) -/

/-- An unlock that is refused before an answer is looked at: in RUN and HOLD, by the boot ROM, with K = 0, in a lockout. -/
def Dev.unlockGate (d : Dev) (m : Nat) : Option (Dev × Option Nat) :=
  if d.mode = .run ∨ d.mode = .hold ∨ !d.svc.verified then some (d, some 5)
  else if d.svc.key = 0 then some (d.monResult m 1 0, some 4)
  else if d.on Reg.SVC_MON.LOCKOUT then some (d.monResult m 2 0, some 4)
  else none

/-- UNLOCK_CHALLENGE: a new challenge, which is recorded. -/
def execUnlockChallenge (dt : Nat) (m : Nat) (s : State) : Host.Outcome State Fault Refusal :=
  s.act dt fun d => d.monCmd m "unlock" [] 0 0 false fun d _ =>
    match d.unlockGate m with
    | some r => r
    | none =>
      let (c, d) := d.draw 32
      let (b, d) := d.draw 8
      let d := (d.modSession m fun x => { x with challenge := some c }).recordNow 3 ([m, b, 0, 0] ++ leBytes 4 c)
      (d.say m (.challenge c), none)

/-- The answer to a challenge under a key. -/
def unlockAnswer (c k : Nat) : Nat := crc32c (leBytes 4 c ++ leBytes 4 k)

/-- UNLOCK_ANSWER: a wrong answer, or one with no challenge, invalidates C; the third locks out. -/
def execUnlockAnswer (dt : Nat) (m : Nat) (args : List (Option Nat)) (s : State) : Host.Outcome State Fault Refusal :=
  s.act dt fun d =>
    if args = [] then d
    else d.monCmd m "unlock" args 1 1 false fun d as =>
      match d.unlockGate m with
      | some r => r
      | none =>
        let c := (d.session m).challenge
        let d := d.modSession m fun x => { x with challenge := none }
        if c.any fun c => decide (as.getD 0 0 = unlockAnswer c d.svc.key) then
          let d := { d with svc := { d.svc with wrong := 0 } }
          ((d.put (if m = 0 then Reg.SVC_MON.UNLOCKED_U else Reg.SVC_MON.UNLOCKED_M) 1).monResult m 0 (c.getD 0), none)
        else
          let d := (d.bump Reg.SVC_MON.FAILS).monResult m 1 (c.getD 0)
          let d := if 2 ≤ d.svc.wrong then { (d.put Reg.SVC_MON.LOCKOUT 1) with svc := { d.svc with wrong := 0, lockoutAt := d.tb } }
            else { d with svc := { d.svc with wrong := d.svc.wrong + 1 } }
          (d, some 4)

/-- LOCKOUT_END: 60 s. -/
def execLockoutEnd (dt : Nat) (s : State) : Host.Outcome State Fault Refusal :=
  s.act dt fun d => if d.on Reg.SVC_MON.LOCKOUT && decide (60000000000 ≤ d.since d.svc.lockoutAt) then d.put Reg.SVC_MON.LOCKOUT 0 else d

/-- LOCK. -/
def execMonLock (dt : Nat) (m : Nat) (args : List (Option Nat)) (s : State) : Host.Outcome State Fault Refusal :=
  s.act dt fun d => d.monCmd m "lock" args 0 0 false fun d _ => (d.lockSession m, none)

/-- SESSION_IDLE_TIMEOUT: 10 minutes. -/
def execSessionIdleTimeout (dt : Nat) (m : Nat) (s : State) : Host.Outcome State Fault Refusal :=
  s.act dt fun d => if m < 2 ∧ 600000000000 ≤ d.since (d.session m).lastAt then d.lockSession m else d

/-! ## Commands that need an unlock (R480) -/

/-- BAR0 refuses a write of an aligned word (R38, R476, R477). -/
def Dev.writeRefused (d : Dev) (off : Nat) : Bool :=
  match regAt off with
  | none => false
  | some r =>
    match d.mode with
    | .safe => !(off == 8 || safeWrites off)
    | .ready | .run | .hold => !(off == 8 || runWrites off || r.fields.any fun f => f.acc == .w1c)
    | .setup => d.svc.checking && r.fields.any fun f => f.acc == .lk
    | .off | .selftest => false

/-- WR. -/
def execMonWr (dt : Nat) (m : Nat) (args : List (Option Nat)) (mramOk : Bool) (s : State) : Host.Outcome State Fault Refusal :=
  s.act dt fun d => d.monCmd m "wr" args 2 2 true fun d as =>
    let off := as.getD 0 0
    let v := as.getD 1 0
    if 0x100000 ≤ off ∨ 2 ^ 32 ≤ v then (d, some 3)
    else if off % 4 ≠ 0 then (d.post 0x0005 sevWarn [off, 4, 1], some 6)
    else (d.wordWrite off v mramOk, if d.bar0Dead || d.writeRefused off then some 6 else none)

/-- SAFE. -/
def execMonSafe (dt : Nat) (m : Nat) (args : List (Option Nat)) (s : State) : Host.Outcome State Fault Refusal :=
  s.act dt fun d => d.monCmd m "safe" args 0 0 true fun d _ => (if d.bar0Dead then d else d.ctlWrite 4, if d.bar0Dead then some 6 else none)

/-- ACK. -/
def execMonAck (dt : Nat) (m : Nat) (args : List (Option Nat)) (mramOk : Bool) (s : State) : Host.Outcome State Fault Refusal :=
  s.act dt fun d => d.monCmd m "ack" args 1 1 true fun d as =>
    let key := as.getD 0 0
    if 2 ^ 16 ≤ key then (d, some 3) else (if d.bar0Dead then d else d.ackWrite (key + 2 ^ 16) mramOk, if d.bar0Dead || d.writeRefused 0x60074 then some 6 else none)

/-- REBOOT. -/
def execMonReboot (dt : Nat) (m : Nat) (args : List (Option Nat)) (s : State) : Host.Outcome State Fault Refusal :=
  s.act dt fun d => d.monCmd m "reboot" args 0 0 true fun d _ =>
    if d.mode = .setup ∨ d.mode = .safe then ({ d with svc := { d.svc with rebootAt := some d.tb } }, none) else (d, some 5)

/-- REBOOT_DELAY: 100 ms after the OK line. -/
def execRebootDelay (dt : Nat) (s : State) : Host.Outcome State Fault Refusal :=
  s.act dt fun d =>
    match d.svc.rebootAt with
    | some t => if 100000000 ≤ d.since t then d.coldReset false else d
    | none => d

/-! ## The mailbox (R482, R485) -/

/-- MAILBOX_READ: a read of SVC_MBOX_RX takes the next output character. -/
def execMailboxRead (dt : Nat) (s : State) : Host.Outcome State Fault Refusal := s.act dt fun d => (d.readReg 0xF0024).2

end Sys2Proof.Machine
end

