-- ==== Sys2Proof/Machine/Jtag.lean ====
section
/-! DEFINITION. The JTAG port (R483, R484). -/
namespace Sys2Proof.Machine

/-- The part's identification: version 1, part 0x0262, manufacturer 0x12F, bit 0 set. -/
def idcode : Nat := 0x1026225F

/-- An instruction is loaded. EXTEST, CLAMP and HIGHZ take a device in SETUP, READY, RUN or HOLD into SAFE first. HIGHZ holds the outputs
high-impedance until another instruction is loaded (R347, R483). -/
def Dev.tapLoad (d : Dev) (i : TapInstr) : Dev :=
  if d.mode = .off then d
  else
    let d := match i with
      | .extest | .clamp | .highz => if d.mode.served then d.enterSafe causeForce 0 0 else d
      | .bypass | .idcode | .samplePreload => d
    let d := if i = .highz then d.driveHold none else if d.svc.tap = .highz then d.driveHold (some false) else d
    { d with svc := { d.svc with tap := i } }

/-- TAP_RESET: TMS high for five TCK cycles; IDCODE is selected, as IEEE 1149.1 requires of a part that has it. -/
def execTapReset (dt : Nat) (s : State) : Host.Outcome State Fault Refusal := s.act dt fun d => d.tapLoad .idcode

/-- BYPASS. -/
def execTapBypass (dt : Nat) (s : State) : Host.Outcome State Fault Refusal := s.act dt fun d => d.tapLoad .bypass

/-- IDCODE reads the identification. -/
def execTapIdcode (dt : Nat) (s : State) : Host.Outcome State Fault Refusal :=
  s.act dt fun d => if d.mode = .off then d else (d.tapLoad .idcode).send (.tap idcode)

/-- SAMPLE/PRELOAD. -/
def execTapSamplePreload (dt : Nat) (s : State) : Host.Outcome State Fault Refusal := s.act dt fun d => d.tapLoad .samplePreload

/-- EXTEST. -/
def execTapExtest (dt : Nat) (s : State) : Host.Outcome State Fault Refusal := s.act dt fun d => d.tapLoad .extest

/-- CLAMP. -/
def execTapClamp (dt : Nat) (s : State) : Host.Outcome State Fault Refusal := s.act dt fun d => d.tapLoad .clamp

/-- HIGHZ. -/
def execTapHighz (dt : Nat) (s : State) : Host.Outcome State Fault Refusal := s.act dt fun d => d.tapLoad .highz

/-- A private instruction code acts as BYPASS. -/
def execTapPrivateInstruction (dt : Nat) (code : Nat) (s : State) : Host.Outcome State Fault Refusal :=
  s.act dt fun d => let _ := code; d.tapLoad .bypass

end Sys2Proof.Machine
end

