-- ==== Sys2Proof/Machine/Receive.lean ====
section
/-! DEFINITION. Frames and stray blocks as the receiver of a port takes them (R244 to R246, R256), and the rows of the frames: HEAD_STATUS,
CAMERA_LINE, BEAT. -/
namespace Sys2Proof.Machine

/-- Frame kind and LEN of an SOF. -/
def sofOf : LaneBlock → Option (Nat × Nat)
  | .control 0x4B payload => some (payload.getD 0 0, leAt payload 1 2)
  | _ => none

/-- What the receiver makes of the block slots after SOF: the words of a frame, a discarded frame with the control block that interrupted it,
or a frame that is not over. -/
inductive RxFrame where
  | whole (words : List Nat)
  | discard (by_ : Option LaneBlock)
  | unended
  deriving DecidableEq, Repr

/-- ALIGN and ACKNAK may stand inside a frame (R246). -/
def insideFrame : LaneBlock → Bool
  | .control t _ => t == 0x78 || t == 0x55
  | _ => false

/-- The blocks of one slot, in lane order; words newest first. After word LEN - 1 come PADs (R245). -/
def takeSlot (len : Nat) : List LaneBlock → List Nat → Except (Option LaneBlock) (List Nat)
  | [], ws => .ok ws
  | b :: t, ws =>
    if len ≤ ws.length then .ok ws
    else match b with
      | .data w => takeSlot len t (w % 2 ^ 64 :: ws)
      | .invalid => .error none
      | b => .error (some b)

/-- The slots of a frame after SOF. -/
def frameWalk (len : Nat) : List (List LaneBlock) → List Nat → RxFrame
  | [], ws => if len ≤ ws.length then .whole ws.reverse else .unended
  | slot :: t, ws =>
    if len ≤ ws.length then .whole ws.reverse
    else if slot.all insideFrame then frameWalk len t ws
    else match takeSlot len slot ws with
      | .ok ws => frameWalk len t ws
      | .error b => .discard b

/-- A frame is discarded whole, or a block outside any frame; counted (R244, R246). -/
def Dev.badType (d : Dev) (p : Nat) : Dev := d.bump (Reg.LANE_CNT_p.BAD_TYPE p)

/-- A control block that belongs to no frame: what each type asks for; another type is counted and discarded (R244). -/
def Dev.controlIn (d : Dev) (p type : Nat) (payload : List Nat) : Dev :=
  match type with
  | 0x66 => d.sleepIn p
  | 0x87 => d.resyncIn p (payload.getD 0 0 == 1)
  | 0x99 => d.wakeTx p
  | 0xAA => d.loopIn p (payload.getD 0 0 == 1)
  | 0xC3 => d.testIn p (payload.getD 0 0) (payload.getD 1 0)
  | 0x1E | 0x2D | 0x33 | 0x4B | 0x55 | 0x78 | 0xB4 => d
  | _ => d.badType p

/-- A slot outside any frame: data blocks are discarded and counted; a control block stands on every lane and is processed. -/
def Dev.stray (d : Dev) (p : Nat) (slot : List LaneBlock) : Dev :=
  match slot with
  | .control t payload :: _ => d.controlIn p t payload
  | _ => slot.foldl (fun d b => match b with
    | .data _ => d.badType p
    | _ => d) d

/-- Block slots arrive on a port that is UP: a frame of the kind that the port takes, one that the receiver discards, or stray blocks (R246).
A control block that interrupts a frame is then processed. An invalid sync header is counted by BLOCK_LOCK_LOSS, an invalid code group by
COMPAT_LOCK_LOSS. -/
def Dev.receive (d : Dev) (p kind : Nat) (slots : List (List LaneBlock)) (f : Dev → List Nat → Dev) : Dev :=
  if !d.takesBlocks p || slots.any (·.length ≠ (rxMacros p).length) then d
  else match slots with
    | [] => d
    | first :: rest =>
      match first.findSome? sofOf with
      | none => d.stray p first
      | some (k, len) =>
        if k ≠ kind ∨ first.any fun b => sofOf b ≠ some (k, len) then d.badType p
        else match frameWalk len rest [] with
          | .whole ws => f d ws
          | .unended => d
          | .discard none => if d.compat p then d else d.badType p
          | .discard (some b) => (d.badType p).stray p [b]

/-- HEAD_STATUS: the block slots of a head status frame. -/
def execHeadStatus (dt : Nat) (n : Nat) (slots : List (List LaneBlock)) (s : State) : Host.Outcome State Fault Refusal :=
  s.act dt fun d => if n < 16 then d.receive n 2 slots fun d ws => d.headStatus n ws else d

/-- CAMERA_LINE: the block slots of a camera line frame. -/
def execCameraLine (dt : Nat) (cam : Nat) (slots : List (List LaneBlock)) (s : State) : Host.Outcome State Fault Refusal :=
  s.act dt fun d =>
    if cam < 2 then d.receive (16 + cam) 3 slots fun d ws => if d.camOn cam then d.cameraLine cam ws else d else d

/-- BEAT: the block slots of a BEAT message. -/
def execBeat (dt : Nat) (port : Nat) (slots : List (List LaneBlock)) (s : State) : Host.Outcome State Fault Refusal :=
  s.act dt fun d =>
    if port = 18 ∨ port = 19 then d.receive port 4 slots fun d ws => d.beat port (ws.map (BitVec.ofNat 64)) else d

end Sys2Proof.Machine
end

