-- ==== Sys2Proof/Machine/Dispatch.lean ====
section
/-! DEFINITION. One arm per command: a call of its meaning. -/
namespace Sys2Proof.Machine

def exec (i : Instr) (s : State) : Host.Outcome State Fault Refusal :=
  match i with
  | .goReady dt value => Sys2Proof.Machine.execGoReady dt value s
  | .setupCheckDone dt => Sys2Proof.Machine.execSetupCheckDone dt s
  | .goSetup dt value => Sys2Proof.Machine.execGoSetup dt value s
  | .forceSafe dt value => Sys2Proof.Machine.execForceSafe dt value s
  | .registerWrite dt off value parity => Sys2Proof.Machine.execRegisterWrite dt off value parity s
  | .badAccess dt space off len write parity => Sys2Proof.Machine.execBadAccess dt space off len write parity s
  | .powerOnReset dt => Sys2Proof.Machine.execPowerOnReset dt s
  | .coldReset dt ns => Sys2Proof.Machine.execColdReset dt ns s
  | .coldResetRelease dt bad => Sys2Proof.Machine.execColdResetRelease dt bad s
  | .pllLock dt temps tref lref width speed => Sys2Proof.Machine.execPllLock dt temps tref lref width speed s
  | .clockStageRetry dt => Sys2Proof.Machine.execClockStageRetry dt s
  | .bistDone dt entries logicOk loc silent => Sys2Proof.Machine.execBistDone dt entries logicOk loc silent s
  | .memoryFillDone dt sramOk dramOk ms loc h0 h1 => Sys2Proof.Machine.execMemoryFillDone dt sramOk dramOk ms loc h0 h1 s
  | .imageLoadDone dt header payload => Sys2Proof.Machine.execImageLoadDone dt header payload s
  | .firmwareSelftestDone dt ok loc => Sys2Proof.Machine.execFirmwareSelftestDone dt ok loc s
  | .safeStatus dt => Sys2Proof.Machine.execSafeStatus dt s
  | .functionLevelReset dt => Sys2Proof.Machine.execFunctionLevelReset dt s
  | .d3hotEntry dt enter => Sys2Proof.Machine.execD3hotEntry dt enter s
  | .busMasterDisable dt enable => Sys2Proof.Machine.execBusMasterDisable dt enable s
  | .pcieSideReset dt => Sys2Proof.Machine.execPcieSideReset dt s
  | .msixUnmask dt v word value => Sys2Proof.Machine.execMsixUnmask dt v word value s
  | .interruptCoalesceTimeout dt n => Sys2Proof.Machine.execInterruptCoalesceTimeout dt n s
  | .doorbellPoll dt => Sys2Proof.Machine.execDoorbellPoll dt s
  | .doorbellReadDone dt line missing evs => Sys2Proof.Machine.execDoorbellReadDone dt line missing evs s
  | .nop dt ring x => Sys2Proof.Machine.execNop dt ring x s
  | .jobOpen dt ring x => Sys2Proof.Machine.execJobOpen dt ring x s
  | .layoutLoad dt ring x data => Sys2Proof.Machine.execLayoutLoad dt ring x data s
  | .nozzleTableLoad dt ring x data => Sys2Proof.Machine.execNozzleTableLoad dt ring x data s
  | .toneCurveLoad dt ring x data residue => Sys2Proof.Machine.execToneCurveLoad dt ring x data residue s
  | .thresholdMatrixLoad dt ring x data => Sys2Proof.Machine.execThresholdMatrixLoad dt ring x data s
  | .thresholdRampsLoad dt ring x data => Sys2Proof.Machine.execThresholdRampsLoad dt ring x data s
  | .diffusionKernelLoad dt ring x data => Sys2Proof.Machine.execDiffusionKernelLoad dt ring x data s
  | .levelToDropLoad dt ring x data => Sys2Proof.Machine.execLevelToDropLoad dt ring x data s
  | .stitchSetLoad dt ring x data => Sys2Proof.Machine.execStitchSetLoad dt ring x data s
  | .camTableLoad dt ring x data => Sys2Proof.Machine.execCamTableLoad dt ring x data s
  | .policyTableLoad dt ring x data => Sys2Proof.Machine.execPolicyTableLoad dt ring x data s
  | .glyphSetLoad dt ring x data => Sys2Proof.Machine.execGlyphSetLoad dt ring x data s
  | .alignmentSetLoad dt ring x data => Sys2Proof.Machine.execAlignmentSetLoad dt ring x data s
  | .jobStage dt ring x => Sys2Proof.Machine.execJobStage dt ring x s
  | .stagingBegin dt tag ends => Sys2Proof.Machine.execStagingBegin dt tag ends s
  | .jobStageComplete dt tag pick => Sys2Proof.Machine.execJobStageComplete dt tag pick s
  | .contextRestore dt c => Sys2Proof.Machine.execContextRestore dt c s
  | .compressorFlush dt dest => Sys2Proof.Machine.execCompressorFlush dt dest s
  | .spliceAt dt ring x => Sys2Proof.Machine.execSpliceAt dt ring x s
  | .jobClose dt ring x ahead => Sys2Proof.Machine.execJobClose dt ring x ahead s
  | .move dt ring x => Sys2Proof.Machine.execMove dt ring x s
  | .stop dt ring x => Sys2Proof.Machine.execStop dt ring x s
  | .setSpeed dt ring x => Sys2Proof.Machine.execSetSpeed dt ring x s
  | .ladderNow dt ring x => Sys2Proof.Machine.execLadderNow dt ring x s
  | .captureOn dt ring x => Sys2Proof.Machine.execCaptureOn dt ring x s
  | .captureOff dt ring x => Sys2Proof.Machine.execCaptureOff dt ring x s
  | .ringReset dt ring x => Sys2Proof.Machine.execRingReset dt ring x s
  | .commandRingRestart dt n value => Sys2Proof.Machine.execCommandRingRestart dt n value s
  | .contentPut dt ring x data => Sys2Proof.Machine.execContentPut dt ring x data s
  | .recordPut dt ring x data => Sys2Proof.Machine.execRecordPut dt ring x data s
  | .captureBuf dt ring x data => Sys2Proof.Machine.execCaptureBuf dt ring x data s
  | .imageBuf dt ring x => Sys2Proof.Machine.execImageBuf dt ring x s
  | .dmaReadCompletion dt ch k ring f => Sys2Proof.Machine.execDmaReadCompletion dt ch k ring f s
  | .dmaWriteResponse dt ch ok landed => Sys2Proof.Machine.execDmaWriteResponse dt ch ok landed s
  | .completionTimeout dt ch ring => Sys2Proof.Machine.execCompletionTimeout dt ch ring s
  | .unexpectedCompletion dt ch => Sys2Proof.Machine.execUnexpectedCompletion dt ch s
  | .xferList dt ring x => Sys2Proof.Machine.execXferList dt ring x s
  | .webEncoderEdge dt lineA aLeads => Sys2Proof.Machine.execWebEncoderEdge dt lineA aLeads s
  | .encoderEdge dt n lineA aLeads => Sys2Proof.Machine.execEncoderEdge dt n lineA aLeads s
  | .encoderGlitch dt n => Sys2Proof.Machine.execEncoderGlitch dt n s
  | .indexEdge dt n level => Sys2Proof.Machine.execIndexEdge dt n level s
  | .estimatorRest dt => Sys2Proof.Machine.execEstimatorRest dt s
  | .estimateInvalid dt => Sys2Proof.Machine.execEstimateInvalid dt s
  | .psiChange dt n pin => Sys2Proof.Machine.execPsiChange dt n pin s
  | .psiWatchdog dt n => Sys2Proof.Machine.execPsiWatchdog dt n s
  | .posRereg dt ring x => Sys2Proof.Machine.execPosRereg dt ring x s
  | .psoAt dt ring x => Sys2Proof.Machine.execPsoAt dt ring x s
  | .calendarSlotAct dt slot => Sys2Proof.Machine.execCalendarSlotAct dt slot s
  | .pwMessage dt port words => Sys2Proof.Machine.execPwMessage dt port words s
  | .posLost dt => Sys2Proof.Machine.execPosLost dt s
  | .composeLine dt kib residues => Sys2Proof.Machine.execComposeLine dt kib residues s
  | .codePaint dt differ => Sys2Proof.Machine.execCodePaint dt differ s
  | .screenLine dt residues => Sys2Proof.Machine.execScreenLine dt residues s
  | .gauzeLine dt => Sys2Proof.Machine.execGauzeLine dt s
  | .lineQueue dt => Sys2Proof.Machine.execLineQueue dt s
  | .throttlePauseEnd dt => Sys2Proof.Machine.execThrottlePauseEnd dt s
  | .cameraTrigger dt cam => Sys2Proof.Machine.execCameraTrigger dt cam s
  | .triggerPulseEnd dt cam => Sys2Proof.Machine.execTriggerPulseEnd dt cam s
  | .cameraLine dt cam slots => Sys2Proof.Machine.execCameraLine dt cam slots s
  | .cameraLineTimeout dt cam => Sys2Proof.Machine.execCameraLineTimeout dt cam s
  | .bandAnalysis dt window => Sys2Proof.Machine.execBandAnalysis dt window s
  | .nozzleSet dt ring x => Sys2Proof.Machine.execNozzleSet dt ring x s
  | .alignNow dt ring x => Sys2Proof.Machine.execAlignNow dt ring x s
  | .gauzeRegisterParam dt ring x => Sys2Proof.Machine.execGauzeRegisterParam dt ring x s
  | .camAnalysisParam dt ring x => Sys2Proof.Machine.execCamAnalysisParam dt ring x s
  | .portEnable dt p value => Sys2Proof.Machine.execPortEnable dt p value s
  | .rxClockDetect dt p => Sys2Proof.Machine.execRxClockDetect dt p s
  | .rxClockLoss dt p => Sys2Proof.Machine.execRxClockLoss dt p s
  | .blockLock dt p m eye runs => Sys2Proof.Machine.execBlockLock dt p m eye runs s
  | .blockLockLoss dt p m gaps => Sys2Proof.Machine.execBlockLockLoss dt p m gaps s
  | .alignBlock dt p slots => Sys2Proof.Machine.execAlignBlock dt p slots s
  | .capBlock dt p payload => Sys2Proof.Machine.execCapBlock dt p payload s
  | .stepBlock dt p rate go done => Sys2Proof.Machine.execStepBlock dt p rate go done s
  | .stepIdleEnd dt p => Sys2Proof.Machine.execStepIdleEnd dt p s
  | .doneTimeout dt p => Sys2Proof.Machine.execDoneTimeout dt p s
  | .bringupTimeout dt p => Sys2Proof.Machine.execBringupTimeout dt p s
  | .relockTimeout dt p => Sys2Proof.Machine.execRelockTimeout dt p s
  | .portRetry dt p => Sys2Proof.Machine.execPortRetry dt p s
  | .txSleepTimeout dt p => Sys2Proof.Machine.execTxSleepTimeout dt p s
  | .sleepBlock dt p => Sys2Proof.Machine.execSleepBlock dt p s
  | .wakeBlock dt p => Sys2Proof.Machine.execWakeBlock dt p s
  | .wakeTimeout dt p => Sys2Proof.Machine.execWakeTimeout dt p s
  | .resyncBlock dt p regained => Sys2Proof.Machine.execResyncBlock dt p regained s
  | .loopBlock dt p begin_ => Sys2Proof.Machine.execLoopBlock dt p begin_ s
  | .testBlock dt p pattern lanes => Sys2Proof.Machine.execTestBlock dt p pattern lanes s
  | .compatLock dt p runs => Sys2Proof.Machine.execCompatLock dt p runs s
  | .compatLockLoss dt p gaps => Sys2Proof.Machine.execCompatLockLoss dt p gaps s
  | .prbsTestStart dt p value => Sys2Proof.Machine.execPrbsTestStart dt p value s
  | .prbsTestStop dt p value => Sys2Proof.Machine.execPrbsTestStop dt p value s
  | .injSingle dt p value => Sys2Proof.Machine.execInjSingle dt p value s
  | .injBurst dt p value => Sys2Proof.Machine.execInjBurst dt p value s
  | .laneInject dt ring x => Sys2Proof.Machine.execLaneInject dt ring x s
  | .lineFrameDue dt n r read => Sys2Proof.Machine.execLineFrameDue dt n r read s
  | .lineRefetchDone dt n r tag line read => Sys2Proof.Machine.execLineRefetchDone dt n r tag line read s
  | .pauseDeadline dt n r => Sys2Proof.Machine.execPauseDeadline dt n r s
  | .timeCommand dt n phase period => Sys2Proof.Machine.execTimeCommand dt n phase period s
  | .acknak dt n bytes read => Sys2Proof.Machine.execAcknak dt n bytes read s
  | .ackTimeout dt n r tag line read => Sys2Proof.Machine.execAckTimeout dt n r tag line read s
  | .headCommandTimeout dt n => Sys2Proof.Machine.execHeadCommandTimeout dt n s
  | .lineSettleTimeout dt n r tag line => Sys2Proof.Machine.execLineSettleTimeout dt n r tag line s
  | .headStatus dt n slots => Sys2Proof.Machine.execHeadStatus dt n slots s
  | .statusTimeout dt n => Sys2Proof.Machine.execStatusTimeout dt n s
  | .silenceHardTimeout dt n => Sys2Proof.Machine.execSilenceHardTimeout dt n s
  | .headCapStep dt n => Sys2Proof.Machine.execHeadCapStep dt n s
  | .headCoolTimeout dt n => Sys2Proof.Machine.execHeadCoolTimeout dt n s
  | .hardCoolTimeout dt n => Sys2Proof.Machine.execHardCoolTimeout dt n s
  | .leadSet dt ring x => Sys2Proof.Machine.execLeadSet dt ring x s
  | .servoCompute dt residue => Sys2Proof.Machine.execServoCompute dt residue s
  | .setpointFrameSend dt => Sys2Proof.Machine.execSetpointFrameSend dt s
  | .driveAnswer dt payload => Sys2Proof.Machine.execDriveAnswer dt payload s
  | .answerTimeout dt n => Sys2Proof.Machine.execAnswerTimeout dt n s
  | .drvLinkDown dt down => Sys2Proof.Machine.execDrvLinkDown dt down s
  | .gearSet dt ring x => Sys2Proof.Machine.execGearSet dt ring x s
  | .camStart dt ring x => Sys2Proof.Machine.execCamStart dt ring x s
  | .linenParam dt ring x => Sys2Proof.Machine.execLinenParam dt ring x s
  | .ptpSync dt port m => Sys2Proof.Machine.execPtpSync dt port m s
  | .ptpFollowUp dt port m => Sys2Proof.Machine.execPtpFollowUp dt port m s
  | .ptpAnnounce dt port a => Sys2Proof.Machine.execPtpAnnounce dt port a s
  | .ptpDelayReq dt port m => Sys2Proof.Machine.execPtpDelayReq dt port m s
  | .ptpDelayResp dt port m => Sys2Proof.Machine.execPtpDelayResp dt port m s
  | .ptpSyncTransmit dt => Sys2Proof.Machine.execPtpSyncTransmit dt s
  | .syncTimeout dt t => Sys2Proof.Machine.execSyncTimeout dt t s
  | .slewEnd dt => Sys2Proof.Machine.execSlewEnd dt s
  | .timeMark dt => Sys2Proof.Machine.execTimeMark dt s
  | .timeSrc dt ring x => Sys2Proof.Machine.execTimeSrc dt ring x s
  | .ethernetLinkLoss dt port => Sys2Proof.Machine.execEthernetLinkLoss dt port s
  | .ethFrameDiscard dt port size tags etype => Sys2Proof.Machine.execEthFrameDiscard dt port size tags etype s
  | .roll dt port words => Sys2Proof.Machine.execRoll dt port words s
  | .rollTimer dt => Sys2Proof.Machine.execRollTimer dt s
  | .pwBroadcast dt => Sys2Proof.Machine.execPwBroadcast dt s
  | .beat dt port slots => Sys2Proof.Machine.execBeat dt port slots s
  | .beatTimer dt => Sys2Proof.Machine.execBeatTimer dt s
  | .stopReq dt port words => Sys2Proof.Machine.execStopReq dt port words s
  | .verdictMessage dt port words => Sys2Proof.Machine.execVerdictMessage dt port words s
  | .lcs dt port words => Sys2Proof.Machine.execLcs dt port words s
  | .mismatch dt port words => Sys2Proof.Machine.execMismatch dt port words s
  | .arbiter dt port words => Sys2Proof.Machine.execArbiter dt port words s
  | .selfCheckDone dt residue kat => Sys2Proof.Machine.execSelfCheckDone dt residue kat s
  | .arbiterTimeout dt => Sys2Proof.Machine.execArbiterTimeout dt s
  | .mirror dt port words tag line r => Sys2Proof.Machine.execMirror dt port words tag line r s
  | .decision dt port words tag line r => Sys2Proof.Machine.execDecision dt port words tag line r s
  | .snapshot dt port words tag line r => Sys2Proof.Machine.execSnapshot dt port words tag line r s
  | .delay dt port words => Sys2Proof.Machine.execDelay dt port words s
  | .hopDelayMeasure dt port => Sys2Proof.Machine.execHopDelayMeasure dt port s
  | .nodeAbsent dt n => Sys2Proof.Machine.execNodeAbsent dt n s
  | .activePwTimeout dt => Sys2Proof.Machine.execActivePwTimeout dt s
  | .leaseFrame dt bytes => Sys2Proof.Machine.execLeaseFrame dt bytes s
  | .leaseFrameSend dt => Sys2Proof.Machine.execLeaseFrameSend dt s
  | .leaseExpiry dt => Sys2Proof.Machine.execLeaseExpiry dt s
  | .partnerSilence dt => Sys2Proof.Machine.execPartnerSilence dt s
  | .partnerWaitTimeout dt => Sys2Proof.Machine.execPartnerWaitTimeout dt s
  | .standbyTest dt residue kat => Sys2Proof.Machine.execStandbyTest dt residue kat s
  | .handover dt ring x => Sys2Proof.Machine.execHandover dt ring x s
  | .sramScrub dt word result datum overwritten => Sys2Proof.Machine.execSramScrub dt word result datum overwritten s
  | .dramScrub dt x => Sys2Proof.Machine.execDramScrub dt x s
  | .memRepairClear dt ring x => Sys2Proof.Machine.execMemRepairClear dt ring x s
  | .dramCaParity dt port write addr failed datum => Sys2Proof.Machine.execDramCaParity dt port write addr failed datum s
  | .refreshSlot dt p steps => Sys2Proof.Machine.execRefreshSlot dt p steps s
  | .rowWindowEnd dt => Sys2Proof.Machine.execRowWindowEnd dt s
  | .selfRefreshEntry dt => Sys2Proof.Machine.execSelfRefreshEntry dt s
  | .selfRefreshScrub dt reads => Sys2Proof.Machine.execSelfRefreshScrub dt reads s
  | .dramTrain dt ring x => Sys2Proof.Machine.execDramTrain dt ring x s
  | .dramSpeed dt ring x => Sys2Proof.Machine.execDramSpeed dt ring x s
  | .trainingSweepDone dt rd wr => Sys2Proof.Machine.execTrainingSweepDone dt rd wr s
  | .frameVerdict dt => Sys2Proof.Machine.execFrameVerdict dt s
  | .markPulseEnd dt => Sys2Proof.Machine.execMarkPulseEnd dt s
  | .crcRun dt ring x block => Sys2Proof.Machine.execCrcRun dt ring x block s
  | .crcRunDone dt u => Sys2Proof.Machine.execCrcRunDone dt u s
  | .pllLockLoss dt pll ports => Sys2Proof.Machine.execPllLockLoss dt pll ports s
  | .pllRelockAttempt dt good => Sys2Proof.Machine.execPllRelockAttempt dt good s
  | .trefLost dt => Sys2Proof.Machine.execTrefLost dt s
  | .trefRestored dt => Sys2Proof.Machine.execTrefRestored dt s
  | .calRoundDone dt counts => Sys2Proof.Machine.execCalRoundDone dt counts s
  | .calNow dt ring x => Sys2Proof.Machine.execCalNow dt ring x s
  | .calRetry dt => Sys2Proof.Machine.execCalRetry dt s
  | .twinSwap dt line => Sys2Proof.Machine.execTwinSwap dt line s
  | .svcWatchdog dt => Sys2Proof.Machine.execSvcWatchdog dt s
  | .uartBreak dt => Sys2Proof.Machine.execUartBreak dt s
  | .thermalSample dt readings mramOk => Sys2Proof.Machine.execThermalSample dt readings mramOk s
  | .shutdownAck dt value mramOk => Sys2Proof.Machine.execShutdownAck dt value mramOk s
  | .senseParam dt ring x => Sys2Proof.Machine.execSenseParam dt ring x s
  | .modSample dt n bits => Sys2Proof.Machine.execModSample dt n bits s
  | .halfCycleTimeout dt n => Sys2Proof.Machine.execHalfCycleTimeout dt n s
  | .dcBusMean dt => Sys2Proof.Machine.execDcBusMean dt s
  | .modFault dt n => Sys2Proof.Machine.execModFault dt n s
  | .rideThroughEscalate dt => Sys2Proof.Machine.execRideThroughEscalate dt s
  | .imageWrite dt ring x data => Sys2Proof.Machine.execImageWrite dt ring x data s
  | .monKey dt ring x => Sys2Proof.Machine.execMonKey dt ring x s
  | .monitorBadLine dt m line => Sys2Proof.Machine.execMonitorBadLine dt m line s
  | .monHelp dt m args => Sys2Proof.Machine.execMonHelp dt m args s
  | .monVer dt m args => Sys2Proof.Machine.execMonVer dt m args s
  | .monState dt m args => Sys2Proof.Machine.execMonState dt m args s
  | .monSt dt m args => Sys2Proof.Machine.execMonSt dt m args s
  | .monTemp dt m args => Sys2Proof.Machine.execMonTemp dt m args s
  | .monRd dt m args => Sys2Proof.Machine.execMonRd dt m args s
  | .monRec dt m args => Sys2Proof.Machine.execMonRec dt m args s
  | .monLane dt m args => Sys2Proof.Machine.execMonLane dt m args s
  | .monMem dt m args => Sys2Proof.Machine.execMonMem dt m args s
  | .monBaud dt m args => Sys2Proof.Machine.execMonBaud dt m args s
  | .baudRevert dt => Sys2Proof.Machine.execBaudRevert dt s
  | .unlockChallenge dt m => Sys2Proof.Machine.execUnlockChallenge dt m s
  | .unlockAnswer dt m args => Sys2Proof.Machine.execUnlockAnswer dt m args s
  | .monLock dt m args => Sys2Proof.Machine.execMonLock dt m args s
  | .sessionIdleTimeout dt m => Sys2Proof.Machine.execSessionIdleTimeout dt m s
  | .lockoutEnd dt => Sys2Proof.Machine.execLockoutEnd dt s
  | .monWr dt m args mramOk => Sys2Proof.Machine.execMonWr dt m args mramOk s
  | .monSafe dt m args => Sys2Proof.Machine.execMonSafe dt m args s
  | .monAck dt m args mramOk => Sys2Proof.Machine.execMonAck dt m args mramOk s
  | .monReboot dt m args => Sys2Proof.Machine.execMonReboot dt m args s
  | .rebootDelay dt => Sys2Proof.Machine.execRebootDelay dt s
  | .mailboxChar dt value => Sys2Proof.Machine.execMailboxChar dt value s
  | .mailboxRead dt => Sys2Proof.Machine.execMailboxRead dt s
  | .tapReset dt => Sys2Proof.Machine.execTapReset dt s
  | .tapBypass dt => Sys2Proof.Machine.execTapBypass dt s
  | .tapIdcode dt => Sys2Proof.Machine.execTapIdcode dt s
  | .tapSamplePreload dt => Sys2Proof.Machine.execTapSamplePreload dt s
  | .tapExtest dt => Sys2Proof.Machine.execTapExtest dt s
  | .tapClamp dt => Sys2Proof.Machine.execTapClamp dt s
  | .tapHighz dt => Sys2Proof.Machine.execTapHighz dt s
  | .tapPrivateInstruction dt code => Sys2Proof.Machine.execTapPrivateInstruction dt code s
  | .recMark dt ring x => Sys2Proof.Machine.execRecMark dt ring x s
  | .firstAreaClear dt => Sys2Proof.Machine.execFirstAreaClear dt s
  | .histogramClear dt => Sys2Proof.Machine.execHistogramClear dt s
  | .histogramSample dt h sample => Sys2Proof.Machine.execHistogramSample dt h sample s
  | .capturePwSample dt => Sys2Proof.Machine.execCapturePwSample dt s
  | .captureHeadStatusSample dt n => Sys2Proof.Machine.execCaptureHeadStatusSample dt n s
  | .captureDescTimeout dt => Sys2Proof.Machine.execCaptureDescTimeout dt s
  | .captureGapEnd dt => Sys2Proof.Machine.execCaptureGapEnd dt s
  | .replayGo dt ring x => Sys2Proof.Machine.execReplayGo dt ring x s
  | .ringHoldDelayEnd dt => Sys2Proof.Machine.execRingHoldDelayEnd dt s
  | .lrefOkChange dt ok => Sys2Proof.Machine.execLrefOkChange dt ok s
  | .prbsLock dt p m => Sys2Proof.Machine.execPrbsLock dt p m s
  | .prbsResync dt p m gaps => Sys2Proof.Machine.execPrbsResync dt p m gaps s
  | .elasticOverflow dt p drifts => Sys2Proof.Machine.execElasticOverflow dt p drifts s
  | .ethernetLinkUp dt port => Sys2Proof.Machine.execEthernetLinkUp dt port s
  | .deviceControl2Write dt control value => Sys2Proof.Machine.execDeviceControl2Write dt control value s
  | .efuseReadDone dt ok badField badShut tail => Sys2Proof.Machine.execEfuseReadDone dt ok badField badShut tail s
  | .imageWriteDone dt => Sys2Proof.Machine.execImageWriteDone dt s
  | .ptpPdelayReq dt port m => Sys2Proof.Machine.execPtpPdelayReq dt port m s
  | .ptpPdelayResp dt port m followUp => Sys2Proof.Machine.execPtpPdelayResp dt port m followUp s
  | .ptpDelayReqTransmit dt t => Sys2Proof.Machine.execPtpDelayReqTransmit dt t s
  | .ptpAnnounceTransmit dt => Sys2Proof.Machine.execPtpAnnounceTransmit dt s

end Sys2Proof.Machine
end

