-- ==== Sys2Proof/Machine/Pins.lean ====
section
/-! DEFINITION. The levels of the signals other than lanes and supplies (R510), as the state gives them. -/
namespace Sys2Proof.Machine

/-- An output or bidirectional signal of R510. -/
inductive Pin where
  | pso (n : Nat)
  | ringHoldEast
  | ringHoldWest
  | mclk
  | uartTx
  | i2c
  | qspiSck
  | qspiCsN
  | qspiIo
  | tdo
  | leaseTx
  deriving DecidableEq, Repr

/-- What a signal shows; `busy` is what its function sends in an access, a shift or a frame. -/
inductive PinState where
  | highZ
  | low
  | high
  | clock
  | busy
  deriving DecidableEq, Repr

def levelOf (b : Bool) : PinState := if b then .high else .low

/-- A signal between the accesses of its function. In reset, and with HIGHZ loaded, every output is high-impedance. -/
def Dev.pin (d : Dev) (p : Pin) : PinState :=
  if d.mode = .off ∨ (d.svc.tap = .highz ∧ p ≠ .tdo) then .highZ
  else match p with
    | .pso n => levelOf (bitOf d.pos.pso n)
    | .ringHoldEast | .ringHoldWest => (d.clk.ringHold.map levelOf).getD .highZ
    | .mclk => if d.mode ≠ .safe ∧ d.get Reg.SENSE_MOD_CFG.EN ≠ 0 then .clock else .low
    | .uartTx => .high
    | .i2c => .highZ
    | .qspiSck => .low
    | .qspiCsN => .high
    | .qspiIo => .busy
    | .tdo => .highZ
    | .leaseTx => if d.mode.served ∧ d.on Reg.RING_CFG.PARTNER then .busy else .low

end Sys2Proof.Machine
end

