-- ==== Sys2Proof/Safety.lean ====
section
/-! DEFINITION. The terms the claims use: sound memory, what reporting may touch besides a command's own effect, when a descriptor is
accepted, and what it means that a command leaves a state. -/
namespace Sys2Proof.Machine

/-- Device memory in its canonical form (R118, R381). -/
def State.MemOk (s : State) : Prop := memWf s.mem = true

/-- The state once the writes of save slots are done (R146). -/
def State.flushed (s : State) : State := { s with dev := s.dev.storesDone, mem := s.stored }

/-- The device when a command acts: `dt` ns after the command before it (R16). -/
def State.now (s : State) (dt : Nat) : Dev := s.dev.tick dt

/-! ## What reporting touches -/

/-- The register fields that posting, recording, capturing and completing move by themselves: the lost-event count, ring indices and error
counts, bytes moved, the recorder's heads and counts, and that a ring port's transmitter sleeps (R78, R89, R98, R113, R260, R488, R500). -/
def reportKeys : List Nat :=
  [Reg.HOST_EVT_LOST.LOST.key, Reg.REC_STAT.FIRST_HELD.key, Reg.REC_STAT.FIRST_FULL.key, Reg.REC_STAT.WRAPS.key,
   Reg.REC_FIRST_HEAD.HEAD.key, Reg.REC_LAST_HEAD.HEAD.key, Reg.REC_SEQ.SEQ.key, Reg.REC_CAP_STAT.BROKEN.key, Reg.REC_CAP_BUF.KIB.key,
   Reg.REC_CAP_BUF.PEAK.key, Reg.REC_CAP_CNT.GAPS.key, Reg.DMA_TAGS.PEAK.key, (Reg.LANE_PORT_STAT_p.TX_IDLE 18).key,
   (Reg.LANE_PORT_STAT_p.TX_IDLE 19).key]
  ++ (List.range 32).map (fun n => (Reg.HOST_RING_CONS_n.CONS n).key) ++ (List.range 32).map (fun n => (Reg.HOST_RING_STAT_n.ERRORS n).key)
  ++ (List.range 16).map (fun n => (Reg.DMA_CH_BYTES_n.BYTES n).key)

/-- A port without its transmitter. -/
def txHide (x : Port) : Port := { x with lastTx := 0, trainTo := 0, tx := .off, txAt := 0, alignSeq := 0 }

/-- The ports, with the transmitters of the ring ports left out: a message to the ring wakes them. -/
def ringHide (l : List Port) : List Port := l.mapIdx fun i x => if i = 18 ∨ i = 19 then txHide x else x

/-- The device without what reporting touches: TB, the drawn free values, outputs, registers (compared apart), ring service and the event
queue, the recorder's and the capture buffer's contents, a stop of the web (which a full event queue or a strict capture brings), message
sequences and statuses owed by the duplex partner, and what waits or leaves on the ring ports. Everything else stands. -/
def Dev.face (d : Dev) : Dev :=
  { d with
    tb := 0, free := 0, out := [], regs := []
    host := { d.host with rings := [], evSeq := 0, evQueue := [], dropRun := 0, dropFirst := 0, behindDue := false, taken := [], msixPend := 0
                          writes := [], turn := 0, evDescs := [] }
    recd := { d.recd with mem := [], newest := [], capBuf := [], capBytes := 0, capRecords := 0, capDecoded := 0, gap := none, rplDescs := [] }
    linen := { d.linen with stop := none }
    lane := { ports := ringHide d.lane.ports }
    net := { d.net with seqs := [], told := [], untold := [], outq := [], busy := [], asked := [] } }

/-- Two devices agree in all but what reporting touches: every other register field and every other part are equal. -/
def Dev.Same (d e : Dev) : Prop := d.face = e.face ∧ ∀ k, k ∉ reportKeys → kvGet d.regs k = kvGet e.regs k

/-- Two devices agree in all but what reporting touches, what `hide` overwrites, and the register fields whose byte offset is in `own`. -/
def Dev.SameBut (hide : Dev → Dev) (own : Nat → Bool) (d e : Dev) : Prop :=
  (hide d).face = (hide e).face ∧ ∀ k, k ∉ reportKeys → own (k / 8) = false → kvGet d.regs k = kvGet e.regs k

/-- The offsets of a block of BAR0 (R37). -/
def block (b : Nat) (o : Nat) : Bool := decide (o / 65536 = b)

/-- No register. -/
def noRegs (_ : Nat) : Bool := false

/-! ## Events and completions -/

/-- The Event ring has a place for the next event and nothing waits before it. -/
def Dev.listens (d : Dev) : Bool := d.evFree.isSome && d.host.evQueue.isEmpty && decide (d.host.dropRun = 0) && !d.host.behindDue

/-- Where the Event ring has room for it, and in SAFE where SAFE still posts it (R476), an event with this code and these arguments is among what the device has sent since `d`. -/
def Tells (d : Dev) (t : State) (code : Nat) (args : List Nat) : Prop :=
  d.listens = true → (d.mode = .safe → safeEvent code = true) → ∃ idx e, Output.event idx e ∈ t.dev.out.drop d.out.length ∧ e.code = code ∧ e.args = args

/-- The descriptor at the head of a ring is complete with a status: its completion is among what the device has sent since `d`. -/
def Ends (d : Dev) (t : State) (ring : Nat) (x : Desc) (code detail : Nat) : Prop :=
  ∃ stamp, Output.completion ring (d.get (Reg.HOST_RING_CONS_n.CONS ring)) x.op x.seq code detail (d.govFlag x.op) stamp [] ∈ t.dev.out.drop d.out.length

/-- A command that waited is complete with a status: its completion is among what the device has sent since `d`. -/
def Closes (d : Dev) (t : State) (k : Ticket) (code : Nat) : Prop :=
  ∃ stamp, Output.completion k.ring k.idx k.op k.seq code 0 (d.govFlag k.op) stamp [] ∈ t.dev.out.drop d.out.length

/-- The message of an MSI-X vector as its table entry has it, on a channel (R41, R96). -/
def vecMessage (d : Dev) (v ch : Nat) : Output :=
  let e := d.host.msixTable.getD v (0, 0, 0)
  .msix ch v (e.1 + 2 ^ 32 * e.2.1) e.2.2

/-! ## Frames that arrive -/

/-- A whole frame of a kind arrives on a port that is UP: its slots are SOF and the blocks that its words come from (R245, R246). -/
def Dev.brings (d : Dev) (p kind : Nat) (slots : List (List LaneBlock)) (ws : List Nat) : Bool :=
  d.takesBlocks p && slots.all (fun x => x.length == (rxMacros p).length) && match slots with
    | first :: rest => first.all (fun b => sofOf b == some (kind, ws.length)) && frameWalk ws.length rest [] == .whole ws
    | [] => false

/-! ## When a descriptor is accepted -/

/-- A descriptor is taken and passes the checks that every opcode has (R8, R79, R80, R81, R90). -/
def Dev.accepts (d : Dev) (ring : Nat) (x : Desc) (op : Nat) : Bool :=
  d.mode.served && d.ringReady ring && x.own && decide (ring < 32) && (x.op == op) && !(x.fence && d.earlierOpen ring) && d.inTurn ring x.fence
    && ((d.ringSt ring).expSeq == none || (d.ringSt ring).expSeq == some x.seq)
    && opTable.any (fun r => r.code == op && r.kinds.contains (d.get (Reg.HOST_RING_CFG_n.KIND ring)) && r.states.contains d.mode)
    && !(d.follower && (op == 0x08 || op == 0x09 || op == 0x0A))
    && (reservedWord op x).isNone && (!usesAddr op || decide (x.addr % 8 = 0))

/-- The descriptor at the head of a ring as it is taken (R78, R79). -/
def Dev.ticketOf (d : Dev) (ring : Nat) (x : Desc) : Ticket :=
  ⟨ring, d.get (Reg.HOST_RING_CONS_n.CONS ring), x.op, x.seq, x.flags, tagFieldOf x.op x, (if usesAddr x.op then x.len else 0), crcFieldOf x.op x,
    identityOf x.op x⟩

/-- The device once an accepted descriptor is taken: its ring has moved on and expects the next number (R78, R80). -/
def Dev.taken (d : Dev) (ring : Nat) (x : Desc) : Dev :=
  let d1 := d.taking ring x.fence
  ({ d1 with host := { d1.host with taken := d1.host.taken ++ [d.ticketOf ring x] } }).modRing ring fun r =>
    { r with expSeq := some ((x.seq + 1) % 65536) }

/-- A PARAM is taken and passes the checks of every PARAM, and it is not put off to a frame (R91, R533). -/
def Dev.acceptsParam (d : Dev) (ring : Nat) (x : Desc) (id : Nat) (states : List Mode) (tag0 : Bool) : Bool :=
  d.accepts ring x 0x0F && (paramId x == id) && states.contains d.mode
    && (decide (x.f 5 0 8 = 0) || (!tag0 && (d.job? (x.f 5 0 8)).isSome))
    && (d.live?.isNone || !atFrame x)

/-- A TABLE_LOAD of a kind is accepted, its length suits every kind and its data pass their CRC (R91, R534). -/
def Dev.tableArrives (d : Dev) (ring : Nat) (x : Desc) (kind : Nat) (bytes : List Byte) : Bool :=
  d.accepts ring x 0x03 && (tlKind x == kind) && decide (x.len % 8 = 0) && decide (8 ≤ x.len) && decide (x.len ≤ 16777216)
    && (bytes.length == x.len) && (crc32c (natBytes bytes) == x.w 6)

/-- The bank that a load for a job changes may be written (R185). -/
def Dev.jobLoads (d : Dev) (x : Desc) (j : Job) : Bool :=
  (d.job? (tlTag x) == some j) && (j.phase != .ending) && !(d.shared j.tag && (j.phase == .live || d.twillBegun j.tag))

/-- An empty buffer is taken from a device-to-host ring (R80, R81, R91). -/
def Dev.bufArrives (d : Dev) (ring : Nat) (x : Desc) (kind op : Nat) : Bool :=
  d.mode.served && d.ringReady ring && x.own && decide (ring < 32) && (d.get (Reg.HOST_RING_CFG_n.KIND ring) == kind)
    && decide ((d.cal.open_.filter fun b => b.ring == ring).length < 8) && !(x.fence && !(d.cal.open_.filter fun b => b.ring == ring).isEmpty)
    && d.inTurn ring x.fence && (bufferBad x op).isNone

/-- The unit completes JOB_STAGE, SPLICE_AT and JOB_CLOSE by itself: no partner shares them (R361). -/
def Dev.alone (d : Dev) : Bool := !d.duplexed

/-- A ring message of a TYPE arrives that the device takes: right CRC and RING_ID, from another node, for this one, the first copy, from no
node in conflict (R350, R352, R355). -/
def State.hears (s : State) (dt port type : Nat) (words : List (BitVec 64)) (h : RingHead) : Prop :=
  s.dev.ringPort port = true ∧ 2 ≤ words.length ∧ headOf (words.headD 0).toNat = h ∧ h.type = type ∧ type ≠ 12
    ∧ (words.getLastD 0).toNat % 2 ^ 32 = ringCrc ((words.map BitVec.toNat).dropLast) ∧ bitsOf (words.headD 0).toNat 48 16 = s.dev.get Reg.RING_CFG.RING_ID
    ∧ h.src ≠ s.dev.node ∧ (h.bcast = true ∨ h.dst = s.dev.node) ∧ (s.now dt).firstCopy h = true ∧ bitOf s.dev.net.conflict h.src = false

/-- Nothing waits on a ring port, and a message can leave on it at once (R260, R352). -/
def State.ringFree (s : State) (dt port : Nat) : Prop :=
  s.dev.ringQueue port = [] ∧ s.dev.portSends port = true ∧ s.dev.on (Reg.LANE_PORT_STAT_p.TX_IDLE port) = false
    ∧ s.dev.ringBusy port ≤ (s.now dt).tb * 65536 ∧ (s.dev.port port).trainTo ≤ (s.now dt).tb

/-- Nothing waits on either ring port. -/
def State.ringStill (s : State) : Prop := s.dev.ringQueue 18 = [] ∧ s.dev.ringQueue 19 = []

/-- A message as it leaves on a ring port: a frame of kind 4, the CRC word last (R245, R350). -/
def ringFrame (port : Nat) (words : List Nat) : Output := .lanes port (stripe 2 4 (words ++ [ringCrc words]))

/-- Word `i` of a message without its CRC word. -/
def msgWord (words : List (BitVec 64)) (i : Nat) : Nat := ((words.map BitVec.toNat).dropLast).getD i 0

/-- A MIRROR, DECISION or SNAPSHOT comes from the duplex partner and is taken (R351, R361). -/
def State.fromPartner (s : State) (dt port type : Nat) (words : List (BitVec 64)) (h : RingHead) : Prop :=
  s.hears dt port type words h ∧ words.length ≤ 66 ∧ h.src = s.dev.partnerNode ∧ s.dev.duplexed = true ∧ s.dev.mode.printing = true

/-! ## What a command leaves -/

/-- `i` answers a next state: device memory and the queue are as before, and the device is `d` but for what reporting touches, with `P`. -/
def Leaves (i : Instr) (s : State) (d : Dev) (P : State → Prop) : Prop :=
  ∃ t, exec i s = .next t ∧ t.mem = s.mem ∧ t.pending = s.pending ∧ t.dev.Same d ∧ P t

/-- `i` answers a next state with `P`; device memory and the queue are as before. -/
def Does (i : Instr) (s : State) (P : State → Prop) : Prop :=
  ∃ t, exec i s = .next t ∧ t.mem = s.mem ∧ t.pending = s.pending ∧ P t

/-- `i` answers a next state with `P`; device memory and the queue are as before, and so is the device but for what `hide` overwrites, the
register fields at the offsets `own`, and what reporting touches. -/
def Alters (i : Instr) (s : State) (dt : Nat) (hide : Dev → Dev) (own : Nat → Bool) (P : State → Prop) : Prop :=
  Does i s fun t => t.dev.SameBut hide own (s.now dt) ∧ P t

/-- A command on device memory acts once the open writes of save slots are done (R146). -/
def Flushes (i : Instr) (s : State) : Prop := exec i s = exec i s.flushed

/-- `i` answers a next state that differs from `s` in nothing but TB and what a change of the PW flags would record: no effect. -/
def Idles (i : Instr) (s : State) (dt : Nat) : Prop := Leaves i s (s.now dt) fun t => t.dev.out = s.dev.out

end Sys2Proof.Machine
end

