-- ==== Sys2Proof/Certificates/Slice0/Obligations.lean ====
section
/-! DEFINITION. The statements for the provers. -/
open Sys2Proof Sys2Proof.Machine

/-- For every command c and every state s whose queue is rest, a step of s with c put at the front of the queue is exec of c on s with the queue rest (the queue is the model's own form of the order in which commands come, log entry 1). -/
def Obligations.StepRunsTheFrontCommand : Prop :=
  ∀ (c : Instr) (rest : List Instr) (s : State), step { s with pending := c :: rest } = exec c { s with pending := rest }

/-- With an empty queue a step answers the next state that differs only in TB, which is one ns further on modulo 2^64 (that time passes in such a step is the model's choice, log entry 2). -/
def Obligations.EmptyQueueCountsOneNanosecond : Prop :=
  ∀ s : State, s.pending = [] → step s = .next { s with dev := { s.dev with tb := (s.dev.tb + 1) % 2 ^ 64 } }

/-- Every command answers a next state in every state, never a fault or a refusal (what the device refuses it answers with a status, an event or by ignoring it); the queue of waiting commands is as before. Some of it is the model's choice: log entry 130. -/
def Obligations.EveryCommandAnswersANextState : Prop :=
  ∀ (i : Instr) (s : State), ∃ t, exec i s = .next t ∧ t.pending = s.pending

/-- From every state, whatever the command, the device state after it is one to which the state diagram has an edge from the state before: out of reset only into SELFTEST; SELFTEST to SETUP or SAFE; SETUP to READY; READY to SETUP or RUN; RUN to HOLD or READY; HOLD to RUN or READY; SAFE only to SELFTEST; every state to SAFE and into reset. Some of it is the model's choice: log entry 16. -/
def Obligations.EveryChangeOfStateIsAllowed : Prop :=
  ∀ (i : Instr) (s t : State), exec i s = .next t →
    t.dev.mode = s.dev.mode ∨ t.dev.mode = .off
    ∨ (t.dev.mode = .safe ∧ s.dev.mode ≠ .off)
    ∨ (s.dev.mode = .off ∧ t.dev.mode = .selftest) ∨ (s.dev.mode = .safe ∧ t.dev.mode = .selftest)
    ∨ (s.dev.mode = .selftest ∧ t.dev.mode = .setup)
    ∨ (s.dev.mode = .setup ∧ t.dev.mode = .ready)
    ∨ (s.dev.mode = .ready ∧ (t.dev.mode = .setup ∨ t.dev.mode = .run))
    ∨ (s.dev.mode = .run ∧ (t.dev.mode = .hold ∨ t.dev.mode = .ready))
    ∨ (s.dev.mode = .hold ∧ (t.dev.mode = .run ∨ t.dev.mode = .ready))

/-- Whatever the command, TB after it is TB before it plus the command's elapsed time, modulo 2^64; where the device is in reset before or after the command it is 0. No command writes TB. Some of it is the model's choice: log entries 5 and 10. -/
def Obligations.TimeBaseCountsWhateverTheCommand : Prop :=
  ∀ (i : Instr) (s t : State), exec i s = .next t →
    t.dev.tb = if s.dev.mode = .off ∨ t.dev.mode = .off then 0 else (s.dev.tb + i.elapsed) % 2 ^ 64

/-- Every command but five leaves every byte of device memory as it was: the answers to a read and to a write of a DMA channel (whose transfer lists store to device memory), a CRC run and a context restore (which read it, so that the writes of save slots before them are done first, and nothing else changes), and the end of the memory fill, which leaves device memory with those writes done or filled with zeros. The five act as they would on the state with those writes done. Some of it is the model's choice: log entry 125. -/
def Obligations.DeviceMemoryChangesOnlyByTransfersAndTheFill : Prop :=
  ∀ (i : Instr) (s : State),
    (∀ t : State, exec i s = .next t → ∀ a : Nat,
      match i with
      | .dmaReadCompletion _ _ _ _ _ => True
      | .dmaWriteResponse _ _ _ _ => True
      | .crcRun _ _ _ _ => memByte t.mem a = memByte s.stored a
      | .contextRestore _ _ => memByte t.mem a = memByte s.stored a
      | .memoryFillDone _ _ _ _ _ _ _ => memByte t.mem a = memByte s.stored a ∨ memByte t.mem a = 0
      | _ => memByte t.mem a = memByte s.mem a)
    ∧ (match i with
      | .dmaReadCompletion _ _ _ _ _ | .dmaWriteResponse _ _ _ _ | .crcRun _ _ _ _ | .contextRestore _ _ | .memoryFillDone _ _ _ _ _ _ _ =>
        exec i s = exec i s.flushed
      | _ => True)

/-- From every state whose device memory is in canonical form (addresses strictly rising, no listed byte 0, the value that R381 gives an unwritten byte), whatever command is at the front of the queue, the state after the step has its memory in canonical form. -/
def Obligations.MemoryStaysCanonicalInEveryStep : Prop :=
  ∀ s t : State, s.MemOk → step s = .next t → t.MemOk

/-- Right after reset device memory is in canonical form and the queue is empty. Some of it is the model's choice: log entries 1 and 125. -/
def Obligations.ResetMemoryIsCanonical : Prop := State.reset.MemOk ∧ State.reset.pending = []


/-! ## Device states, resets, power-up -/

/-- A write of GLB_STATE_CTL that sets FORCE_SAFE has the effect of one that sets nothing else, whatever else it sets and by whichever of its rows it is told. A write that sets GO_READY and GO_SETUP without FORCE_SAFE changes nothing and posts STATE_REFUSED (0x0002) with the state and the bits written. -/
def Obligations.ForceSafeActsAlone : Prop :=
  ∀ (s : State) (dt v : Nat),
    (bitOf v 2 = true →
      exec (.forceSafe dt v) s = exec (.forceSafe dt 4) s
      ∧ (bitOf v 0 = true → exec (.goReady dt v) s = exec (.forceSafe dt 4) s)
      ∧ (bitOf v 1 = true → exec (.goSetup dt v) s = exec (.forceSafe dt 4) s))
    ∧ (bitOf v 2 = false → bitOf v 0 = true → bitOf v 1 = true →
      Leaves (.goReady dt v) s (s.now dt) (fun t => Tells (s.now dt) t 0x0002 [s.dev.mode.code, v % 8])
      ∧ Leaves (.goSetup dt v) s (s.now dt) (fun t => Tells (s.now dt) t 0x0002 [s.dev.mode.code, v % 8]))

/-- GO_READY in any state but SETUP, and GO_SETUP in any state but READY, leave the device as it was; so does GO_SETUP in READY with a job open. The refused request posts STATE_REFUSED (0x0002) whose first argument is the current state. -/
def Obligations.StateRequestsInOtherStatesAreRefused : Prop :=
  ∀ (s : State) (dt v : Nat), bitOf v 2 = false →
    (bitOf v 0 = true → bitOf v 1 = false → s.dev.mode ≠ .setup →
      Leaves (.goReady dt v) s (s.now dt) fun t => Tells (s.now dt) t 0x0002 [s.dev.mode.code, v % 8])
    ∧ (bitOf v 0 = false → bitOf v 1 = true → ¬(s.dev.mode = .ready ∧ s.dev.jobs = []) →
      Leaves (.goSetup dt v) s (s.now dt) fun t => Tells (s.now dt) t 0x0002 [s.dev.mode.code, v % 8])

/-- GO_READY in SETUP starts the set-up check, which locks the LK fields, and changes nothing else. When the check ends and a condition fails, the device stays in SETUP, the LK fields are open again, nothing else changes and SETUP_CHECK_FAIL (0x0003) names the offset and the lowest bit of the first failing field; when none fails the device is in READY. GO_SETUP in READY with no job open leads to SETUP with the LK fields open. Some of it is the model's choice: log entries 18 and 19. -/
def Obligations.BetweenSetupAndReady : Prop :=
  (∀ (s : State) (dt v : Nat), s.dev.mode = .setup → bitOf v 0 = true → bitOf v 1 = false → bitOf v 2 = false →
    Leaves (.goReady dt v) s { s.now dt with svc := { s.dev.svc with checking := true } } fun t => t.dev.lkOpen = false)
  ∧ (∀ (s : State) (dt : Nat) (f : Fld), s.dev.mode = .setup → s.dev.svc.checking = true →
      ({ s.now dt with svc := { s.dev.svc with checking := false } } : Dev).setupFails = some f →
    Leaves (.setupCheckDone dt) s { s.now dt with svc := { s.dev.svc with checking := false } } fun t =>
      t.dev.lkOpen = true ∧ Tells (s.now dt) t 0x0003 [f.off, f.lo])
  ∧ (∀ (s : State) (dt : Nat), s.dev.mode = .setup → s.dev.svc.checking = true →
      ({ s.now dt with svc := { s.dev.svc with checking := false } } : Dev).setupFails = none →
    Does (.setupCheckDone dt) s fun t => t.dev.mode = .ready ∧ t.dev.svc.checking = false ∧ t.dev.lkOpen = false)
  ∧ (∀ (s : State) (dt v : Nat), s.dev.mode = .ready → s.dev.jobs = [] → bitOf v 0 = false → bitOf v 1 = true → bitOf v 2 = false →
    Does (.goSetup dt v) s fun t => t.dev.mode = .setup ∧ t.dev.duplex = .active ∧ t.dev.jobs = [])

/-- In every state but OFF, and in SELFTEST once the memory fill has ended, FORCE_SAFE leads to SAFE with cause 6: RING_HOLD is low, every PSO output is low, no capture runs, no MOVE is in progress. The same follows a function-level reset, which also returns the HOST registers and configuration space to their reset values, a D3hot entry in RUN or HOLD, and clearing Bus Master Enable with a ring enabled. D3hot in READY, SETUP or SAFE and clearing Bus Master Enable with no ring enabled note only that, and so do the return to D0 and setting Bus Master Enable where no write and no transfer list waits. Before step 8 of power-up, when configuration requests are to be retried, none of these writes changes anything. Some of it is the model's choice: log entries 8 and 148. -/
def Obligations.EntryToSafe : Prop :=
  (∀ (s : State) (dt v : Nat), bitOf v 2 = true → s.dev.mode ≠ .off → s.dev.mode ≠ .safe → (s.dev.mode = .selftest → s.dev.svc.filled = true) →
    Does (.forceSafe dt v) s fun t => t.dev.mode = .safe ∧ t.dev.get Reg.GLB_STATE.SAFE_CAUSE = 6 ∧ t.dev.clk.ringHold = some false
      ∧ (∀ n < 16, bitOf t.dev.pos.pso n = false) ∧ t.dev.recd.cap = .idle ∧ t.dev.linen.target = none)
  ∧ (∀ (s : State) (dt : Nat), s.dev.mode.served = true → s.dev.svc.configOk = true →
    Does (.functionLevelReset dt) s fun t => t.dev.mode = .safe ∧ t.dev.get Reg.GLB_STATE.SAFE_CAUSE = 6
      ∧ (∀ n < 32, t.dev.get (Reg.HOST_RING_CFG_n.EN n) = 0 ∧ t.dev.get (Reg.HOST_RING_CONS_n.CONS n) = 0) ∧ t.dev.host.cplTimeout = 0
      ∧ t.dev.dma.maxPayload = 128)
  ∧ (∀ (s : State) (dt : Nat), s.dev.mode = .run ∨ s.dev.mode = .hold → s.dev.svc.configOk = true →
    Does (.d3hotEntry dt true) s fun t => t.dev.mode = .safe ∧ t.dev.get Reg.GLB_STATE.SAFE_CAUSE = 6 ∧ t.dev.host.d3hot = true)
  ∧ (∀ (s : State) (dt : Nat), s.dev.mode ≠ .run → s.dev.mode ≠ .hold → s.dev.svc.configOk = true →
    Leaves (.d3hotEntry dt true) s { s.now dt with host := { s.dev.host with d3hot := true } } fun _ => True)
  ∧ (∀ (s : State) (dt n : Nat), s.dev.mode.served = true → n < 32 → s.dev.on (Reg.HOST_RING_CFG_n.EN n) = true → s.dev.svc.configOk = true →
    Does (.busMasterDisable dt false) s fun t => t.dev.mode = .safe ∧ t.dev.get Reg.GLB_STATE.SAFE_CAUSE = 6 ∧ t.dev.host.busMaster = false)
  ∧ (∀ (s : State) (dt : Nat), (∀ n < 32, s.dev.on (Reg.HOST_RING_CFG_n.EN n) = false) → s.dev.svc.configOk = true →
    Leaves (.busMasterDisable dt false) s { s.now dt with host := { s.dev.host with busMaster := false } } fun _ => True)
  ∧ (∀ (s : State) (dt : Nat), s.dev.host.writes = [] → (∀ ch < 16, (s.dev.chan ch).run = none) → s.dev.svc.configOk = true →
    Leaves (.d3hotEntry dt false) s { s.now dt with host := { s.dev.host with d3hot := false } } (fun _ => True)
    ∧ Leaves (.busMasterDisable dt true) s { s.now dt with host := { s.dev.host with busMaster := true } } fun _ => True)
  ∧ (∀ (s : State) (dt : Nat) (b : Bool) (v : Nat), s.dev.svc.configOk = false →
    Idles (.functionLevelReset dt) s dt ∧ Idles (.d3hotEntry dt b) s dt ∧ Idles (.busMasterDisable dt b) s dt
      ∧ Idles (.deviceControl2Write dt b v) s dt)

/-- A power-on reset in any state, and a low pulse of at least 1 us on RESET_N or PERST#, put the device in reset: every register at its reset value (the pending shutdown mark survives the pulse alone), no job, TB 0, the MRAM regions as they were. A pulse below 100 ns changes nothing. The release of the last reset input starts SELFTEST at stage 1 with the alignment set of MRAM in both banks; it is lost exactly where no copy is valid. Some of it is the model's choice: log entries 10, 11 and 15. -/
def Obligations.ResetsOfTheWholeDevice : Prop :=
  (∀ (s : State) (dt : Nat), Does (.powerOnReset dt) s fun t => t.dev.mode = .off ∧ t.dev.tb = 0 ∧ t.dev.regs = [] ∧ t.dev.jobs = []
      ∧ t.dev.ecc.field = s.dev.ecc.field ∧ t.dev.gz.mram = s.dev.gz.mram ∧ t.dev.sense.shut = s.dev.sense.shut)
  ∧ (∀ (s : State) (dt ns : Nat), s.dev.mode ≠ .off → 1000 ≤ ns →
    Does (.coldReset dt ns) s fun t => t.dev.mode = .off ∧ t.dev.tb = 0 ∧ t.dev.jobs = []
      ∧ (∀ f : Fld, f.key ≠ Reg.SENSE_SHUT.PEND.key → t.dev.get f = f.rst) ∧ t.dev.get Reg.SENSE_SHUT.PEND = s.dev.get Reg.SENSE_SHUT.PEND % 2
      ∧ t.dev.ecc.field = s.dev.ecc.field ∧ t.dev.gz.mram = s.dev.gz.mram ∧ t.dev.sense.shut = s.dev.sense.shut)
  ∧ (∀ (s : State) (dt ns : Nat), ns < 100 → Leaves (.coldReset dt ns) s (s.now dt) fun _ => True)
  ∧ (∀ (s : State) (dt bad : Nat), s.dev.mode = .off →
    Does (.coldResetRelease dt bad) s fun t => t.dev.mode = .selftest ∧ t.dev.get Reg.SVC_ST.STAGE = 1 ∧ t.dev.gz.mram = dropBad s.dev.gz.mram bad
      ∧ t.dev.gz.bank0.align = (mramRead (dropBad s.dev.gz.mram bad)).getD [] ∧ t.dev.gz.bank1.align = (mramRead (dropBad s.dev.gz.mram bad)).getD []
      ∧ t.dev.gz.alignLost = (mramRead (dropBad s.dev.gz.mram bad)).isNone)

/-- In SELFTEST: the PLLs' lock within 1 ms ends stage 1 with the lock bits set; 10 ms after an attempt without lock another begins. The eFuse read ends stages 2 and 3, or with failing check bits leads to SAFE with stage 2 named; BIST ends stage 4, or with a logic failure leads to SAFE with stage 4 and its location (one that R23 and R25 number, whatever the hardware reports); the fill ends stage 6 with device memory filled with 0x00, or leads to SAFE with stage 6 and its location. A stage that fails leads to SAFE with cause 1. Some of it is the model's choice: log entry 109. -/
def Obligations.SelftestStages : Prop :=
  (∀ (s : State) (dt : Nat) (temps : List Int) (tref lref : Bool) (width speed : Nat), s.dev.mode = .selftest → s.dev.svc.pllsLocked = false →
      (s.now dt).since s.dev.clk.relockAt ≤ 1000000 →
    Does (.pllLock dt temps tref lref width speed) s fun t => t.dev.svc.pllsLocked = true ∧ t.dev.get Reg.SENSE_CLK_STAT.LOCK_CORE = 1
      ∧ t.dev.get Reg.SENSE_CLK_STAT.TREF_OK = b2n tref ∧ t.dev.get Reg.LANE_GLB.LREF_OK = b2n lref
      ∧ (width = 8 → speed = 4 → t.dev.host.linkWidth = 8 ∧ t.dev.host.linkSpeed = 4))
  ∧ (∀ (s : State) (dt : Nat), s.dev.mode = .selftest → s.dev.svc.pllsLocked = false → 10000000 ≤ (s.now dt).since s.dev.clk.relockAt →
    Leaves (.clockStageRetry dt) s { s.now dt with clk := { s.dev.clk with relockAt := (s.now dt).tb } } fun _ => True)
  ∧ (∀ (s : State) (dt badField badShut tail : Nat), s.dev.mode = .selftest → s.dev.get Reg.SVC_ST.STAGE = 2 →
    Does (.efuseReadDone dt true badField badShut tail) s (fun t => t.dev.mode = .selftest ∧ t.dev.get Reg.SVC_ST.STAGE = 4
      ∧ t.dev.ecc.field = dropBad s.dev.ecc.field badField ∧ t.dev.sense.shut = dropBad s.dev.sense.shut badShut)
    ∧ Does (.efuseReadDone dt false badField badShut tail) s (fun t => t.dev.mode = .safe ∧ t.dev.get Reg.SVC_ST.FAILED = 2
      ∧ t.dev.get Reg.GLB_STATE.SAFE_CAUSE = 1))
  ∧ (∀ (s : State) (dt : Nat) (entries : List Nat) (loc : Nat) (silent : Bool), s.dev.mode = .selftest → s.dev.get Reg.SVC_ST.STAGE = 4 →
    Does (.bistDone dt entries false loc silent) s (fun t => t.dev.mode = .safe ∧ t.dev.get Reg.SVC_ST.FAILED = 4
      ∧ t.dev.get Reg.SVC_ST_LOC_LO.LOC_LO = s.dev.heldLoc loc % 2 ^ 32 ∧ t.dev.svc.silent = silent)
    ∧ Does (.bistDone dt [] true loc silent) s (fun t => t.dev.mode = .selftest ∧ t.dev.get Reg.SVC_ST.STAGE = 5 ∧ t.dev.ecc.sweep.isSome = true
      ∧ t.dev.svc.silent = silent))
  ∧ (∀ (s : State) (dt ms loc : Nat) (h0 h1 : List Byte), s.dev.mode = .selftest → s.dev.get Reg.SVC_ST.STAGE = 6 → s.dev.svc.forceHeld = false →
      (∃ k, candidateOf (natBytes h0) (natBytes h1) = some k) →
    ∃ t, exec (.memoryFillDone dt true true ms loc h0 h1) s = .next t ∧ t.pending = s.pending ∧ t.mem = [] ∧ t.dev.mode = .selftest
      ∧ t.dev.get Reg.MEM_FILL.SRAM_DONE = 1 ∧ t.dev.get Reg.MEM_FILL.DRAM_DONE = 1 ∧ t.dev.get Reg.MEM_FILL.DRAM_MS = min 65535 ms
      ∧ t.dev.get Reg.SVC_ST.STAGE = 8 ∧ t.dev.svc.candidate = candidateOf (natBytes h0) (natBytes h1))
  ∧ (∀ (s : State) (dt ms loc : Nat) (h0 h1 : List Byte) (dramOk : Bool), s.dev.mode = .selftest → s.dev.get Reg.SVC_ST.STAGE = 6 →
    ∃ t, exec (.memoryFillDone dt false dramOk ms loc h0 h1) s = .next t ∧ t.pending = s.pending ∧ t.mem = s.stored ∧ t.dev.mode = .safe
      ∧ t.dev.get Reg.SVC_ST.FAILED = 6 ∧ t.dev.get Reg.SVC_ST_LOC_LO.LOC_LO = s.dev.heldLoc loc % 2 ^ 32
      ∧ t.dev.get Reg.MEM_FILL.SRAM_DONE = 0)

/-- In stage 8 an image whose header and payload pass every check boots: its slot, ROLLBACK and VERSION show and stage 9 begins; a first failing image gives way to the other slot, with the failing header byte kept. The firmware's self-test leads to SETUP, to SAFE with cause 4 where a shutdown is not acknowledged, or to SAFE with stage 9 failed. Every 1 s in SAFE a SAFE_STATUS (0x0007) is due. An accepted IMAGE_WRITE with a good image sends it to the flash and completes OK when the write has been read back; MON_KEY sets the key and completes OK. Some of it is the model's choice: log entries 111 and 112. -/
def Obligations.BootAndFirmware : Prop :=
  (∀ (s : State) (dt slot : Nat) (h p : List Byte), s.dev.svc.candidate = some slot → s.dev.mode = .selftest → s.dev.get Reg.SVC_ST.STAGE = 8 →
      h.length = 512 → imageFault (natBytes h) (natBytes p) = none →
    Does (.imageLoadDone dt h p) s fun t => t.dev.mode = .selftest ∧ t.dev.get Reg.SVC_BOOT.SLOT = slot % 2
      ∧ t.dev.get Reg.SVC_FW_VER.VERSION = leAt (natBytes h) 12 4 % 2 ^ 32 ∧ t.dev.get Reg.SVC_ST.STAGE = 9 ∧ t.dev.svc.verified = true)
  ∧ (∀ (s : State) (dt slot byte : Nat) (h p : List Byte), s.dev.svc.candidate = some slot → s.dev.mode = .selftest →
      s.dev.get Reg.SVC_ST.STAGE = 8 → h.length = 512 → imageFault (natBytes h) (natBytes p) = some byte → s.dev.svc.fallback = none →
    Leaves (.imageLoadDone dt h p) s { (s.now dt).put Reg.SVC_BOOT.FALLBACK 1 with
      svc := { s.dev.svc with fallback := some (slot, byte), candidate := some (1 - slot) } } fun _ => True)
  ∧ (∀ (s : State) (dt loc : Nat), s.dev.mode = .selftest → s.dev.get Reg.SVC_ST.STAGE = 9 → s.dev.svc.verified = true →
    (s.dev.on Reg.SENSE_SHUT.PEND = false → Does (.firmwareSelftestDone dt true loc) s fun t => t.dev.mode = .setup)
    ∧ (s.dev.on Reg.SENSE_SHUT.PEND = true → Does (.firmwareSelftestDone dt true loc) s fun t =>
        t.dev.mode = .safe ∧ t.dev.get Reg.GLB_STATE.SAFE_CAUSE = 4)
    ∧ Does (.firmwareSelftestDone dt false loc) s fun t => t.dev.mode = .safe ∧ t.dev.get Reg.GLB_STATE.SAFE_CAUSE = 1
        ∧ t.dev.get Reg.SVC_ST.FAILED = 9)
  ∧ (∀ (s : State) (dt : Nat), s.dev.mode = .safe → 1000000000 ≤ (s.now dt).since s.dev.svc.safePost →
    Leaves (.safeStatus dt) s { s.now dt with svc := { s.dev.svc with safePost := (s.now dt).tb } } fun t =>
      (s.now dt).listens = true → ∃ idx e, Output.event idx e ∈ t.dev.out.drop s.dev.out.length ∧ e.code = 0x0007
        ∧ e.args.headD 0 = s.dev.get Reg.GLB_STATE.SAFE_CAUSE)
  ∧ (∀ (s : State) (dt ring : Nat) (x : Desc) (bytes : List Byte), (s.now dt).acceptsParam ring x 0xF001 [.setup] true = true →
      s.dev.svc.image = none → valueExtra x [0xFFFFFFFF, 0xFFFFFFFF, 0xFFFFFFFF, 1] = none → (x.w 6 + 2 ^ 32 * x.w 7) % 4096 = 0 →
      4608 ≤ x.w 8 → x.w 8 ≤ 8385024 → x.w 8 % 4096 = 512 → x.w 9 % 2 ≠ s.dev.get Reg.SVC_BOOT.SLOT → bytes.length = x.w 8 →
      imageFault ((natBytes bytes).take 512) ((natBytes bytes).drop 512) = none →
    Leaves (.imageWrite dt ring x (.data bytes)) s
      { s.now dt with svc := { s.dev.svc with image := some ⟨(s.now dt).ticketOf ring x, x.w 9 % 2⟩ } } fun t =>
      Output.flash (x.w 9 % 2) (natBytes bytes) ∈ t.dev.out.drop s.dev.out.length)
  ∧ (∀ (s : State) (dt : Nat) (w : ImageJob), s.dev.svc.image = some w → w.ticket.ring < 32 → w.ticket.op = 0x0F →
    Leaves (.imageWriteDone dt) s { s.now dt with svc := { s.dev.svc with image := none } } fun t =>
      ∃ stamp, Output.completion w.ticket.ring w.ticket.idx w.ticket.op w.ticket.seq 0 0 0 stamp [] ∈ t.dev.out.drop s.dev.out.length)
  ∧ (∀ (s : State) (dt ring : Nat) (x : Desc), (s.now dt).acceptsParam ring x 0xF002 [.setup] true = true → valueExtra x [0xFFFFFFFF, 0, 0, 0] = none →
    Leaves (.monKey dt ring x) s { s.now dt with svc := { s.dev.svc with key := x.w 6 } } fun t => Ends (s.now dt) t ring x 0 0)


/-! ## The host side and the DMA engine -/

/-- Every DB_POLL in a state that polls, a 64-byte read of the doorbell line is issued, or SKIPPED counts up while one is outstanding; nothing else changes. The read keeps its own instant and the timeout in force when it was issued. When the line comes, every enabled ring's PROD reads its little-endian entry of the line. A read that fails or is not answered within the completion timeout ends, FAILED counts up, and DB_READ_FAIL (0x1002) carries the code and the count. Some of it is the model's choice: log entry 8. New work is taken in the order Command, Content by ring number, then device-to-host, each doorbell read beginning again; once a ring of a later place has been served, new work without FENCE of an earlier one waits for the next read. -/
def Obligations.DoorbellLineReads : Prop :=
  (∀ (s : State) (dt : Nat), (s.now dt).polls = true → s.dev.get Reg.HOST_DB_POLL.POLL * 500 ≤ (s.now dt).since s.dev.host.dbLast →
    (s.dev.host.dbBusy = false →
      Leaves (.doorbellPoll dt) s ({ s.now dt with host := { s.dev.host with dbLast := (s.now dt).tb, dbBusy := true, dbAt := (s.now dt).tb, dbLim := timeoutNs s.dev.host.cplTimeout } }).countTags fun t =>
        Output.hostRead 0 (s.dev.get2 Reg.HOST_DB_ADDR_LO.ADDR_LO Reg.HOST_DB_ADDR_HI.ADDR_HI) 64 ∈ t.dev.out.drop s.dev.out.length)
    ∧ (s.dev.host.dbBusy = true →
      Leaves (.doorbellPoll dt) s (({ s.now dt with host := { s.dev.host with dbLast := (s.now dt).tb } }).bump Reg.HOST_DB_STAT.SKIPPED)
        fun t => t.dev.out = s.dev.out))
  ∧ (∀ (s : State) (dt : Nat) (line : List Byte) (missing : List Nat) (evs : List (Nat × Desc)), s.dev.mode.served = true → s.dev.host.dbBusy = true → line.length = 64 →
    Does (.doorbellReadDone dt (.data line) missing evs) s fun t => t.dev.host.dbBusy = false
      ∧ ∀ n < 32, s.dev.on (Reg.HOST_RING_CFG_n.EN n) = true → t.dev.get (Reg.HOST_RING_CONS_n.PROD n) = leAt (natBytes line) (2 * n) 2)
  ∧ (∀ (s : State) (dt off : Nat) (missing : List Nat) (evs : List (Nat × Desc)), s.dev.host.dbBusy = true →
    Leaves (.doorbellReadDone dt (.failed stPoisoned off) missing evs) s
      ((({ s.now dt with host := { s.dev.host with dbBusy := false } }).bump Reg.HOST_DB_STAT.FAILED).countTags) fun t =>
      Tells (s.now dt) t 0x1002 [0x24, min 65535 (s.dev.get Reg.HOST_DB_STAT.FAILED + 1)])
  ∧ (∀ (s : State) (dt ring : Nat), s.dev.mode.served = true → s.dev.host.dbBusy = true →
      s.dev.host.dbLim ≤ (s.now dt).since s.dev.host.dbAt →
    Does (.completionTimeout dt 0 ring) s fun t => t.dev.host.dbBusy = false
      ∧ t.dev.get Reg.HOST_DB_STAT.FAILED = min 65535 (s.dev.get Reg.HOST_DB_STAT.FAILED + 1)
      ∧ Tells (s.now dt) t 0x1002 [0x22, min 65535 (s.dev.get Reg.HOST_DB_STAT.FAILED + 1)])
  ∧ (∀ (s : State) (dt : Nat) (line : List Byte) (missing : List Nat) (evs : List (Nat × Desc)), s.dev.mode.served = true → s.dev.host.dbBusy = true →
      line.length = 64 → Does (.doorbellReadDone dt (.data line) missing evs) s fun t => t.dev.host.turn = 0)
  ∧ (∀ (s : State) (dt ring : Nat) (x : Desc),
      (s.dev.inTurn ring x.fence = false → Idles (.nop dt ring x) s dt)
      ∧ ((s.now dt).accepts ring x 0x00 = true → s.dev.newWork ring = true → x.fence = false → (s.dev.ringSt ring).loose = false →
        Does (.nop dt ring x) s fun t => s.dev.turnKey ring ≤ t.dev.host.turn ∧ ∀ r, t.dev.newWork r = true → (t.dev.ringSt r).loose = false →
          t.dev.get (Reg.HOST_RING_CFG_n.KIND r) ≠ 2 → t.dev.turnKey r < s.dev.turnKey ring → t.dev.inTurn r false = false))

/-- An accepted NOP completes with OK and changes nothing else. A write of the mask word of a vector's MSI-X entry sets or clears its mask; unmasking sends its message if it pends and its channel may issue requests, and clears the pending bit; writes of the other words set the message's address and data. A ring's vector signals when its oldest unsignalled completion is COAL_US old: its message, with the entry's address and data, is sent, or pends while masked or while the channel may not send. An accepted RING_RESET of an enabled, stopped ring other than the Command ring clears STOPPED and CAUSE, restarts its channel, sets CONS and completes OK. A write of HOST_RING_STAT with STOPPED set restarts the stopped Command ring outside RUN. A write of Device Control 2 sets the completion timeout, one of Device Control the payload and read request sizes. Some of it is the model's choice: log entries 9, 27, 147 and 149. -/
def Obligations.InterruptsAndRingRestarts : Prop :=
  (∀ (s : State) (dt ring : Nat) (x : Desc), (s.now dt).accepts ring x 0x00 = true →
    Leaves (.nop dt ring x) s (s.now dt) fun t => Ends (s.now dt) t ring x 0 0)
  ∧ (∀ (s : State) (dt v value : Nat), v < 32 →
    Leaves (.msixUnmask dt v 3 value) s { s.now dt with host := { s.dev.host with msixMask := setBit s.dev.host.msixMask v (bitOf value 0) } } fun t =>
      bitOf value 0 = false → bitOf s.dev.host.msixPend v = true → s.dev.canRequest = true → s.dev.chStopped (s.dev.vecChannel v) = false →
      bitOf t.dev.host.msixPend v = false
      ∧ vecMessage s.dev v (s.dev.vecChannel v) ∈ t.dev.out.drop s.dev.out.length)
  ∧ (∀ (s : State) (dt v word value : Nat), v < 32 → word < 3 →
    ∃ f, Leaves (.msixUnmask dt v word value) s { s.now dt with host := { s.dev.host with msixTable := modAt s.dev.host.msixTable v f } } (fun t =>
        t.dev.out = s.dev.out ∧ t.dev.host.msixPend = s.dev.host.msixPend)
      ∧ ∀ lo hi x, f (lo, hi, x) = (if word = 0 then (value % 2 ^ 32, hi, x) else if word = 1 then (lo, value % 2 ^ 32, x) else (lo, hi, value % 2 ^ 32)))
  ∧ (∀ (s : State) (dt n : Nat), n < 32 → s.dev.get (Reg.HOST_RING_COAL_n.COAL_US n) ≠ 0 → (s.dev.ringSt n).unsig ≠ 0 →
      s.dev.get (Reg.HOST_RING_COAL_n.COAL_US n) * 1000 ≤ (s.now dt).since (s.dev.ringSt n).oldest →
    Leaves (.interruptCoalesceTimeout dt n) s (s.now dt) fun t =>
      if s.dev.vecOpen (s.dev.get (Reg.HOST_RING_CFG_n.VEC n)) (s.dev.channelOf n) then
        t.dev.out = s.dev.out ++ [vecMessage s.dev (s.dev.get (Reg.HOST_RING_CFG_n.VEC n)) (s.dev.channelOf n)]
      else t.dev.out = s.dev.out ∧ bitOf t.dev.host.msixPend (s.dev.get (Reg.HOST_RING_CFG_n.VEC n)) = true)
  ∧ (∀ (s : State) (dt ring : Nat) (x : Desc), (s.now dt).accepts ring x 0x10 = true → s.dev.on (Reg.HOST_RING_CFG_n.EN (x.f 4 0 5)) = true →
      s.dev.get (Reg.HOST_RING_CFG_n.KIND (x.f 4 0 5)) ≠ 0 → s.dev.on (Reg.HOST_RING_STAT_n.STOPPED (x.f 4 0 5)) = true →
    Leaves (.ringReset dt ring x) s ((((s.now dt).put (Reg.HOST_RING_STAT_n.STOPPED (x.f 4 0 5)) 0).put (Reg.HOST_RING_STAT_n.CAUSE (x.f 4 0 5)) 0).restartChannel
        (s.dev.channelOf (x.f 4 0 5))) fun t =>
      Ends (s.now dt) t ring x 0 0 ∧ t.dev.get (Reg.HOST_RING_CONS_n.CONS (x.f 4 0 5)) = x.f 5 0 16)
  ∧ (∀ (s : State) (dt n v : Nat), n < 32 → bitOf v 0 = true → s.dev.mode.served = true → s.dev.on (Reg.HOST_RING_STAT_n.STOPPED n) = true →
      s.dev.get (Reg.HOST_RING_CFG_n.KIND n) = 0 → s.dev.mode ≠ .run →
    Leaves (.commandRingRestart dt n v) s
      ((((s.now dt).put (Reg.HOST_RING_STAT_n.STOPPED n) 0).put (Reg.HOST_RING_STAT_n.CAUSE n) 0).restartChannel 3) fun t =>
      (t.dev.ringSt n).ownRetry = 0 ∧ (s.dev.host.writes = [] → s.dev.host.msixPend = 0 → t.dev.out = s.dev.out))
  ∧ (∀ (s : State) (dt v : Nat), s.dev.svc.configOk = true →
    Leaves (.deviceControl2Write dt false v) s { s.now dt with host := { s.dev.host with cplTimeout := v % 16 } } (fun t => t.dev.out = s.dev.out)
    ∧ Leaves (.deviceControl2Write dt true v) s { s.now dt with dma := { s.dev.dma with
        maxPayload := min 512 (128 * 2 ^ bitsOf v 5 3), maxRead := min 4096 (128 * 2 ^ bitsOf v 12 3) } } fun t => t.dev.out = s.dev.out)

/-- An accepted PARAM 0x2001 on an idle channel 13 or 14 starts a list: a 64-byte read of its address is issued. In a running host-to-device program an answered read burst is kept with its first word's number and asks for more. When the memory acknowledges the store, device memory holds the bytes of every burst at DEV plus 8 times its first word, and every byte outside these is as before, the writes of save slots before it done. A list read that times out ends the list, and its late completion is still expected: where the descriptor itself was being read its channel stops with error 0x22, else the channel stops once the descriptor's write-back is over. An unexpected completion that follows a timeout counts in LATE and is reported. Some of it is the model's choice: log entries 36 and 125. The arbiter grants the ready channel of the highest priority, the lowest number among equals. Of a channel, a write that is not data is issued only when no write before it is without its response; so the next write, word 0 last, goes out when the response of the one before has come. -/
def Obligations.TransferListsRun : Prop :=
  (∀ (s : State) (dt ring : Nat) (x : Desc), (s.now dt).acceptsParam ring x 0x2001 allServed true = true →
      valueExtra x [0xFFFFFFFF, 0xFFFFFFFF, 1, 0] = none → atFrame x = false → x.w 6 % 64 = 0 → s.dev.dma.chans.length = 16 →
      (s.dev.chan (13 + x.f 8 0 1)).run = none → (s.dev.chan (13 + x.f 8 0 1)).stale = [] →
      s.dev.chFailing (13 + x.f 8 0 1) = false → s.dev.freeTags (13 + x.f 8 0 1) ≠ 0 →
    Does (.xferList dt ring x) s fun t =>
      (∃ r, (t.dev.chan (13 + x.f 8 0 1)).run = some r ∧ r.ticket = some ((s.now dt).ticketOf ring x) ∧ r.addr = x.w 6 + 2 ^ 32 * x.w 7 ∧ r.words = none)
      ∧ t.dev.get (Reg.DMA_CH_STAT_n.STATE (13 + x.f 8 0 1)) = 1
      ∧ Output.hostRead (13 + x.f 8 0 1) (x.w 6 + 2 ^ 32 * x.w 7) 64 ∈ t.dev.out.drop s.dev.out.length
      ∧ t.dev.SameBut (fun d => { d with dma := s.dev.dma }) (block 2) (s.now dt))
  ∧ (∀ (s : State) (dt ch k ring : Nat) (bytes : List Byte) (r : XferRun) (b : Burst) (ws : List Nat), s.dev.mode.served = true →
      s.dev.dma.chans.length = 16 → ch < 16 → (s.dev.chan ch).stale = [] → (s.dev.chan ch).run = some r →
      r.open_.find? (fun b => b.k == k) = some b → r.words = some ws → xferOut ws = false → r.storing = false → bytes.length = b.bytes →
    ∃ t, exec (.dmaReadCompletion dt ch k ring (.data bytes)) s = .next t ∧ t.mem = s.stored ∧ t.pending = s.pending ∧
      ∃ r', (t.dev.chan ch).run = some r' ∧ r'.got = r.got ++ [(k, natBytes bytes)] ∧ r'.words = some ws)
  ∧ (∀ (s : State) (dt ch landed : Nat) (r : XferRun) (ws : List Nat), s.MemOk → s.dev.mode.served = true →
      (∀ w ∈ s.dev.host.writes, w.ch ≠ ch) → r.backing = none → (s.dev.chan ch).run = some r →
      r.words = some ws → xferOut ws = false → r.storing = true →
      (r.got.map fun g => (g.1, g.2.length)).Pairwise (fun a b => a.1 * 8 + a.2 ≤ b.1 * 8 ∨ b.1 * 8 + b.2 ≤ a.1 * 8) →
    ∃ t, exec (.dmaWriteResponse dt ch true landed) s = .next t ∧ t.pending = s.pending
      ∧ (∀ k bs i, (k, bs) ∈ r.got → (h : i < bs.length) → memByte t.mem (xferDev ws + 8 * k + i) = BitVec.ofNat 8 bs[i])
      ∧ (∀ a, (∀ g ∈ r.got, a < xferDev ws + 8 * g.1 ∨ xferDev ws + 8 * g.1 + g.2.length ≤ a) → memByte t.mem a = memByte s.stored a))
  ∧ (∀ (s : State) (dt ch ring : Nat) (r : XferRun) (b : Burst) (rest : List Burst), s.dev.mode.served = true → 12 < ch → ch < 16 →
      s.dev.dma.chans.length = 16 → (s.dev.chan ch).stale = [] → (s.dev.chan ch).run = some r → r.open_ = b :: rest →
      r.words.all (fun w => !xferOut w) = true → (∀ w ∈ s.dev.host.writes, w.ch ≠ ch) → b.lim ≤ (s.now dt).since b.at_ →
    Does (.completionTimeout dt ch ring) s fun t => (t.dev.chan ch).run = none ∧ (t.dev.chan ch).expired = (s.dev.chan ch).expired + 1
      ∧ (if r.words.isSome then t.dev.chFailing ch = true
         else t.dev.get (Reg.DMA_CH_STAT_n.STATE ch) = 3 ∧ t.dev.get (Reg.DMA_CH_STAT_n.ERR ch) = 0x22))
  ∧ (∀ (s : State) (dt ch : Nat), (s.dev.chan ch).expired ≠ 0 →
    Leaves (.unexpectedCompletion dt ch) s (((s.now dt).modChan ch fun c => { c with expired := c.expired - 1 }).bump (Reg.DMA_CH_CNT_n.LATE ch)) fun t =>
      t.dev.out = s.dev.out ++ [Output.aer ch])
  ∧ (∀ (ready : Nat → Bool), (grant ready = none ↔ ∀ c < 16, ready c = false)
      ∧ ∀ ch, grant ready = some ch → ch < 16 ∧ ready ch = true
        ∧ ∀ c < 16, ready c = true → chPriority.getD c 0 < chPriority.getD ch 0 ∨ chPriority.getD c 0 = chPriority.getD ch 0 ∧ ch ≤ c)
  ∧ (∀ (ch : Nat) (ws : List Wr) (w : Wr), nextWr ch true ws = some w → ∃ a b, ws = a ++ w :: b ∧ w.ch = ch ∧ w.sent = false
      ∧ (∀ v ∈ a, v.ch = ch → v.sent = true) ∧ (w.kind.isData = true ∨ ∀ v ∈ a, v.ch ≠ ch))
  ∧ (∀ (s : State) (dt ch : Nat) (w v : Wr) (t : List Wr), s.dev.mode.served = true → s.dev.canRequest = true → s.dev.chStopped ch = false → ch < 16 →
      s.dev.host.writes.filter (fun x => x.ch == ch) = w :: v :: t → w.sent = true → v.sent = false →
      (v.kind = .fields ∨ v.kind = .block ∨ ∃ u, v.kind = .last u) → w.kind.isData = false → (∀ c < 16, s.dev.writeReady c = false) →
      (∀ x ∈ t, x.sent = false ∧ x.kind.isData = false) →
    Flushes (.dmaWriteResponse dt ch true 0) s ∧ Alters (.dmaWriteResponse dt ch true 0) s.flushed dt id (block 2) fun u =>
      (u.dev.out.drop s.dev.out.length).head? = some (.hostWrite ch v.addr v.bytes v.ep)
      ∧ u.dev.host.writes.filter (fun x => x.ch == ch) = { v with sent := true } :: t
      ∧ u.dev.host.writes.filter (fun x => x.ch != ch) = s.dev.host.writes.filter (fun x => x.ch != ch))

/-! ## Register writes -/

/-- In SETUP with no set-up check running, a write of a register that has no effect of its own gives every LK and RW field of that register the bits written, clears the W1C bits written as 1, keeps every RO field and every other register, and changes nothing else. A write whose transport fails parity is discarded, counted and posted (0xC004). An access of another size or alignment than R42 allows changes nothing and posts BAD_ACCESS (0x0005) with the offset, and a read then ends as an Unsupported Request; a read of one or two words is answered with what the registers read as, a struck one with its data marked and posted, and with Completer Abort while the CORE PLL is unlocked. BAR2 answers with the MSI-X table; configuration space with the words that the spec fixes, or with a retry status before step 8 of power-up. Some of it is the model's choice: log entries 23 and 149. -/
def Obligations.RegisterWritesInSetup : Prop :=
  (∀ (s : State) (dt off v : Nat) (r : RegDesc), s.dev.mode = .setup → s.dev.svc.checking = false → s.dev.clk.asyncHold = false → off % 4 = 0 →
      off < 0x100000 → regAt off = some r → ownRow off = false → [0x70000, 0x70004, 0x40030, 0x40040, 0x40050, 0x60080, 0x90804].contains off = false →
      (∀ n < 16, off = (Reg.LINK_CFG_n.EN n).off → s.dev.on (Reg.LINK_CFG_n.EN n) = true → bitOf v (Reg.LINK_CFG_n.EN n).lo = true) →
    Alters (.registerWrite dt off v false) s dt id (fun o => decide (o / 4 = off / 4)) fun t => t.dev.out = s.dev.out ∧ ∀ f ∈ r.fields, match f.acc with
      | .lk | .rw => t.dev.get (f.at_ off) = bitsOf v f.lo f.w
      | .w1c => s.dev.get (f.at_ off) < 2 ^ f.w →
          t.dev.get (f.at_ off) = s.dev.get (f.at_ off) - Nat.land (s.dev.get (f.at_ off)) (bitsOf v f.lo f.w)
      | .ro | .w1s => t.dev.get (f.at_ off) = s.dev.get (f.at_ off))
  ∧ (∀ (s : State) (dt off v : Nat), s.dev.mode ≠ .off → off % 4 = 0 → off < 0x100000 →
    Leaves (.registerWrite dt off v true) s ((s.now dt).bump Reg.MEM_PARITY.REG) fun t => Tells (s.now dt) t 0xC004 [1, off])
  ∧ (∀ (s : State) (dt off len : Nat) (parity : Bool), s.dev.mode ≠ .off → off < 0x100000 →
    (¬(len = 4 ∧ off % 4 = 0) → Leaves (.badAccess dt 0 off len true parity) s (s.now dt) fun t => Tells (s.now dt) t 0x0005 [off, len, 1])
    ∧ (readOk off len = false → Leaves (.badAccess dt 0 off len false parity) s (s.now dt) fun t =>
        Tells (s.now dt) t 0x0005 [off, len, 0] ∧ Output.readAnswer 0 off 1 false [] ∈ t.dev.out.drop s.dev.out.length)
    ∧ (readOk off len = true → s.dev.bar0Dead = true → Leaves (.badAccess dt 0 off len false parity) s (s.now dt) fun t =>
        t.dev.out = s.dev.out ++ [.readAnswer 0 off 4 false []])
    ∧ (readOk off len = true → s.dev.bar0Dead = false → Does (.badAccess dt 0 off len false parity) s fun t =>
        Output.readAnswer 0 off 0 parity ((List.range (len / 4)).map fun i => ((s.now dt).readReg (off + 4 * i)).1) ∈ t.dev.out.drop s.dev.out.length
        ∧ (parity = true → Tells (s.now dt) t 0xC004 [2, off])))
  ∧ (∀ (s : State) (dt off len : Nat) (parity : Bool), s.dev.mode ≠ .off → off < 0x10000 → readOk off len = true →
    Leaves (.badAccess dt 1 off len false parity) s (s.now dt) fun t =>
      t.dev.out = s.dev.out ++ [.readAnswer 1 off 0 false ((List.range (len / 4)).map fun i => s.dev.bar2Word (off + 4 * i))])
  ∧ (∀ (s : State) (dt space off w : Nat) (parity : Bool), s.dev.mode ≠ .off → 2 ≤ space → off % 4 = 0 → off < 4096 →
    (s.dev.svc.configOk = false → Leaves (.badAccess dt space off 4 false parity) s (s.now dt) fun t =>
      t.dev.out = s.dev.out ++ [.readAnswer space off 2 false []])
    ∧ (s.dev.svc.configOk = true → s.dev.configWord space off = some w → Leaves (.badAccess dt space off 4 false parity) s (s.now dt) fun t =>
      t.dev.out = s.dev.out ++ [.readAnswer space off 0 false [w]]))

/-- In READY, RUN and HOLD a write of a register whose fields are LK or RO, at least one of them LK, changes no register and nothing else, and posts LOCKED_WRITE (0x0004) with the offset, the word and the state. -/
def Obligations.LockedWrites : Prop :=
  ∀ (s : State) (dt off v : Nat) (r : RegDesc), s.dev.mode.printing = true → s.dev.clk.asyncHold = false → off % 4 = 0 → off < 0x100000 →
      regAt off = some r → ownRow off = false → (r.fields.any fun f => f.acc == .lk) = true →
      (r.fields.all fun f => f.acc == .lk || f.acc == .ro) = true →
    Leaves (.registerWrite dt off v false) s (s.now dt) fun t => Tells (s.now dt) t 0x0004 [off, v % 2 ^ 32, s.dev.mode.code]

/-! ## Jobs -/

/-- An accepted JOB_OPEN that passes its checks adds a job in OPEN with the descriptor's fields and completes OK; while loads of the live job wait for its switch it waits instead. SPLICE_AT for a staged job at a repeat end ahead schedules a splice slot and completes OK. JOB_CLOSE of an OPEN job with nothing fetched ahead discards it and completes OK; of an ENDING job it waits for the end; of the live job it sets the last frame, where that frame has not been composed and is not printed. Some of it is the model's choice: log entry 31. -/
def Obligations.JobsOpenSpliceAndClose : Prop :=
  (∀ (s : State) (dt ring : Nat) (x : Desc), (s.now dt).accepts ring x 0x01 = true → s.dev.jobOpenCheck x = none →
      (s.dev.live?.isSome = false ∨ s.dev.twl.pending = 0) → (s.dev.duplexed && s.dev.duplex == .syncing) = false →
    Alters (.jobOpen dt ring x) s dt (fun d => { d with jobs := [], twl := Dev.reset.twl }) noRegs fun t =>
      Ends (s.now dt) t ring x 0 0 ∧ ∃ j, t.dev.jobs = s.dev.jobs ++ [j] ∧ j.tag = x.f 4 0 8 ∧ j.phase = .opened ∧ j.channels = x.f 4 8 3 + 1
        ∧ j.depth = x.f 4 12 2 ∧ j.recordRing = x.f 4 16 5 ∧ j.frameLines = x.w 5 ∧ j.gutterLines = x.w 6 ∧ j.frames = x.w 12
        ∧ j.endFrame = none ∧ j.nextRecord = 0)
  ∧ (∀ (s : State) (dt ring : Nat) (x : Desc), (s.now dt).accepts ring x 0x01 = true → s.dev.jobOpenCheck x = none →
      s.dev.live?.isSome = true → s.dev.twl.pending ≠ 0 →
    Leaves (.jobOpen dt ring x) s { s.now dt with twl := { s.dev.twl with waiting := s.dev.twl.waiting ++ [((s.now dt).ticketOf ring x, x)] } }
      fun t => t.dev.out = ((s.now dt).taken ring x).out)
  ∧ (∀ (s : State) (dt ring : Nat) (x : Desc) (j k : Job) (d : Dev), (s.now dt).accepts ring x 0x05 = true → s.dev.alone = true →
      s.dev.on Reg.REC_RPL_CFG.EN = false → s.dev.live? = some j → s.dev.job? (x.f 6 0 8) = some k → k.phase = .staged → j.endFrame = none →
      (s.dev.jobs.any fun o => o.spliceAt.isSome) = false →
      fieldOf 48 (((x.w 4 + 2 ^ 32 * x.f 5 0 16 : Nat) : Int) - (j.j0 : Int)) % (256 * j.repeat_) = 0 →
      fieldOf 48 (((x.w 4 + 2 ^ 32 * x.f 5 0 16 : Nat) : Int) - (j.j0 : Int)) / (256 * j.repeat_) ≠ 0 → j.frames = 0 → s.dev.dmk.front = none →
      s.dev.passed (x.w 4 + 2 ^ 32 * x.f 5 0 16) = false →
      (s.now dt).schedule 0 ⟨x.w 4 + 2 ^ 32 * x.f 5 0 16, .splice (x.f 6 0 8), .line⟩ = some d →
    Leaves (.spliceAt dt ring x) s (d.modJob (x.f 6 0 8) fun k => { k with spliceAt := some (x.w 4 + 2 ^ 32 * x.f 5 0 16) }) fun t =>
      Ends (s.now dt) t ring x 0 0)
  ∧ (∀ (s : State) (dt ring : Nat) (x : Desc) (j : Job), (s.now dt).accepts ring x 0x06 = true → s.dev.alone = true →
      s.dev.job? (x.f 4 0 8) = some j → j.phase = .opened → s.dev.linen.v ≠ 0 →
    Does (.jobClose dt ring x []) s fun t => t.dev.job? (x.f 4 0 8) = none ∧ Ends (s.now dt) t ring x 0 0 ∧ t.dev.mode = s.dev.mode
      ∧ (∀ g, g ≠ x.f 4 0 8 → t.dev.job? g = s.dev.job? g) ∧ t.dev.link = s.dev.link ∧ t.dev.recd.hists = s.dev.recd.hists)
  ∧ (∀ (s : State) (dt ring : Nat) (x : Desc) (j : Job), (s.now dt).accepts ring x 0x06 = true → s.dev.job? (x.f 4 0 8) = some j → j.phase = .ending →
    Leaves (.jobClose dt ring x []) s ((s.now dt).modJob (x.f 4 0 8) fun j => { j with closers := j.closers ++ [(s.now dt).ticketOf ring x] }) fun t =>
      t.dev.out = ((s.now dt).taken ring x).out)
  ∧ (∀ (s : State) (dt ring : Nat) (x : Desc) (j : Job), (s.now dt).accepts ring x 0x06 = true → s.dev.job? (x.f 4 0 8) = some j → j.phase = .live →
      s.dev.live? = some j → x.w 5 ≠ 0xFFFFFFFF → s.dev.dmk.front = none → j.frames = 0 → s.dev.passed (j.frameStart (x.w 5 + 1)) = false →
    Leaves (.jobClose dt ring x []) s ((s.now dt).modJob (x.f 4 0 8) fun j =>
      { j with endFrame := some (x.w 5), closers := j.closers ++ [(s.now dt).ticketOf ring x] }) fun t => t.dev.out = ((s.now dt).taken ring x).out)

/-- A CONTENT_PUT whose header walk passes adds its bytes to its stream and completes OK. JOB_STAGE of an OPEN job is taken and waits. With every WAIT met and every stream ended, staging begins: streams take the free contexts; a context whose decode comes to its END is free for the next. When every stream has decoded, the job is STAGED, its planes are in the tile store, its streams are gone and JOB_STAGE completes OK. A saved decode goes back to a free context with the history that its slot holds, counted and posted (0xB002). FLUSH_US after its first byte an open block of an image compressor closes. Some of it is the model's choice: log entries 40, 41, 44 and 125. -/
def Obligations.ContentIsStagedOnce : Prop :=
  (∀ (s : State) (dt ring : Nat) (x : Desc) (bytes : List Byte), (s.now dt).accepts ring x 0x20 = true → 16 ≤ x.len → x.len ≤ 16777216 →
      (s.dev.job? (x.f 4 0 8)).isSome = true → s.dev.bufferFits (x.f 4 0 8) (x.f 4 8 16) (bitOf (x.w 5) 0) = true → bytes.length = x.len →
      headerWalk (bytes.length / 16 + 1) (natBytes bytes) (bitOf (x.w 5) 1) = none →
      s.dev.csPages + cdiv x.len 65536 ≤ s.dev.get Reg.PIPE_DMK_CS_SIZE.MIB * 16 →
    Alters (.contentPut dt ring x (.data bytes)) s dt (fun d => { d with cal := Dev.reset.cal, ecc := Dev.reset.ecc }) (fun o => block 0xB o || block 0xC o)
      fun t => Ends (s.now dt) t ring x 0 0 ∧ ∃ st, t.dev.stream? (x.f 4 0 8) (x.f 4 8 16) = some st ∧ st.last = bitOf (x.w 5) 1
        ∧ st.bytes = ((s.dev.stream? (x.f 4 0 8) (x.f 4 8 16)).map Stream.bytes).getD [] ++ natBytes bytes)
  ∧ (∀ (s : State) (dt ring : Nat) (x : Desc) (j : Job), (s.now dt).accepts ring x 0x04 = true → [5, 6, 7, 8].all (fun i => x.w i == 0) = true →
      s.dev.job? (x.f 4 0 8) = some j → j.phase = .opened → (s.dev.cal.staging.any fun g => g.tag == x.f 4 0 8) = false →
    Leaves (.jobStage dt ring x) s { s.now dt with cal := { s.dev.cal with
      staging := s.dev.cal.staging ++ [⟨(s.now dt).ticketOf ring x, x.f 4 0 8, [0, 0, 0, 0], false, []⟩] } } fun t =>
      t.dev.out = ((s.now dt).taken ring x).out)
  ∧ (∀ (s : State) (dt tag : Nat) (ends : List Nat) (g : Staging), (s.dev.cal.staging.find? fun g => g.tag == tag) = some g → g.begun = false →
      s.dev.mode.served = true → g.waits.all (fun w => s.dev.waitMet w) = true → (s.dev.streamsOf tag).all (fun s => s.last) = true →
    Leaves (.stagingBegin dt tag ends) s ((s.now dt).modStaging tag fun h => { h with begun := true }).startDecodes fun t => t.dev.out = s.dev.out)
  ∧ (∀ (s : State) (dt tag c : Nat) (g : Staging) (x y : Dec), (s.dev.cal.staging.find? fun g => g.tag == tag) = some g → g.begun = true →
      s.dev.decodeHeld = false → s.dev.ctx c = .decode x → x.ident / 65536 = tag → s.dev.decodeOut x = .ok y →
    Leaves (.stagingBegin dt tag [c]) s
      (((({ s.now dt with ecc := { s.dev.ecc with once := s.dev.ecc.once.filter fun p => !calDatum x.ident p } } : Dev).countBlocks y).modStaging tag
        fun h => { h with done := h.done ++ [y.counted] }).freeCtx c) fun t => t.dev.out = s.dev.out)
  ∧ (∀ (s : State) (dt tag pick : Nat) (g : Staging) (j : Job) (rs : List (Nat × Staged)),
      (s.dev.cal.staging.find? fun g => g.tag == tag) = some g → g.begun = true → s.dev.decodeHeld = false →
      s.dev.alone = true → (s.dev.cal.saved.any fun v => v.dec.ident / 65536 == tag) = false →
      (s.dev.cal.saved != [] && s.dev.unstarted.any fun i => i / 65536 == tag) = false → s.dev.job? tag = some j →
      rs = (((s.dev.streamsOf tag).filter (·.last)).map fun z => (z.id, s.dev.stagedOf tag z.id (s.dev.decodeStream g (tag * 65536 + z.id)))) →
      s.dev.stageFailures tag rs = [] → (s.dev.twlOf j).lacks j.channels = none →
    Does (.jobStageComplete dt tag pick) s fun t => t.dev.mode = s.dev.mode ∧ (t.dev.job? tag).map (·.phase) = some .staged ∧ Closes (s.now dt) t g.ticket 0
      ∧ t.dev.dmk.planes = s.dev.dmk.planes ++ stagedPlanes rs
      ∧ t.dev.cal.streams = s.dev.cal.streams.filter (fun z => z.tag != tag) ∧ t.dev.cal.staging = s.dev.cal.staging.filter (fun h => h.tag != tag)
      ∧ t.dev.dmk.records = s.dev.dmk.records ∧ t.dev.pos = s.dev.pos ∧ t.dev.gz = s.dev.gz)
  ∧ (∀ (s : State) (dt c : Nat) (v : Saved) (rest : List Saved), s.dev.cal.saved = v :: rest → c < 16 → s.dev.cal.ctxs.length = 16 →
      s.dev.ctx c = .free → s.dev.decodeHeld = false → s.dev.isBad (s.dev.slotDatum v.slot) = false →
      recordOk (natBytes (memGet s.stored (s.dev.slotAddr v.slot + 0x10000) 256)) = true →
    ∃ t, exec (.contextRestore dt c) s = .next t ∧ t.mem = s.stored ∧ t.pending = s.pending
      ∧ t.dev.SameBut (fun d => { d with cal := { d.cal with saved := [], ctxs := [], stores := [] }, ecc := Dev.reset.ecc })
        (fun o => block 0xB o || block 0xC o) (s.now dt)
      ∧ t.dev.ctx c = .decode { v.dec with past := (natBytes (memGet s.stored (s.dev.slotAddr v.slot) v.dec.hist)).reverse } ∧ t.dev.cal.saved = rest
      ∧ t.dev.get Reg.PIPE_CAL_SAVES.RESTORES = min 65535 (s.dev.get Reg.PIPE_CAL_SAVES.RESTORES + 1)
      ∧ Tells (s.now dt) t 0xB002 [v.dec.ident, v.slot, 2, v.dec.total % 2 ^ 32, 0, c])
  ∧ (∀ (s : State) (dt dest : Nat) (c : Comp), s.dev.comp? dest = some c → dest ≠ capDest → c.block ≠ [] → c.ended = false →
      s.dev.get Reg.PIPE_CAL_CFG.FLUSH_US * 1000 ≤ (s.now dt).since c.firstAt →
      (s.dev.openBuf? (s.dev.get (Reg.CAM_CFG_n.IMG_RING dest))).isNone = true →
    Alters (.compressorFlush dt dest) s dt (fun d => { d with cal := { d.cal with comps := [] } }) (fun o => block 0xB o || block 0xD o) fun t =>
      ∃ c', t.dev.comp? dest = some c' ∧ c'.block = [] ∧ c'.seq = c.seq + 1 ∧ c'.ready.length = c.ready.length + 1 ∧ c'.total = c.total + c.block.length)

/-! ## Tables -/

/-- An accepted TABLE_LOAD whose data pass CRC and contents checks writes its kind of the bank that the job's loads change: tone-curve entries as loaded or, by knots, each knot's value at its place; a matrix; ramps; the kernel table; a level-to-drop table. Entries that the load does not name keep their values; a live job's load is pending. Nothing else changes, and the load completes OK. Some of it is the model's choice: log entry 50. -/
def Obligations.JobTablesAreLoaded : Prop :=
  ∀ (s : State) (dt ring : Nat) (x : Desc) (j : Job) (bytes : List Byte), s.dev.jobLoads x j = true →
    let hide : Dev → Dev := fun d => { d with twl := Dev.reset.twl, ecc := Dev.reset.ecc }
    let done (k : Nat) (t : State) : Prop := Ends (s.now dt) t ring x 0 0 ∧ (j.phase = .live → bitOf t.dev.twl.pending k = true)
    ((s.now dt).tableArrives ring x 2 bytes = true → tlInst x < j.channels → tlOfs x + x.len / 2 ≤ 4096 →
      Alters (.toneCurveLoad dt ring x (.data bytes) false) s dt hide (block 0xD) fun t => done 0 t ∧ ∀ i < 4096,
        (t.dev.loadBank j).curve (tlInst x) i = if tlOfs x ≤ i ∧ i < tlOfs x + x.len / 2 then leAt (natBytes bytes) (2 * (i - tlOfs x)) 2
          else (s.dev.loadBank j).curve (tlInst x) i)
    ∧ ((s.now dt).tableArrives ring x 2 bytes = true → tlInst x < j.channels → tlOfs x = 0x80000000 → 16 ≤ x.len → x.len ≤ 32768 →
        knotBad (natBytes bytes) = none →
      Alters (.toneCurveLoad dt ring x (.data bytes) false) s dt hide (block 0xD) fun t => done 0 t ∧ ∀ n < x.len / 8,
        (t.dev.loadBank j).curve (tlInst x) (leAt (natBytes bytes) (8 * n) 2) = leAt (natBytes bytes) (8 * n + 2) 2)
    ∧ (∀ m : Matrix, (s.now dt).tableArrives ring x 3 bytes = true → tlInst x < j.channels → tlOfs x = 0 → natBytes bytes = matrixBytes m →
        m.px < m.mw → m.py < m.mh → m.mw ≤ 256 → m.mh ≤ 256 → m.entries.length = m.mw * m.mh → (∀ e ∈ m.entries, e < 61440) →
      Alters (.thresholdMatrixLoad dt ring x (.data bytes)) s dt hide (block 0xD) fun t => done 1 t
        ∧ kvGet (t.dev.loadBank j).matrices (tlInst x) = some m)
    ∧ ((s.now dt).tableArrives ring x 4 bytes = true → tlInst x = 0 → x.len % 64 = 0 → tlOfs x + x.len / 64 ≤ 15 →
        ((List.range (x.len / 64)).all fun i => (rampBad j.levels (tlOfs x + i) (((natBytes bytes).drop (64 * i)).take 64)).isNone
          && leAt (natBytes bytes) (64 * i + 60) 4 == 0) = true →
      Alters (.thresholdRampsLoad dt ring x (.data bytes)) s dt hide (block 0xD) fun t => done 2 t ∧ ∀ i < x.len / 64, ∀ k < 15,
        (t.dev.loadBank j).ramp (tlOfs x + i) (k + 1) = (leAt (natBytes bytes) (64 * i + 4 * k) 2, leAt (natBytes bytes) (64 * i + 4 * k + 2) 2))
    ∧ ((s.now dt).tableArrives ring x 5 bytes = true → tlInst x = 0 → tlOfs x = 0 → x.len = 40 → kernelBad j.channels (natBytes bytes) = none →
        (j.phase = .live → ({ s.dev.loadBank j with kernel := natBytes bytes } : TwlBank).lacks j.channels = none) →
      Alters (.diffusionKernelLoad dt ring x (.data bytes)) s dt hide (block 0xD) fun t => done 3 t ∧ ∀ o < 40,
        (t.dev.loadBank j).kernelByte o = leAt (natBytes bytes) o 1)
    ∧ ((s.now dt).tableArrives ring x 6 bytes = true → tlInst x < j.channels → tlOfs x = 0 → x.len = 64 → levelsBad j.levels (natBytes bytes) = none →
      Alters (.levelToDropLoad dt ring x (.data bytes)) s dt hide (block 0xD) fun t => done 4 t ∧ ∀ k < 16,
        (t.dev.loadBank j).level j.levels (tlInst x) k = leAt (natBytes bytes) (4 * k) 2
          ∧ (t.dev.loadBank j).code (tlInst x) k = leAt (natBytes bytes) (4 * k + 2) 1)

/-- LAYOUT_LOAD for an OPEN job with data that pass CRC and contents checks keeps the layout under its number in place of an earlier one; GLYPH_SET_LOAD keeps the job's glyph set; RECORD_PUT with the next expected FRAME joins the record buffer and the job expects the frame after it. Nothing else changes, and each completes OK. -/
def Obligations.LayoutsGlyphsAndRecordsAreLoaded : Prop :=
  ∀ (s : State) (dt ring : Nat) (x : Desc) (j : Job) (bytes : List Byte),
    ((s.now dt).accepts ring x 0x02 = true → 64 ≤ x.len → x.len ≤ 1048576 → s.dev.job? (x.f 4 0 8) = some j → j.phase = .opened →
        bytes.length = x.len → crc32c (natBytes bytes) = x.w 5 → s.dev.layoutFault j (natBytes bytes) = none →
      Alters (.layoutLoad dt ring x (.data bytes)) s dt (fun d => { d with dmk := { d.dmk with layouts := [] }, ecc := Dev.reset.ecc }) (block 0xD) fun t =>
        Ends (s.now dt) t ring x 0 0 ∧ t.dev.layout? (x.f 4 0 8) (x.f 4 8 4) = some ⟨x.f 4 0 8, x.f 4 8 4, natBytes bytes⟩
          ∧ ∀ g n, (g, n) ≠ (x.f 4 0 8, x.f 4 8 4) → t.dev.layout? g n = s.dev.layout? g n)
    ∧ ((s.now dt).tableArrives ring x 0x0A bytes = true → s.dev.job? (tlTag x) = some j → j.phase = .opened → tlInst x = 0 → tlOfs x = 0 →
        glyphsBad (natBytes bytes) = none →
      Alters (.glyphSetLoad dt ring x (.data bytes)) s dt (fun d => { d with dmk := { d.dmk with glyphs := [] }, ecc := Dev.reset.ecc }) (block 0xD) fun t =>
        Ends (s.now dt) t ring x 0 0 ∧ t.dev.glyphs? (tlTag x) = some ⟨tlTag x, natBytes bytes⟩
          ∧ ∀ g, g ≠ tlTag x → t.dev.glyphs? g = s.dev.glyphs? g)
    ∧ (∀ lay : Layout, (s.now dt).accepts ring x 0x28 = true → s.dev.dmk.records.length < 2048 → s.dev.job? (x.f 4 0 8) = some j → j.phase ≠ .opened →
        s.dev.alone = true → 1 ≤ x.len → x.len ≤ 4096 → s.dev.layout? (x.f 4 0 8) (x.f 4 8 4) = some lay → x.w 5 = j.nextRecord →
        bytes.length = x.len → crc32c (natBytes bytes) = x.w 6 →
        recordBad j lay.bytes ((s.dev.glyphs? (x.f 4 0 8)).map (·.bytes)) (natBytes bytes) = none →
      Alters (.recordPut dt ring x (.data bytes)) s dt (fun d => { d with jobs := [], dmk := { d.dmk with records := [] } }) (block 0xD) fun t =>
        Ends (s.now dt) t ring x 0 0 ∧ t.dev.dmk.records = s.dev.dmk.records ++ [⟨x.f 4 0 8, j.nextRecord, x.f 4 8 4, natBytes bytes⟩]
          ∧ t.dev.job? (x.f 4 0 8) = some { j with nextRecord := (j.nextRecord + 1) % 2 ^ 32 }
          ∧ ∀ g, g ≠ x.f 4 0 8 → t.dev.job? g = s.dev.job? g)

/-- With a job live, a nozzle table, stitch set or alignment set that passes its checks fills its part of the inactive bank and is pending for the next frame; NOZZLE_SET changes one entry of that bank; a policy table, and a register named by a PARAM, wait for the switch. A cam table not in use is kept at once. Nothing else changes, and each completes OK. Some of it is the model's choice: log entries 28 and 55. -/
def Obligations.DeviceTablesAreLoaded : Prop :=
  ∀ (s : State) (dt ring : Nat) (x : Desc) (bytes : List Byte), s.dev.live?.isSome = true →
    let hide : Dev → Dev := fun d => { d with gz := Dev.reset.gz, ecc := Dev.reset.ecc }
    ((s.now dt).tableArrives ring x 1 bytes = true → tlTag x = 0 → tlInst x = 0 → tlOfs x + x.len / 8 ≤ 264192 →
        s.dev.nozzlesBad ((List.range (x.len / 8)).foldl (fun (b : GzBank) i => b.setEntry (tlOfs x + i) (leAt (natBytes bytes) (8 * i) 8))
          (s.dev.gzIdle 0)).nozzles s.dev.nextStitches.stitches = none →
      Alters (.nozzleTableLoad dt ring x (.data bytes)) s dt hide (block 0xD) fun t => Ends (s.now dt) t ring x 0 0 ∧ bitOf t.dev.gz.pending 0 = true
        ∧ ∀ i, (t.dev.gzIdle 0).entry i = if tlOfs x ≤ i ∧ i < tlOfs x + x.len / 8 then leAt (natBytes bytes) (8 * (i - tlOfs x)) 8
            else (s.dev.gzIdle 0).entry i)
    ∧ ((s.now dt).tableArrives ring x 7 bytes = true → tlTag x = 0 → tlInst x < 16 → tlOfs x = 0 → x.len = 576 →
        s.dev.stitchBad (tlInst x) (natBytes bytes) (s.dev.gzIdle 1).stitches = none →
        s.dev.nozzlesBad s.dev.nextNozzles.nozzles (kvPut (s.dev.gzIdle 1).stitches (tlInst x) (stitchOf (natBytes bytes))) = none →
      Alters (.stitchSetLoad dt ring x (.data bytes)) s dt hide (block 0xD) fun t => Ends (s.now dt) t ring x 0 0 ∧ bitOf t.dev.gz.pending 1 = true
        ∧ kvGet (t.dev.gzIdle 1).stitches (tlInst x) = some (stitchOf (natBytes bytes))
        ∧ ∀ n, n ≠ tlInst x → kvGet (t.dev.gzIdle 1).stitches n = kvGet (s.dev.gzIdle 1).stitches n)
    ∧ ((s.now dt).tableArrives ring x 11 bytes = true → tlTag x = 0 → tlInst x = 0 → tlOfs x = 0 → x.len = 512 →
        ((List.range 64).all fun n => alignRange (signedOf 32 (leAt (natBytes bytes) (8 * n) 4)) (signedOf 16 (leAt (natBytes bytes) (8 * n + 4) 2))
          && leAt (natBytes bytes) (8 * n + 6) 2 == 0) = true →
      Alters (.alignmentSetLoad dt ring x (.data bytes)) s dt hide (block 0xD) fun t => Ends (s.now dt) t ring x 0 0 ∧ bitOf t.dev.gz.pending 2 = true
        ∧ ∀ n < 64, (kvGet (t.dev.gzIdle 2).align n).getD (0, 0)
            = (signedOf 32 (leAt (natBytes bytes) (8 * n) 4), signedOf 16 (leAt (natBytes bytes) (8 * n + 4) 2)))
    ∧ ((s.now dt).tableArrives ring x 9 bytes = true → tlTag x = 0 → 0x20 ≤ tlInst x → tlInst x ≤ 0x23 → tlOfs x = 0 → x.len = 64 →
        policyBad (tlInst x) (natBytes bytes) = none →
      Alters (.policyTableLoad dt ring x (.data bytes)) s dt hide (block 0xD) fun t => Ends (s.now dt) t ring x 0 0
        ∧ kvGet t.dev.gz.policyNext (tlInst x) = some (natBytes bytes) ∧ t.dev.gz.policy = s.dev.gz.policy ∧ t.dev.gz.bank0 = s.dev.gz.bank0)
    ∧ ((s.now dt).acceptsParam ring x 0xB3F0 readyRunHold true = true → valueExtra x [0x7FFFF, 0x7FF, 0x1FFFF, 0] = none →
        s.dev.entryUsed s.dev.nextStitches.stitches (x.w 6) = true → (bitOf (x.w 7) 9 = true → bitOf (x.w 7) 4 = true ∧ bitOf (x.w 7) 3 = true) →
      Alters (.nozzleSet dt ring x) s dt hide noRegs fun t => Ends (s.now dt) t ring x 0 0 ∧ bitOf t.dev.gz.pending 0 = true
        ∧ (t.dev.gzIdle 0).entry (x.w 6)
            = Sys2Proof.Machine.nozzleSet (s.dev.get Reg.PIPE_GZ_DECIDE.WEAK_ADD) ((s.dev.gzIdle 0).entry (x.w 6)) (x.w 7) (x.w 8)
        ∧ ∀ i, i ≠ x.w 6 → (t.dev.gzIdle 0).entry i = (s.dev.gzIdle 0).entry i)
    ∧ ([0xB308, 0xB30C, 0xB310, 0xB314, 0xB318].any (fun id => (s.now dt).acceptsParam ring x id allServed false
          && (valueExtra x [0xFFFFFFFF, 0, 0, 0]).isNone && gzRegOk (0xB0000 + id % 4096) (x.w 6)) = true →
      Leaves (.gauzeRegisterParam dt ring x) s { s.now dt with gz := { s.dev.gz with regs := kvPut s.dev.gz.regs (0xB0000 + paramId x % 4096) (x.w 6) } }
        fun t => Ends (s.now dt) t ring x 0 0)
    ∧ ((s.now dt).acceptsParam ring x 0xA080 allServed false = true → valueExtra x [0xFFFFFFFF, 0, 0, 0] = none → gzRegOk 0xA0080 (x.w 6) = true →
      Leaves (.camAnalysisParam dt ring x) s { s.now dt with gz := { s.dev.gz with regs := kvPut s.dev.gz.regs 0xA0080 (x.w 6) } }
        fun t => Ends (s.now dt) t ring x 0 0)
    ∧ (∀ c : CamTable, (s.now dt).tableArrives ring x 8 bytes = true → tlTag x = 0 → tlInst x < 16 → tlOfs x = 0 → x.len = 16 + 8 * c.ys.length →
        x.len ≤ 524304 → s.dev.camInUse (tlInst x) = false → natBytes bytes = camTableBytes c → camBad (natBytes bytes) = false → c.iv < 2 ^ 32 →
        (∀ y ∈ c.ys, -(2 ^ 63) ≤ y ∧ y < 2 ^ 63) →
      Alters (.camTableLoad dt ring x (.data bytes)) s dt (fun d => { d with linen := { d.linen with cams := [] } }) (block 0xD) fun t =>
        Ends (s.now dt) t ring x 0 0 ∧ kvGet t.dev.linen.cams (tlInst x) = some c
          ∧ ∀ n, n ≠ tlInst x → kvGet t.dev.linen.cams n = kvGet s.dev.linen.cams n)

/-- Whatever job is open, staged or live, an accepted TABLE_LOAD of each KIND whose fields, CRC and contents pass their checks answers a next state, completes OK, and leaves device memory and the queue as they were; so do NOZZLE_SET and the PARAMs of R237. With no job live nothing stays pending: the stitch or alignment set is in force at once, a policy table at its owner, a register at its value; a cam table is kept. A port whose clock is lost, or whose time-out of bring-up, relock, DONE or wake has come, is DOWN; each monitor command that reads answers and ends with OK; EXTEST, CLAMP and HIGHZ are loaded, on a working device in SAFE. -/
def Obligations.LoadsTimeOutsAndMonitorCommandsComplete : Prop :=
  (∀ (s : State) (dt ring : Nat) (x : Desc) (bytes : List Byte), (s.now dt).tableArrives ring x 1 bytes = true → tlTag x = 0 → tlInst x = 0 →
      tlOfs x + x.len / 8 ≤ 264192 →
      s.dev.nozzlesBad ((List.range (x.len / 8)).foldl (fun (b : GzBank) i => b.setEntry (tlOfs x + i) (leAt (natBytes bytes) (8 * i) 8))
        (s.dev.gzIdle 0)).nozzles s.dev.nextStitches.stitches = none →
    ∃ t, exec (.nozzleTableLoad dt ring x (.data bytes)) s = .next t ∧ t.mem = s.mem ∧ t.pending = s.pending ∧ Ends (s.now dt) t ring x 0 0
      ∧ (s.dev.live? = none → t.dev.gz.pending = 0))
  ∧ (∀ (s : State) (dt ring : Nat) (x : Desc) (j : Job) (bytes : List Byte) (residue : Bool), s.dev.jobLoads x j = true →
      (s.now dt).tableArrives ring x 2 bytes = true → tlInst x < j.channels →
      tlOfs x + x.len / 2 ≤ 4096 ∨ residue = false ∧ tlOfs x = 0x80000000 ∧ 16 ≤ x.len ∧ x.len ≤ 32768 ∧ knotBad (natBytes bytes) = none →
    ∃ t, exec (.toneCurveLoad dt ring x (.data bytes) residue) s = .next t ∧ t.mem = s.mem ∧ t.pending = s.pending ∧ Ends (s.now dt) t ring x 0 0)
  ∧ (∀ (s : State) (dt ring : Nat) (x : Desc) (j : Job) (bytes : List Byte) (m : Matrix), s.dev.jobLoads x j = true →
      (s.now dt).tableArrives ring x 3 bytes = true → tlInst x < j.channels → tlOfs x = 0 → natBytes bytes = matrixBytes m →
      m.px < m.mw → m.py < m.mh → m.mw ≤ 256 → m.mh ≤ 256 → m.entries.length = m.mw * m.mh → (∀ e ∈ m.entries, e < 61440) →
    ∃ t, exec (.thresholdMatrixLoad dt ring x (.data bytes)) s = .next t ∧ t.mem = s.mem ∧ t.pending = s.pending ∧ Ends (s.now dt) t ring x 0 0)
  ∧ (∀ (s : State) (dt ring : Nat) (x : Desc) (j : Job) (bytes : List Byte), s.dev.jobLoads x j = true →
      (s.now dt).tableArrives ring x 4 bytes = true → tlInst x = 0 → x.len % 64 = 0 → tlOfs x + x.len / 64 ≤ 15 →
      ((List.range (x.len / 64)).all fun i => (rampBad j.levels (tlOfs x + i) (((natBytes bytes).drop (64 * i)).take 64)).isNone
        && leAt (natBytes bytes) (64 * i + 60) 4 == 0) = true →
    ∃ t, exec (.thresholdRampsLoad dt ring x (.data bytes)) s = .next t ∧ t.mem = s.mem ∧ t.pending = s.pending ∧ Ends (s.now dt) t ring x 0 0)
  ∧ (∀ (s : State) (dt ring : Nat) (x : Desc) (j : Job) (bytes : List Byte), s.dev.jobLoads x j = true →
      (s.now dt).tableArrives ring x 5 bytes = true → tlInst x = 0 → tlOfs x = 0 → x.len = 40 → kernelBad j.channels (natBytes bytes) = none →
      (j.phase = .live → ({ s.dev.loadBank j with kernel := natBytes bytes } : TwlBank).lacks j.channels = none) →
    ∃ t, exec (.diffusionKernelLoad dt ring x (.data bytes)) s = .next t ∧ t.mem = s.mem ∧ t.pending = s.pending ∧ Ends (s.now dt) t ring x 0 0)
  ∧ (∀ (s : State) (dt ring : Nat) (x : Desc) (j : Job) (bytes : List Byte), s.dev.jobLoads x j = true →
      (s.now dt).tableArrives ring x 6 bytes = true → tlInst x < j.channels → tlOfs x = 0 → x.len = 64 → levelsBad j.levels (natBytes bytes) = none →
    ∃ t, exec (.levelToDropLoad dt ring x (.data bytes)) s = .next t ∧ t.mem = s.mem ∧ t.pending = s.pending ∧ Ends (s.now dt) t ring x 0 0)
  ∧ (∀ (s : State) (dt ring : Nat) (x : Desc) (bytes : List Byte), (s.now dt).tableArrives ring x 7 bytes = true → tlTag x = 0 → tlInst x < 16 →
      tlOfs x = 0 → x.len = 576 → s.dev.stitchBad (tlInst x) (natBytes bytes) (s.dev.gzIdle 1).stitches = none →
      s.dev.nozzlesBad s.dev.nextNozzles.nozzles (kvPut (s.dev.gzIdle 1).stitches (tlInst x) (stitchOf (natBytes bytes))) = none →
    ∃ t, exec (.stitchSetLoad dt ring x (.data bytes)) s = .next t ∧ t.mem = s.mem ∧ t.pending = s.pending ∧ Ends (s.now dt) t ring x 0 0
      ∧ (s.dev.live? = none → t.dev.gz.pending = 0 ∧ kvGet (t.dev.gzBank 1).stitches (tlInst x) = some (stitchOf (natBytes bytes))))
  ∧ (∀ (s : State) (dt ring : Nat) (x : Desc) (bytes : List Byte) (c : CamTable), (s.now dt).tableArrives ring x 8 bytes = true → tlTag x = 0 →
      tlInst x < 16 → tlOfs x = 0 → x.len = 16 + 8 * c.ys.length → x.len ≤ 524304 → s.dev.camInUse (tlInst x) = false →
      natBytes bytes = camTableBytes c → camBad (natBytes bytes) = false → c.iv < 2 ^ 32 → (∀ y ∈ c.ys, -(2 ^ 63) ≤ y ∧ y < 2 ^ 63) →
    ∃ t, exec (.camTableLoad dt ring x (.data bytes)) s = .next t ∧ t.mem = s.mem ∧ t.pending = s.pending ∧ Ends (s.now dt) t ring x 0 0
      ∧ kvGet t.dev.linen.cams (tlInst x) = some c)
  ∧ (∀ (s : State) (dt ring : Nat) (x : Desc) (bytes : List Byte), (s.now dt).tableArrives ring x 9 bytes = true → tlTag x = 0 → 0x20 ≤ tlInst x →
      tlInst x ≤ 0x23 → tlOfs x = 0 → x.len = 64 → policyBad (tlInst x) (natBytes bytes) = none →
    ∃ t, exec (.policyTableLoad dt ring x (.data bytes)) s = .next t ∧ t.mem = s.mem ∧ t.pending = s.pending ∧ Ends (s.now dt) t ring x 0 0
      ∧ (s.dev.live? = none → s.dev.gz.policyNext = [] → (if tlInst x = 0x20 then t.dev.gz.policy else if tlInst x = 0x21 then t.dev.link.policy
          else if tlInst x = 0x22 then t.dev.linen.policy else t.dev.sense.policy) = natBytes bytes))
  ∧ (∀ (s : State) (dt ring : Nat) (x : Desc) (bytes : List Byte), (s.now dt).tableArrives ring x 11 bytes = true → tlTag x = 0 → tlInst x = 0 →
      tlOfs x = 0 → x.len = 512 → ((List.range 64).all fun n => alignRange (signedOf 32 (leAt (natBytes bytes) (8 * n) 4))
        (signedOf 16 (leAt (natBytes bytes) (8 * n + 4) 2)) && leAt (natBytes bytes) (8 * n + 6) 2 == 0) = true →
    ∃ t, exec (.alignmentSetLoad dt ring x (.data bytes)) s = .next t ∧ t.mem = s.mem ∧ t.pending = s.pending ∧ Ends (s.now dt) t ring x 0 0
      ∧ (s.dev.live? = none → t.dev.gz.pending = 0 ∧ ∀ n < 64, (kvGet (t.dev.gzBank 2).align n).getD (0, 0)
          = (signedOf 32 (leAt (natBytes bytes) (8 * n) 4), signedOf 16 (leAt (natBytes bytes) (8 * n + 4) 2))))
  ∧ (∀ (s : State) (dt ring : Nat) (x : Desc), (s.now dt).acceptsParam ring x 0xB3F0 readyRunHold true = true →
      valueExtra x [0x7FFFF, 0x7FF, 0x1FFFF, 0] = none → s.dev.entryUsed s.dev.nextStitches.stitches (x.w 6) = true →
      (bitOf (x.w 7) 9 = true → bitOf (x.w 7) 4 = true ∧ bitOf (x.w 7) 3 = true) →
    ∃ t, exec (.nozzleSet dt ring x) s = .next t ∧ t.mem = s.mem ∧ t.pending = s.pending ∧ Ends (s.now dt) t ring x 0 0
      ∧ (s.dev.live? = none → t.dev.gz.pending = 0))
  ∧ (∀ (s : State) (dt ring id : Nat) (x : Desc), id ∈ [0xB308, 0xB30C, 0xB310, 0xB314, 0xB318] → (s.now dt).acceptsParam ring x id allServed false = true →
      valueExtra x [0xFFFFFFFF, 0, 0, 0] = none → gzRegOk (id + 0xA8000) (x.w 6) = true →
    ∃ t, exec (.gauzeRegisterParam dt ring x) s = .next t ∧ t.mem = s.mem ∧ t.pending = s.pending ∧ Ends (s.now dt) t ring x 0 0
      ∧ (s.dev.live? = none → t.dev.gz.regs = [])
      ∧ (s.dev.live? = none → s.dev.gz.regs = [] → id = 0xB310 → t.dev.get Reg.PIPE_GZ_DEGRADE.MAX_FAIL = x.w 6))
  ∧ (∀ (s : State) (dt ring : Nat) (x : Desc), (s.now dt).acceptsParam ring x 0xA080 allServed false = true →
      valueExtra x [0xFFFFFFFF, 0, 0, 0] = none → gzRegOk 0xA0080 (x.w 6) = true →
    ∃ t, exec (.camAnalysisParam dt ring x) s = .next t ∧ t.mem = s.mem ∧ t.pending = s.pending ∧ Ends (s.now dt) t ring x 0 0
      ∧ (s.dev.live? = none → s.dev.gz.regs = [] → t.dev.get Reg.CAM_ANALYSIS.BAD_PCT = x.f 6 0 8 ∧ t.dev.get Reg.CAM_ANALYSIS.WEAK_PCT = x.f 6 8 8
          ∧ t.dev.get Reg.CAM_ANALYSIS.DEV_MAX = x.f 6 16 8))
  ∧ (∀ (s : State) (dt p : Nat), s.dev.laneLive p = true → (s.dev.lk p).queue = [] → s.dev.on (Reg.LANE_PORT_STAT_p.RX_IDLE p) = false →
      2 ≤ s.dev.stage p → s.dev.stage p ≠ 9 → s.dev.stage p ≠ 5 → s.dev.on (Reg.LANE_PORT_CFG_p.MODE p) = false → (s.dev.port p).idle = none →
    ∃ t, exec (.rxClockLoss dt p) s = .next t ∧ t.mem = s.mem ∧ t.pending = s.pending ∧ t.dev.stage p = 9
      ∧ t.dev.get (Reg.LANE_PORT_STAT_p.FAULT p) = 1)
  ∧ (∀ (s : State) (dt p tmo fault : Nat), s.dev.laneLive p = true → (s.dev.lk p).queue = [] → stageTimeout (s.dev.stage p) = some (tmo, fault) →
      (s.dev.port p).relock = false → (s.dev.port p).idle = none → tmo ≤ (s.now dt).since (s.dev.port p).stageAt →
    ∃ t, exec (.bringupTimeout dt p) s = .next t ∧ t.mem = s.mem ∧ t.pending = s.pending ∧ t.dev.stage p = 9
      ∧ t.dev.get (Reg.LANE_PORT_STAT_p.FAULT p) = fault % 16)
  ∧ (∀ (s : State) (dt p : Nat), s.dev.laneLive p = true → (s.dev.lk p).queue = [] → s.dev.stage p = 7 → 100000 ≤ (s.now dt).since (s.dev.port p).stageAt →
    ∃ t, exec (.relockTimeout dt p) s = .next t ∧ t.mem = s.mem ∧ t.pending = s.pending ∧ t.dev.stage p = 9)
  ∧ (∀ (s : State) (dt p w : Nat), s.dev.laneLive p = true → (s.dev.lk p).queue = [] → s.dev.stage p = 6 → (s.dev.port p).wakeAt = some w →
      s.dev.allLocked p = false → 20000 ≤ (s.now dt).since w →
    ∃ t, exec (.wakeTimeout dt p) s = .next t ∧ t.mem = s.mem ∧ t.pending = s.pending ∧ t.dev.stage p = 9 ∧ t.dev.get (Reg.LANE_PORT_STAT_p.FAULT p) = 8)
  ∧ (∀ (s : State) (dt p : Nat), s.dev.laneLive p = true → (s.dev.lk p).queue = [] → s.dev.stage p = 5 → (s.dev.port p).relock = true →
      (s.dev.port p).idle = none → 1000000 ≤ (s.now dt).since (s.dev.port p).stageAt → (s.dev.port p).fallback = true →
    ∃ t, exec (.doneTimeout dt p) s = .next t ∧ t.mem = s.mem ∧ t.pending = s.pending ∧ t.dev.stage p = 9 ∧ t.dev.get (Reg.LANE_PORT_STAT_p.FAULT p) = 7)
  ∧ (∀ (s : State) (dt m : Nat), let ok (t : State) : Prop := t.mem = s.mem ∧ t.pending = s.pending ∧ (t.dev.session m).lastAt = (s.now dt).tb
        ∧ (m = 0 → t.dev.out.getLast? = some (.monitor .ok))
        ∧ (m = 1 → (Config.monitorText .ok).map (· % 256) <:+ t.dev.svc.outq)
      let asked (name : String) : Prop := s.dev.monAlive m = true ∧ (m = 0 ∨ m = 1 ∧ (s.dev.mailTake name []).isSome = true)
      (asked "help" → ∃ t, exec (.monHelp dt m []) s = .next t ∧ ok t)
      ∧ (asked "ver" → ∃ t, exec (.monVer dt m []) s = .next t ∧ ok t)
      ∧ (asked "state" → ∃ t, exec (.monState dt m []) s = .next t ∧ ok t)
      ∧ (asked "st" → ∃ t, exec (.monSt dt m []) s = .next t ∧ ok t)
      ∧ (asked "temp" → ∃ t, exec (.monTemp dt m []) s = .next t ∧ ok t)
      ∧ (asked "lane" → ∃ t, exec (.monLane dt m []) s = .next t ∧ ok t)
      ∧ (asked "mem" → ∃ t, exec (.monMem dt m []) s = .next t ∧ ok t))
  ∧ (∀ (s : State) (dt : Nat), s.dev.mode ≠ .off →
      (∃ t, exec (.tapExtest dt) s = .next t ∧ t.mem = s.mem ∧ t.pending = s.pending ∧ t.dev.svc.tap = .extest
        ∧ (s.dev.mode.served = true → t.dev.mode = .safe))
      ∧ (∃ t, exec (.tapClamp dt) s = .next t ∧ t.mem = s.mem ∧ t.pending = s.pending ∧ t.dev.svc.tap = .clamp
        ∧ (s.dev.mode.served = true → t.dev.mode = .safe))
      ∧ (∃ t, exec (.tapHighz dt) s = .next t ∧ t.mem = s.mem ∧ t.pending = s.pending ∧ t.dev.svc.tap = .highz
        ∧ (s.dev.mode.served = true → t.dev.mode = .safe)))

/-! ## The recorder, capture and replay -/

/-- An accepted REC_MARK completes OK and the newest record is a MARK with the four VALUE words. FIRST_AREA_CLEAR empties the first area and opens it, and keeps the last area. HISTOGRAM_CLEAR empties every histogram. A latency sample of a crossing, and the corrected bits of a block since its last sample (once its interval has passed), join their histogram's bin, minimum, maximum and count. Some of it is the model's choice: log entry 116. -/
def Obligations.RecorderCommands : Prop :=
  (∀ (s : State) (dt ring : Nat) (x : Desc), (s.now dt).acceptsParam ring x 0xE001 allServed true = true →
    Leaves (.recMark dt ring x) s (s.now dt) fun t => Ends (s.now dt) t ring x 0 0
      ∧ (s.dev.svc.filled = true → s.dev.on Reg.REC_STAT.FIRST_FULL = true → s.dev.get Reg.REC_LAST_HEAD.HEAD + 24 ≤ 0x100000 →
        ∃ r, t.dev.recd.newest.head? = some r ∧ r.head? = some 5 ∧ r.drop 8 = [6, 7, 8, 9].flatMap fun i => leBytes 4 (x.w i)))
  ∧ (∀ (s : State) (dt : Nat), s.dev.mode.served = true ∨ s.dev.mode = .safe →
    Leaves (.firstAreaClear dt) s (s.now dt) (fun t => t.dev.get Reg.REC_FIRST_HEAD.HEAD = 0 ∧ t.dev.get Reg.REC_STAT.FIRST_FULL = 0
      ∧ t.dev.get Reg.REC_STAT.FIRST_HELD = 0 ∧ t.dev.recd.mem = s.dev.recd.mem.filter fun p => decide (0x8000 ≤ p.1))
    ∧ Leaves (.histogramClear dt) s ({ s.now dt with recd := { s.dev.recd with hists := [] } }.put Reg.REC_STAT.HIST_HELD 0) fun t => t.dev.out = s.dev.out)
  ∧ (∀ (s : State) (dt h v : Nat), s.dev.mode ≠ .off → 5472 ≤ h → h < 5488 →
    Does (.histogramSample dt h v) s fun t => t.dev.SameBut (fun d => { d with recd := { d.recd with hists := [] } }) (block 0xE) (s.now dt)
      ∧ t.dev.get Reg.REC_STAT.HIST_HELD = 1
      ∧ kvGet t.dev.recd.hists h = some (let o := (kvGet s.dev.recd.hists h).getD Hist.empty
          ⟨modAt o.bins (min 15 (v / 8)) (fun n => min 0xFFFFFFFF (n + 1)), min o.min v, max o.max v, min 0xFFFFFFFF (o.count + 1)⟩)
      ∧ ∀ g, g ≠ h → kvGet t.dev.recd.hists g = kvGet s.dev.recd.hists g)
  ∧ (∀ (s : State) (dt h v n : Nat), s.dev.mode ≠ .off → h < 5120 → kvGet s.dev.ecc.ceCount h = some n →
      s.dev.cePeriod ≤ (s.now dt).since ((kvGet s.dev.recd.histAt h).getD 0) →
    Does (.histogramSample dt h v) s fun t => kvGet t.dev.ecc.ceCount h = none
      ∧ t.dev.SameBut (fun d => { d with recd := { d.recd with hists := [], histAt := [] }, ecc := { d.ecc with ceCount := [] } }) (block 0xE) (s.now dt)
      ∧ kvGet t.dev.recd.hists h = some (let o := (kvGet s.dev.recd.hists h).getD Hist.empty
          ⟨modAt o.bins (min 15 (ceBin n)) (fun n => min 0xFFFFFFFF (n + 1)), min o.min n, max o.max n, min 0xFFFFFFFF (o.count + 1)⟩))

/-- An accepted CAPTURE_ON arms a capture while a job is live, whose compressor holds a context from then on (15, unless another compressor has it), and starts it at once, completing OK, with none. CAPTURE_OFF puts END into the buffer, takes no more records and completes once END is out. An empty CAPTURE_BUF or IMAGE_BUF waits to be filled. DESC_MS after its first byte a partly filled capture descriptor completes with its count of bytes, or closes until its writes have their responses. An accepted REPLAY_GO in replay mode enters RUN with a replay that waits for its stream. Some of it is the model's choice: log entries 117 and 118. -/
def Obligations.CaptureStartsAndEnds : Prop :=
  (∀ (s : State) (dt ring : Nat) (x : Desc), (s.now dt).accepts ring x 0x0D = true → s.dev.recd.cap = .idle → s.dev.on Reg.REC_RPL_CFG.EN = false →
      s.dev.on (Reg.HOST_RING_CFG_n.EN (x.f 5 0 5)) = true → s.dev.get (Reg.HOST_RING_CFG_n.KIND (x.f 5 0 5)) = 4 →
    (s.dev.live?.isSome = true → Alters (.captureOn dt ring x) s dt
        (fun d => { d with recd := Dev.reset.recd, cal := Dev.reset.cal, ecc := Dev.reset.ecc }) (fun o => block 0xB o || block 0xC o || block 0xE o)
        fun t => t.dev.recd.cap = .armed ∧ t.dev.recd.capOn = some ((s.now dt).ticketOf ring x) ∧ t.dev.recd.noLineCrc = bitOf (x.w 4) 1
          ∧ t.dev.recd.capRing = x.f 5 0 5 ∧ t.dev.recd.hists = s.dev.recd.hists ∧ t.dev.get Reg.REC_CAP_STAT.STRICT = x.f 4 0 1
          ∧ (∃ c ∈ t.dev.cal.comps, c.dest = capDest ∧ c.ident = 0x80000000 + s.dev.recd.capCount % 2 ^ 24)
          ∧ (s.dev.cal.ctxs.length = 16 → (∀ i, s.dev.ctx 15 ≠ .compress i) → t.dev.ctx 15 = .compress (0x80000000 + s.dev.recd.capCount % 2 ^ 24)))
    ∧ (s.dev.live? = none → s.dev.comp? capDest = none → Does (.captureOn dt ring x) s fun t => t.dev.recd.cap = .running
        ∧ t.dev.get Reg.REC_CAP_STAT.RUNNING = 1 ∧ t.dev.get Reg.REC_CAP_STAT.COUNT = s.dev.recd.capCount % 2 ^ 24 ∧ t.dev.recd.capOn = none
        ∧ Ends (s.now dt) t ring x 0 0
        ∧ t.dev.mode = s.dev.mode ∧ t.dev.jobs = s.dev.jobs ∧ t.dev.gz = s.dev.gz ∧ t.dev.twl = s.dev.twl))
  ∧ (∀ (s : State) (dt ring : Nat) (x : Desc) (c : Comp), (s.now dt).accepts ring x 0x0E = true → s.dev.recd.cap = .running →
      s.dev.comp? capDest = some c → c.ready ≠ [] → (s.dev.openBuf? s.dev.recd.capRing).isNone = true →
    Alters (.captureOff dt ring x) s dt (fun d => { d with recd := Dev.reset.recd, cal := { d.cal with comps := [] } }) (block 0xE) fun t =>
      t.dev.recd.cap = .ending ∧ t.dev.recd.capOff = some ((s.now dt).ticketOf ring x) ∧ t.dev.recd.endReason = 0
      ∧ t.dev.get Reg.REC_CAP_STAT.RUNNING = 0 ∧ (∃ r, t.dev.recd.capBuf.getLast? = some r ∧ recType r = 16) ∧ t.dev.recd.hists = s.dev.recd.hists)
  ∧ (∀ (s : State) (dt ring : Nat) (x : Desc) (data : Fetch), s.dev.on Reg.REC_RPL_CFG.EN = false → (s.now dt).bufArrives ring x 4 0x48 = true →
      s.dev.comp? capDest = none →
    Leaves (.captureBuf dt ring x data) s ((s.now dt).addOpen ⟨ring, s.dev.get (Reg.HOST_RING_CONS_n.CONS ring), 0x48, x.addr, x.len, 0, false, 0, x.irq, none⟩)
      fun t => t.dev.out = ((s.now dt).taking ring x.fence).out)
  ∧ (∀ (s : State) (dt ring : Nat) (x : Desc), (s.now dt).bufArrives ring x 5 0x50 = true → s.dev.comp? 0 = none → s.dev.comp? 1 = none →
    Leaves (.imageBuf dt ring x) s ((s.now dt).addOpen ⟨ring, s.dev.get (Reg.HOST_RING_CONS_n.CONS ring), 0x50, x.addr, x.len, 0, false, 0, x.irq, none⟩)
      fun t => t.dev.out = ((s.now dt).taking ring x.fence).out)
  ∧ (∀ (s : State) (dt : Nat) (b : OpenBuf) (c : Comp), (s.dev.cal.open_.filter fun b => b.ring == s.dev.recd.capRing) = [b] → s.dev.recd.capRing < 32 →
      s.dev.comp? capDest = some c → b.filled ≠ 0 → b.poison = false → s.dev.get Reg.REC_CFG.DESC_MS * 1000000 ≤ (s.now dt).since b.firstAt →
      s.dev.recd.cap = .running → s.dev.recd.capBuf = [] → c.ready = [] → c.ended = false → b.closed = none → s.dev.bufWritten b = true →
    Leaves (.captureDescTimeout dt) s { s.now dt with cal := { s.dev.cal with open_ := s.dev.cal.open_.filter fun b => b.ring != s.dev.recd.capRing } } fun t =>
      ∃ stamp, Output.completion s.dev.recd.capRing b.idx b.op (s.dev.ringSt s.dev.recd.capRing).done 0 0 0 stamp
        [c.ident, b.filled, 2 * s.dev.get Reg.REC_CAP_STAT.BROKEN] ∈ t.dev.out.drop s.dev.out.length)
  ∧ (∀ (s : State) (dt : Nat) (b : OpenBuf) (c : Comp), (s.dev.cal.open_.filter fun b => b.ring == s.dev.recd.capRing) = [b] →
      s.dev.comp? capDest = some c → b.filled ≠ 0 → s.dev.get Reg.REC_CFG.DESC_MS * 1000000 ≤ (s.now dt).since b.firstAt →
      s.dev.recd.cap = .running → s.dev.recd.capBuf = [] → c.ready = [] → c.ended = false → b.closed = none → s.dev.bufWritten b = false →
    Leaves (.captureDescTimeout dt) s { s.now dt with cal := { s.dev.cal with open_ := s.dev.cal.open_.map fun o =>
      if o.ring = s.dev.recd.capRing then { o with closed := some (c.ident, 2 * s.dev.get Reg.REC_CAP_STAT.BROKEN) } else o } } fun t =>
      t.dev.out = s.dev.out)
  ∧ (∀ (s : State) (dt ring : Nat) (x : Desc), s.dev.on Reg.REC_RPL_CFG.EN = true → (s.now dt).acceptsParam ring x 0xE002 [.ready] true = true →
      bitsOf (x.w 6) 24 8 = 0x80 → x.w 8 < 65536 → x.w 9 = 0 →
    Does (.replayGo dt ring x) s fun t => t.dev.mode = .run ∧ t.dev.get Reg.REC_RPL_STAT.STATE = 2 ∧ t.dev.jobs = s.dev.jobs ∧ t.dev.dmk = s.dev.dmk
      ∧ ∃ r, t.dev.recd.replay = some r ∧ r.ticket = (s.now dt).ticketOf ring x ∧ r.ident = x.w 6 ∧ r.stopTag = x.f 8 8 8
        ∧ r.stopLine = x.w 7 + 2 ^ 32 * x.f 8 0 8 ∧ r.queue = [] ∧ r.start = none)

/-- While a capture runs and its blocks wait for a descriptor: every 10 us a PW record with the position and its flags joins the buffer; every 200 us for an enabled link with a status, a HEAD_STATUS record joins it and what had gathered starts again from 0; once a full buffer is at 4 MiB or below, GAP joins it with the count and the two times of what was lost, and CAPTURE_GAP (0x100C) is posted with them. Nothing else changes. Some of it is the model's choice: log entry 117. -/
def Obligations.CaptureRecordsAreTaken : Prop :=
  ∀ (s : State) (dt : Nat) (c : Comp), s.dev.recd.cap = .running → s.dev.comp? capDest = some c → c.ready ≠ [] →
    (s.dev.openBuf? s.dev.recd.capRing).isNone = true →
    let hide : Dev → Dev := fun d => { d with recd := { d.recd with pwAt := 0, headAt := [] } }
    (s.dev.recd.gap = none → s.dev.recd.capBytes + 24 ≤ 8388608 → 10000 ≤ (s.now dt).since s.dev.recd.pwAt →
      Alters (.capturePwSample dt) s dt hide noRegs fun t => t.dev.recd.pwAt = (s.now dt).tb ∧ ∃ r, t.dev.recd.capBuf = s.dev.recd.capBuf ++ [r]
        ∧ recType r = 6 ∧ leAt r 8 6 = s.dev.pos.pw % 2 ^ 48 ∧ leAt r 16 1 = s.dev.pwFlags)
    ∧ (∀ n, s.dev.recd.gap = none → s.dev.recd.capBytes + 56 ≤ 8388608 → n < 16 → n < s.dev.link.links.length → s.dev.on (Reg.LINK_CFG_n.EN n) = true →
        (s.dev.lk n).status ≠ [] → 200000 ≤ (s.now dt).since (s.dev.recd.headAt.getD n 0) →
      Alters (.captureHeadStatusSample dt n) s dt (fun d => { hide d with link := { d.link with links := [] } }) noRegs fun t =>
        (∃ r, t.dev.recd.capBuf = s.dev.recd.capBuf ++ [r] ∧ recType r = 9 ∧ leAt r 8 1 = n)
        ∧ (t.dev.lk n).held = [0, 0, 0, 0] ∧ (t.dev.lk n).blanked = [0, 0, 0, 0] ∧ (t.dev.lk n).rfault = [0, 0, 0, 0] ∧ (t.dev.lk n).hfault = 0
        ∧ (t.dev.lk n).status = (s.dev.lk n).status ∧ ∀ m, m ≠ n → t.dev.lk m = s.dev.lk m)
    ∧ (∀ n a b, s.dev.recd.gap = some (n, a, b) → s.dev.recd.capBytes ≤ 4194304 →
      Alters (.captureGapEnd dt) s dt (fun d => { d with cal := { d.cal with comps := [] } }) noRegs fun t =>
        t.dev.recd.gap = none ∧ Tells (s.now dt) t 0x100C [0x80000000 + s.dev.get Reg.REC_CAP_STAT.COUNT, n, a, b] ∧ ∃ r, t.dev.recd.capBuf = s.dev.recd.capBuf ++ [r] ∧ recType r = 15
          ∧ (r.drop 8).take 12 = leBytes 4 n ++ leBytes 4 a ++ leBytes 4 b)

/-! ## Linen -/

/-- An accepted MOVE that passes its checks completes OK; X becomes PW, the target lies the distance ahead, the profile is the descriptor's, speed and acceleration are 0 and the device is in RUN; with no job live the first staged job goes live at its origin. An accepted STOP on an ACTIVE unit with the web moving begins a stop at its deceleration, or the profile's for 0, and waits. SET_SPEED during a MOVE waits for the next compute instant. Some of it is the model's choice: log entry 76. -/
def Obligations.MoveStopAndSetSpeed : Prop :=
  (∀ (s : State) (dt ring : Nat) (x : Desc), (s.now dt).accepts ring x 0x08 = true → s.dev.moveCheck x = none → s.dev.pos.cal = [] →
      s.dev.on Reg.CHK_CFG.MARK_EN = false → s.dev.jobs.all (fun j => j.lastFrame.isNone) = true →
      (∀ n, ∀ w ∈ (s.dev.lk n).queue, ∃ seq, w = .cmd seq) →
    Does (.move dt ring x) s fun t => Ends (s.now dt) t ring x 0 0 ∧ t.dev.mode = .run ∧ t.dev.linen.v = 0 ∧ t.dev.linen.a = 0 ∧ t.dev.linen.final = false
      ∧ t.dev.linen.prof = ⟨x.w 6, x.w 7, x.w 8, x.w 9⟩ ∧ t.dev.linen.x48 = s.dev.pos.pw % 2 ^ 48
      ∧ t.dev.linen.target = some (t.dev.linen.x + s.dev.moveDist x * (2 ^ 32 : Nat)) ∧ t.dev.gz.bank0 = s.dev.gz.bank0 ∧ t.dev.dmk = s.dev.dmk
      ∧ (s.dev.live?.isSome = true → t.dev.jobs = s.dev.jobs)
      ∧ (∀ j, s.dev.live? = none → s.dev.nextStaged = some j → (t.dev.job? j.tag).map (fun k => (k.phase, k.j0)) = some (.live, j.origin)))
  ∧ (∀ (s : State) (dt ring : Nat) (x : Desc), (s.now dt).accepts ring x 0x09 = true → s.dev.active = true → x.w 4 ≤ aLim s.dev.live? * 16 →
      s.dev.linen.v ≠ 0 → s.dev.linen.stop = none →
    Leaves (.stop dt ring x) s (s.now dt) fun t => t.dev.linen.stop
      = some ⟨if x.w 4 = 0 then s.dev.linen.prof.decel else x.w 4, false, false, [(s.now dt).ticketOf ring x]⟩)
  ∧ (∀ (s : State) (dt ring : Nat) (x : Desc), (s.now dt).accepts ring x 0x0A = true → s.dev.active = true → s.dev.linen.target.isSome = true →
      s.dev.linen.stop = none → x.w 4 ≤ s.dev.get Reg.LINEN_VMAX.VMAX * 256 → x.w 5 ≤ aLim s.dev.live? * 16 → x.w 6 ≤ aLim s.dev.live? * 16 →
    Leaves (.setSpeed dt ring x) s { s.now dt with linen := { s.dev.linen with
      setters := s.dev.linen.setters ++ [⟨(s.now dt).ticketOf ring x, x.w 4, x.w 5, x.w 6, false, false⟩] } } fun t =>
      t.dev.out = ((s.now dt).taken ring x).out)

/-- At the compute instant of a new period, with no command, register value or ride-through waiting: a web that does not move keeps X, speed and acceleration; one in a MOVE takes one step of the profile of R305 from its commanded state; in both cases a set-point frame is ready. A residue mismatch discards the period, is counted and posted (0x5009). At APPLY less SP_LEAD the frame of an ACTIVE unit leaves on DRV, sealed. Some of it is the model's choice: log entries 74, 75 and 81. -/
def Obligations.ServoPeriods : Prop :=
  (∀ (s : State) (dt : Nat), s.dev.linenRuns = true → (s.now dt).servoPeriod ≠ s.dev.linen.cycle → s.dev.isBad (· == Datum.linen) = false →
      s.dev.linen.mirrored = none → s.dev.linen.next = [] → s.dev.linen.setters = [] → s.dev.sense.rideDue = 0 → s.dev.get Reg.SENSE_MAINS_STAT.ACTION = 0 →
      s.dev.linen.rideCap = none → s.dev.on Reg.RING_CFG.EN = false → s.dev.linen.stop = none →
    Does (.servoCompute dt false) s fun t => t.dev.linen.cycle = (s.now dt).servoPeriod ∧ t.dev.linen.faults = 0 ∧ t.dev.linen.frame.isSome = true
      ∧ t.dev.jobs = s.dev.jobs ∧ t.dev.gz = s.dev.gz ∧ t.dev.twl = s.dev.twl ∧ t.dev.link = s.dev.link
      ∧ (s.dev.linen.target = none → t.dev.linen.x = s.dev.linen.x ∧ t.dev.linen.v = s.dev.linen.v ∧ t.dev.linen.a = s.dev.linen.a)
      ∧ (s.dev.linen.target.isSome = true → ∃ h free, t.dev.linen.motion = (s.dev.linen.motion.step ((s.now dt).servoPlan h).1 free).1))
  ∧ (∀ (s : State) (dt : Nat), s.dev.linenRuns = true → (s.now dt).servoPeriod ≠ s.dev.linen.cycle → s.dev.linen.next = [] → s.dev.linen.faults = 0 →
    Leaves (.servoCompute dt true) s ({ s.now dt with
      linen := { s.dev.linen with faults := 1, frame := none, cycle := (s.now dt).servoPeriod }
      ecc := { s.dev.ecc with poisoned := s.dev.ecc.poisoned.filter (fun x => x != Datum.linen), once := s.dev.ecc.once.filter fun x => x != Datum.linen } }.bump Reg.LINEN_CNT.RES_FAULT) fun t =>
      Tells (s.now dt) t 0x5009 [0, 1])
  ∧ (∀ (s : State) (dt : Nat) (bs : List Nat), s.dev.linen.frame = some bs → s.dev.active = true → s.dev.linenRuns = true →
      s.dev.on Reg.LINEN_CFG.EN = true → s.dev.on (Reg.TIME_PORT_CNT_p.LINK 0) = true → s.dev.linen.setters = [] →
      s.dev.linen.cycle * s.dev.servoT ≤ (s.now dt).readTime + s.dev.get Reg.LINEN_CFG.SP_LEAD * 1000 →
    Leaves (.setpointFrameSend dt) s { s.now dt with linen := { s.dev.linen with frame := none, takeover := false } } fun t =>
      t.dev.out = s.dev.out ++ [.ethernet 0 (s.dev.get Reg.LINEN_DST_LO.DST_LO + 2 ^ 32 * s.dev.get Reg.LINEN_DST_HI.DST_HI)
        (s.dev.get Reg.LINEN_ETYPE.ETYPE) (s.dev.sealFrame bs)])

/-- A valid answer shows its state and following error; a first fault in it is posted (0x5006). An axis without an answer for ANS_TMO periods is shown silent and posted (0x5007). A frame on DRV with the set-point Ethertype that is no valid answer is counted as discarded. The return of the DRV link is shown and posted (0x5008); on its loss a frame not yet sent fails, its crossings are flushed and the policy acts. GEAR_SET with the web at rest sets the ratio and keeps the axis's position. CAM_START takes a drive cam slot. A Linen register value by PARAM waits for the next compute instant. The three PARAMs complete OK and change nothing else. Some of it is the model's choice: log entry 80. -/
def Obligations.DrivesAnswerAndAxesFollow : Prop :=
  (∀ (s : State) (dt n v fe : Nat) (payload : List Byte), s.dev.mode.served = true → s.dev.on (Reg.TIME_PORT_CNT_p.LINK 0) = true → n < 12 →
      16 ≤ payload.length → leAt (natBytes payload) 0 1 = 1 → leAt (natBytes payload) 1 1 / 128 = 1 → leAt (natBytes payload) 2 1 = n →
      leAt (natBytes payload) 3 1 = v → leAt (natBytes payload) 8 4 = fe →
      leAt (natBytes payload) 12 4 = crc32c (((natBytes payload).drop 4).take 4 ++ [n, 0, 0, 0] ++ (natBytes payload).take 12) →
      s.dev.on (Reg.LINEN_AX_CFG_n.EN n) = true → s.dev.on (Reg.LINEN_AX_CFG_n.ANS n) = true → s.dev.linen.v ≠ 0 →
    Leaves (.driveAnswer dt payload) s ((((((s.now dt).put (Reg.LINEN_AX_STAT_n.DSTAT n) v).put (Reg.LINEN_AX_STAT_n.FAULT n) (b2n (bitOf v 0))).put
        (Reg.LINEN_AX_STAT_n.SILENT n) 0).put (Reg.LINEN_AX_FERR_n.FERR n) fe).modAxis n fun a => { a with missed := 0, faultEp := bitOf v 0 }) fun t =>
      bitOf v 0 = true → (s.dev.axis n).faultEp = false → Tells (s.now dt) t 0x5006 [n, v, fe, s.dev.linen.policy.getD (4 * n) 0])
  ∧ (∀ (s : State) (dt n : Nat), s.dev.linenRuns = true → n < 12 → s.dev.on (Reg.LINEN_AX_CFG_n.EN n) = true → s.dev.on (Reg.LINEN_AX_CFG_n.ANS n) = true →
      s.dev.on (Reg.LINEN_AX_STAT_n.SILENT n) = false → s.dev.get (Reg.LINEN_AX_CFG_n.ANS_TMO n) ≤ (s.dev.axis n).missed → s.dev.linen.v ≠ 0 →
    Leaves (.answerTimeout dt n) s ((s.now dt).put (Reg.LINEN_AX_STAT_n.SILENT n) 1) fun t =>
      Tells (s.now dt) t 0x5007 [n, (s.dev.axis n).missed, s.dev.linen.policy.getD (4 * n + 1) 0]
        ∧ (s.dev.linen.policy.getD (4 * n + 1) 0 ≠ 0 → t.dev.linen.stop.isSome = true))
  ∧ (∀ (s : State) (dt : Nat) (payload : List Byte), s.dev.mode.served = true → s.dev.on (Reg.TIME_PORT_CNT_p.LINK 0) = true →
      (payload.length < 16 ∨ leAt (natBytes payload) 0 1 ≠ 1 ∨ leAt (natBytes payload) 1 1 / 128 ≠ 1 ∨ 12 ≤ leAt (natBytes payload) 2 1
        ∨ s.dev.on (Reg.LINEN_AX_CFG_n.EN (leAt (natBytes payload) 2 1)) = false ∨ s.dev.on (Reg.LINEN_AX_CFG_n.ANS (leAt (natBytes payload) 2 1)) = false
        ∨ leAt (natBytes payload) 12 4 ≠ crc32c (((natBytes payload).drop 4).take 4 ++ [leAt (natBytes payload) 2 1, 0, 0, 0] ++ (natBytes payload).take 12)) →
    Leaves (.driveAnswer dt payload) s ((s.now dt).bump (Reg.TIME_PORT_CNT_p.DISCARD 0)) fun t => t.dev.out = s.dev.out)
  ∧ (∀ (s : State) (dt : Nat), s.dev.mode.served = true → s.dev.linen.v ≠ 0 → s.dev.on (Reg.TIME_PORT_CNT_p.LINK 0) = false →
    Leaves (.drvLinkDown dt false) s ((s.now dt).put (Reg.TIME_PORT_CNT_p.LINK 0) 1) fun t =>
      Tells (s.now dt) t 0x5008 [s.dev.linen.policy.getD 48 0, 1])
  ∧ (∀ (s : State) (dt : Nat), s.dev.mode.served = true → s.dev.linen.v ≠ 0 → s.dev.follower = false → s.dev.on (Reg.TIME_PORT_CNT_p.LINK 0) = true →
    Does (.drvLinkDown dt true) s fun t => t.dev.on (Reg.TIME_PORT_CNT_p.LINK 0) = false ∧ t.dev.linen.frame = none
      ∧ (s.dev.linen.frame.isSome = true → t.dev.get Reg.LINEN_CNT.TX_FAIL = ((s.now dt).bump Reg.LINEN_CNT.TX_FAIL).get Reg.LINEN_CNT.TX_FAIL)
      ∧ (s.dev.linen.policy.getD 48 0 ≠ 0 → t.dev.linen.stop.isSome = true) ∧ (∃ w, Tells (s.now dt) t 0x6041 [12, 0, w])
      ∧ t.dev.pos = s.dev.pos
      ∧ ((∀ k, k ≤ 2 → s.dev.isSource k = true → s.dev.trkPort k ≠ 0) →
        t.dev.jobs = s.dev.jobs ∧ t.dev.gz = s.dev.gz ∧ t.dev.twl = s.dev.twl ∧ t.dev.link = s.dev.link))
  ∧ (∀ (s : State) (dt ring : Nat) (x : Desc), (s.now dt).acceptsParam ring x 0x5002 [.ready, .hold] true = true → s.dev.follower = false →
      s.dev.webAtRest = true → x.w 6 < 12 → x.w 8 ≠ 0 → x.w 9 = 0 → s.dev.on (Reg.LINEN_AX_CFG_n.EN (x.w 6)) = true → s.dev.linen.axes.length = 12 →
    Alters (.gearSet dt ring x) s dt (fun d => { d with linen := { d.linen with axes := [] } }) (block 5) fun t => Ends (s.now dt) t ring x 0 0
      ∧ t.dev.gn (x.w 6) = signedOf 32 (x.w 7) ∧ t.dev.gd (x.w 6) = x.w 8 ∧ (∀ n, n ≠ x.w 6 → t.dev.axis n = s.dev.axis n)
      ∧ (t.dev.axis (x.w 6)).ofs + gearPos t.dev.linen.x (t.dev.gn (x.w 6)) (t.dev.gd (x.w 6))
        = (s.dev.axis (x.w 6)).ofs + gearPos s.dev.linen.x (s.dev.gn (x.w 6)) (s.dev.gd (x.w 6)))
  ∧ (∀ (s : State) (dt ring : Nat) (x : Desc) (d : Dev), (s.now dt).acceptsParam ring x 0x5001 readyRunHold true = true → s.dev.follower = false →
      valueExtra x [0x1FF, 0xFFFFFFFF, 0xFFFF, 0] = none → x.f 6 0 4 < 12 → x.f 6 4 5 ≤ 16 → s.dev.on (Reg.LINEN_AX_CFG_n.EN (x.f 6 0 4)) = true →
      (x.f 6 4 5 < 16 → (kvGet s.dev.linen.cams (x.f 6 4 5)).isSome = true) → s.dev.passed (x.w 7 + 2 ^ 32 * x.f 8 0 16) = false →
      (s.now dt).schedule 5 ⟨x.w 7 + 2 ^ 32 * x.f 8 0 16, .camStart (x.f 6 0 4) (x.f 6 4 5), .servo⟩ = some d →
    Leaves (.camStart dt ring x) s d fun t => Ends (s.now dt) t ring x 0 0)
  ∧ (∀ (s : State) (dt ring id : Nat) (x : Desc), id ∈ [0x5010, 0x5014, 0x5018, 0x501C] → (s.now dt).acceptsParam ring x id readyRunHold true = true →
      s.dev.follower = false → valueExtra x [0xFFFFFFFF, 0, 0, 0] = none → s.dev.linenParamOk (id % 4096) (x.w 6) = true →
    Leaves (.linenParam dt ring x) s { s.now dt with linen := { s.dev.linen with next := s.dev.linen.next ++ [(0x50000 + id % 4096, x.w 6)] } } fun t =>
      Ends (s.now dt) t ring x 0 0)

/-! ## Web position -/

/-- An accepted forward edge of the web encoder on new ground counts it, and PW, with its remainder, moves on by exactly N / D: with acc = rem + N, PW rises by acc / D and rem is acc mod D; HELD clears and E_hw is the new count. A PARAM that waits for a frame applies with an edge once PW has reached it (shown for REC_MARK). An edge of another enabled encoder counts by its direction and moves nothing else; a suppressed pulse is counted. A Z edge within 16 counts of E_z reports the deviation and moves E_z on by the period. Some of it is the model's choice: log entry 119. -/
def Obligations.EncoderEdgesMovePw : Prop :=
  (∀ (s : State) (dt n num den : Nat) (lineA aLeads : Bool), s.dev.get Reg.POS_CFG.WEB_ENC = n → s.dev.encodersLive n = true → s.dev.isWeb n = true →
      s.dev.pos.encs.length = 4 → s.dev.edgeDir n aLeads = 1 → (s.dev.enc n).zActive = false →
      ((s.now dt).countEdge n lineA 1 ((s.now dt).tb - s.dev.filterNs n)).2 = false → s.dev.net.edge = none → s.dev.net.sync = none →
      s.dev.host.deferred = [] →
      0 < sign48 (sign48 ((s.dev.enc n).e + 1) - s.dev.pos.eHw) → s.dev.ratio = (num, den) → s.dev.pos.n = num → s.dev.pos.d = den →
      s.dev.pos.cal = [] → s.dev.on Reg.CHK_CFG.MARK_EN = false → s.dev.jobs.all (fun j => j.lastFrame.isNone) = true →
      s.dev.linksOn.all (fun m => !s.dev.on (Reg.LINK_STAT_n.SILENT m)) = true →
    Alters (.webEncoderEdge dt lineA aLeads) s dt (fun d => { d with pos := Dev.reset.pos }) (block 3) fun t =>
      t.dev.pos.pw = (s.dev.pos.pw + (s.dev.pos.rem + num) / den) % 2 ^ 48 ∧ t.dev.pos.rem = (s.dev.pos.rem + num) % den
      ∧ t.dev.pos.eHw = sign48 ((s.dev.enc n).e + 1) ∧ (t.dev.enc n).e = sign48 ((s.dev.enc n).e + 1) ∧ t.dev.on Reg.POS_STATUS.HELD = false
      ∧ (∀ m, m ≠ n → t.dev.enc m = s.dev.enc m) ∧ t.dev.pos.pso = s.dev.pos.pso ∧ t.dev.pos.psi = s.dev.pos.psi)
  ∧ (∀ (s : State) (dt p : Nat) (lineA aLeads : Bool) (k : Ticket) (x : Desc), s.dev.encodersLive (s.dev.get Reg.POS_CFG.WEB_ENC) = false →
      s.dev.host.deferred = [(k, x, p)] → s.dev.paramReached p = true → paramId x = 0xE001 → k.op = 0x0F → k.ring < 32 →
    Leaves (.webEncoderEdge dt lineA aLeads) s { s.now dt with host := { s.dev.host with deferred := [] } } fun t => Closes (s.now dt) t k 0)
  ∧ (∀ (s : State) (dt n : Nat) (lineA aLeads : Bool), s.dev.encodersLive n = true → s.dev.isWeb n = false → s.dev.pos.encs.length = 4 →
    Alters (.encoderEdge dt n lineA aLeads) s dt (fun d => { d with pos := { d.pos with encs := [] } }) (block 3) fun t =>
      (t.dev.enc n).e = sign48 ((s.dev.enc n).e + s.dev.edgeDir n aLeads) ∧ ∀ m, m ≠ n → t.dev.enc m = s.dev.enc m)
  ∧ (∀ (s : State) (dt n : Nat), s.dev.encodersLive n = true →
    Leaves (.encoderGlitch dt n) s ((s.now dt).bump (Reg.POS_GLITCH_n.GLITCH n)) fun t => t.dev.out = s.dev.out)
  ∧ (∀ (s : State) (dt n : Nat) (ez : Int), s.dev.encodersLive n = true → s.dev.pos.encs.length = 4 → s.dev.get (Reg.POS_IDX_PERIOD_n.PERIOD n) ≠ 0 →
      (s.dev.enc n).ez = some ez → (s.dev.enc n).zLost = false → -16 ≤ sign48 ((s.dev.enc n).e - ez) → sign48 ((s.dev.enc n).e - ez) ≤ 16 →
    Alters (.indexEdge dt n (!s.dev.on (Reg.POS_ENC_CFG_n.Z_POL n))) s dt (fun d => { d with pos := { d.pos with encs := [] } })
      (fun o => decide (o / 4 = (Reg.POS_IDX_DEV_n.DEV n).off / 4)) fun t =>
      t.dev.get (Reg.POS_IDX_DEV_n.DEV n) = fieldOf 16 (sign48 ((s.dev.enc n).e - ez))
      ∧ (t.dev.enc n).ez = some (sign48 (ez + s.dev.get (Reg.POS_IDX_PERIOD_n.PERIOD n))) ∧ (t.dev.enc n).e = (s.dev.enc n).e
      ∧ ∀ m, m ≠ n → t.dev.enc m = s.dev.enc m)

/-- With no sample for REST_MS the web is at rest and the estimate gone, and in RUN a stop then ends in HOLD; 1.5 expected gaps without a sample only clear VALID. A debounced change of an input with function NONE is shown and posted (0x3005); one active beyond WDOG is STUCK and posted (0x3007). POS_REREG in HOLD at rest clears REG_LOST. PSO_AT for a position ahead takes a slot; a slot whose predicted instant has come puts its output at its level and is free. A follower without a broadcast for 5 us has lost position. -/
def Obligations.RestInputsAndScheduledOutputs : Prop :=
  (∀ (s : State) (dt : Nat) (l : Sample), s.dev.latest = some l → s.dev.get Reg.POS_CFG.REST_MS * 1000000 < (s.now dt).since l.t →
    (s.dev.linen.v ≠ 0 → Leaves (.estimatorRest dt) s ((s.now dt).dropEstimate.put Reg.POS_STATUS.AT_REST 1) fun _ => True)
    ∧ (∀ w, s.dev.mode = .run → s.dev.linen.v = 0 → s.dev.linen.stop = some w → s.dev.jobs ≠ [] → s.dev.recd.cap = .idle →
      Does (.estimatorRest dt) s fun t => t.dev.mode = .hold ∧ t.dev.linen.stop = none ∧ t.dev.linen.target = none
        ∧ t.dev.on Reg.POS_STATUS.AT_REST = true ∧ t.dev.jobs = s.dev.jobs))
  ∧ (∀ (s : State) (dt g : Nat) (e : Estimate), s.dev.pos.est = some e → expectedGap e = some g → 3 * g < 2 * ((s.now dt).since e.base.t * 65536) →
    Leaves (.estimateInvalid dt) s ((s.now dt).put Reg.POS_STATUS.VALID 0) fun _ => True)
  ∧ (∀ (s : State) (dt n : Nat) (pin : Bool), s.dev.mode.served = true → n < 8 → s.dev.get (Reg.POS_PSI_CFG_n.FUNC n) = 0 →
      (s.dev.psiAt n).level ≠ (pin != s.dev.on (Reg.POS_PSI_CFG_n.POL n)) → (s.dev.psiAt n).stuck = false →
    Leaves (.psiChange dt n pin) s ({ s.now dt with pos := { s.dev.pos with
        psi := setAt s.dev.pos.psi n ⟨pin != s.dev.on (Reg.POS_PSI_CFG_n.POL n), (s.now dt).tb, false⟩ } }.put Reg.POS_PSI_STATE.LEVEL
        (setBit (s.dev.get Reg.POS_PSI_STATE.LEVEL) n (pin != s.dev.on (Reg.POS_PSI_CFG_n.POL n)))) fun t =>
      Tells (s.now dt) t 0x3005 [n, b2n (pin != s.dev.on (Reg.POS_PSI_CFG_n.POL n))])
  ∧ (∀ (s : State) (dt n : Nat), s.dev.mode.served = true → n < 8 → s.dev.get (Reg.POS_PSI_CFG_n.WDOG n) ≠ 0 → (s.dev.psiAt n).level = true →
      (s.dev.psiAt n).stuck = false → s.dev.get (Reg.POS_PSI_CFG_n.WDOG n) * 1000000 < (s.now dt).since (s.dev.psiAt n).since →
    Leaves (.psiWatchdog dt n) s (({ s.now dt with pos := { s.dev.pos with psi := setAt s.dev.pos.psi n { s.dev.psiAt n with stuck := true } } }.put
        Reg.POS_PSI_STATE.STUCK (setBit (s.dev.get Reg.POS_PSI_STATE.STUCK) n true)).put Reg.POS_FAULT.STUCK 1) fun t =>
      Tells (s.now dt) t 0x3007 [n, s.dev.get (Reg.POS_PSI_CFG_n.WDOG n)])
  ∧ (∀ (s : State) (dt ring : Nat) (x : Desc), (s.now dt).acceptsParam ring x 0x3001 [.hold] true = true → valueExtra x [0, 0, 0, 0] = none →
      s.dev.webAtRest = true → s.dev.get Reg.POS_FAULT.CAUSE ≠ 1 →
    Leaves (.posRereg dt ring x) s { ((s.now dt).put Reg.POS_STATUS.REG_LOST 0).put Reg.POS_FAULT.CAUSE 0 with
      pos := { s.dev.pos with encs := s.dev.pos.encs.map fun e => { e with ez := none, zLost := false } } } fun t => Ends (s.now dt) t ring x 0 0)
  ∧ (∀ (s : State) (dt ring : Nat) (x : Desc) (d : Dev), (s.now dt).acceptsParam ring x 0x3002 readyRunHold true = true → bitOf (x.w 6) 6 = false →
      valueExtra x [0x7F, 0xFFFFFFFF, 0xFFFF, 0] = none → s.dev.psoTaken (x.f 6 0 4) = false → s.dev.passed (pwAdd 0 (x.w 7 + 2 ^ 32 * x.f 8 0 16)) = false →
      (s.now dt).schedule 3 ⟨pwAdd 0 (x.w 7 + 2 ^ 32 * x.f 8 0 16), .pso (x.f 6 0 4) (bitOf (x.w 6) 4),
        if bitOf (x.w 6) 5 then .edge else .predict⟩ = some d →
    Leaves (.psoAt dt ring x) s d fun t => Ends (s.now dt) t ring x 0 0)
  ∧ (∀ (s : State) (dt slot p out : Nat) (level : Bool), kvGet s.dev.pos.cal slot = some ⟨p, .pso out level, .predict⟩ →
      (s.now dt).reachedNow p = true → s.dev.trigPso out = false → s.dev.pos.cal.all (fun x => x.1 == slot || x.2.pos != p) = true →
    Leaves (.calendarSlotAct dt slot) s (((s.now dt).freeSlot slot).setPso out level) fun t => bitOf t.dev.pos.pso out = level
      ∧ kvGet t.dev.pos.cal slot = none ∧ t.dev.out = s.dev.out ++ (if bitOf s.dev.pos.pso out = level then [] else [.pso out level]))
  ∧ (∀ (s : State) (dt : Nat), s.dev.mode.served = true → s.dev.follower = true → s.dev.on Reg.POS_STATUS.POS_LOST = false →
      5000 ≤ (s.now dt).since s.dev.pos.bcastAt →
    Leaves (.posLost dt) s ((((s.now dt).put Reg.POS_STATUS.POS_LOST 1).put Reg.POS_STATUS.VALID 0).bump Reg.POS_BCAST.MISSED) fun _ => True)

/-! ## The render pipeline -/

/-- In RUN or HOLD with nothing paused: Damask composes the next line, all samples 0 in a gutter, the composed image of its record else; CODE_PAINT encodes the code fields of the next frame; Twill screens the composed line; Gauze maps the screened line onto the head slots; a mapped line enters the FIFO of every enabled link at once. What a stage has taken is gone from the stage before it. A throttle pause ends at its time. Some of it is the model's choice: log entries 51 and 54. -/
def Obligations.LinesPassThePipeline : Prop :=
  let runs (s : State) : Prop := (s.dev.mode = .run ∨ s.dev.mode = .hold) ∧ s.dev.renderPaused = false ∧ s.dev.on Reg.REC_RPL_CFG.EN = false
    ∧ s.dev.recd.replay = none
  (∀ (s : State) (dt kib line : Nat) (j : Job), runs s → s.dev.on Reg.MEM_DRAM_STAT.TRAINING = false → s.dev.dmk.composed = none →
      s.dev.nextCompose = some (j, line) →
    (j.frameLines ≤ line % j.repeat_ →
      Alters (.composeLine dt kib []) s dt (fun d => { d with dmk := { d.dmk with composed := none, front := none, starved := none }, ecc := Dev.reset.ecc })
        (fun o => block 0xB o || block 0xC o) fun t => t.dev.dmk.front = some (j.tag, line + 1)
          ∧ t.dev.dmk.composed = some ⟨j.tag, line, List.replicate j.channels (List.replicate s.dev.dmk.width 0), []⟩)
    ∧ (∀ r, line % j.repeat_ < j.frameLines → line % j.repeat_ ≠ 0 → s.dev.record? j.tag (line / j.repeat_) = some r →
      Alters (.composeLine dt kib []) s dt (fun d => { d with dmk := Dev.reset.dmk, ecc := Dev.reset.ecc, chk := Dev.reset.chk })
        (fun o => block 0xB o || block 0xC o || block 0xD o) fun t => t.dev.dmk.front = some (j.tag, line + 1)
          ∧ ∃ bad, t.dev.dmk.composed = some ⟨j.tag, line, ((s.dev.frameIn j r).compose (line % j.repeat_)).1, bad⟩))
  ∧ (∀ (s : State) (dt : Nat) (j : Job) (r : Rec), s.dev.mode.printing = true → s.dev.renderPaused = false → s.dev.nextPaint = some r →
      s.dev.job? r.tag = some j →
    Alters (.codePaint dt []) s dt (fun d => { d with dmk := { d.dmk with painted := [] }, chk := { d.chk with frames := [] } }) (block 0xB) fun t =>
      (t.dev.frame r.tag r.frame).painted = true ∧ ∃ symbols, t.dev.dmk.painted = s.dev.dmk.painted ++ [⟨r.tag, r.frame, symbols⟩]
        ∧ ∀ i l rows cols dark, (s.dev.frameIn j r).layers[i]? = some l → l.kind = 3 →
          codeSymbol l.sym l.size l.gs1 ((s.dev.frameIn j r).field l.field) = some (rows, cols, dark) →
          ∃ y ∈ symbols, y.layer = i ∧ y.rows = rows ∧ y.cols = cols ∧ y.dark = dark)
  ∧ (∀ (s : State) (dt : Nat) (j : Job) (cl : CLine), runs s → s.dev.dmk.screened = none → s.dev.dmk.composed = some cl → s.dev.job? cl.tag = some j →
      cl.line % j.repeat_ ≠ 0 →
    Leaves (.screenLine dt []) s ((s.now dt).screen j cl []) (fun t => t.dev.dmk.composed = none ∧ ∃ sl, t.dev.dmk.screened = some sl ∧ sl.tag = cl.tag
      ∧ sl.line = cl.line ∧ sl.dmkCrc = dmkCrc cl.tag cl.line cl.samples
      ∧ (j.frameLines ≤ cl.line % j.repeat_ → sl.poison = [] ∧ ∀ l ∈ sl.levels, ∀ v ∈ l, v = 0)))
  ∧ (∀ (s : State) (dt : Nat) (j : Job) (sl : SLine), runs s → s.dev.dmk.mapped = none → s.dev.dmk.screened = some sl → s.dev.job? sl.tag = some j →
      sl.line % j.repeat_ ≠ 0 → sl.line % j.repeat_ ≠ j.frameLines → (j.gutterLines = 0 → sl.line % j.repeat_ + 1 ≠ j.frameLines) →
    Alters (.gauzeLine dt) s dt (fun d => { d with dmk := { d.dmk with screened := none, mapped := none }, gz := { d.gz with uncomp := [] }, ecc := Dev.reset.ecc, chk := { d.chk with frames := [] } })
        (fun o => block 0xB o || block 0xC o || block 0xD o) fun t =>
      t.dev.dmk.screened = none ∧ ∃ bad, t.dev.dmk.mapped = some ⟨sl.tag, sl.line, sl.dmkCrc, twlCrc sl.tag sl.line sl.codes,
        s.dev.slotRows (s.dev.gauzeIn j sl), bad⟩)
  ∧ (∀ (s : State) (dt : Nat) (j : Job) (m : MLine), runs s → s.dev.on Reg.MEM_DRAM_STAT.TRAINING = false → s.dev.dmk.mapped = some m → s.dev.job? m.tag = some j → s.dev.alone = true →
      s.dev.link.links.length = 16 → (s.dev.linksOn.all fun n => decide ((s.dev.lk n).fifo.length < s.dev.get Reg.LINK_FIFO.DEPTH)
        && (s.dev.lk n).lateAhead.isEmpty && !(m.rows.getD n []).isEmpty && (s.dev.lk n).fifo.all fun e => e.rows.any fun r => r.outcome.isNone) = true →
    Alters (.lineQueue dt) s dt (fun d => { d with link := Dev.reset.link, linen := { d.linen with finished := [], finN := 0 }, dmk := { d.dmk with mapped := none }, sense := { d.sense with batch := 0, pause := none }, ecc := Dev.reset.ecc })
        (fun o => block 6 o || block 0xC o) fun t =>
      t.dev.dmk.mapped = none ∧ t.dev.link.newest = some (m.tag, m.line)
        ∧ ∀ n ∈ s.dev.linksOn, ∃ rows, (t.dev.lk n).fifo = (s.dev.lk n).fifo ++ [⟨m.tag, m.line, m.dmkCrc, m.twlCrc, (s.now dt).tb, rows⟩]
          ∧ rows.map (·.payload) = s.dev.linkPayloads m (depthBits j.depth) n ∧ rows.all (fun r => r.outcome.isNone) = true)
  ∧ (∀ (s : State) (dt p : Nat), s.dev.sense.pause = some p → p ≤ (s.now dt).tb →
    Leaves (.throttlePauseEnd dt) s { s.now dt with sense := { s.dev.sense with pause := none } } fun t => t.dev.out = s.dev.out)

/-! ## Cameras and the ladder -/

/-- When PW reaches the next trigger position of an open window, the trigger joins the window and the camera's output goes high; PULSE x 10 ns later it goes low. A camera line with a good CRC and length and the next sequence number answers the oldest open trigger with its pixels and is counted; one with a bad CRC is counted and changes no trigger. Without a line for CAM_TMO the oldest open trigger is missing. Nothing else changes while no window of the camera has closed. Some of it is the model's choice: log entry 59. -/
def Obligations.CamerasTakeTheirLines : Prop :=
  (∀ (s : State) (dt cam : Nat) (w : Window), (s.dev.gz.windows.find? fun w => w.cam == cam && w.opened && !w.closed) = some w → s.dev.mode.served = true →
      s.dev.camOn cam = true → pwDiff (pwAdd w.openPos (w.next * s.dev.get (Reg.CAM_TRIG_n.TRIG_FC cam))) w.closePos < 0 →
      s.dev.passed (pwAdd w.openPos (w.next * s.dev.get (Reg.CAM_TRIG_n.TRIG_FC cam))) = true →
    Alters (.cameraTrigger dt cam) s dt (fun d => { d with gz := { d.gz with windows := [], cams := [] }, pos := { d.pos with pso := 0 } }) noRegs fun t =>
      bitOf t.dev.pos.pso (s.dev.get (Reg.CAM_CFG_n.TRIG_PSO cam)) = true
      ∧ t.dev.gz.windows = s.dev.gz.windows.map (fun v => if v.id = w.id then { v with
          triggers := v.triggers ++ [⟨pwAdd w.openPos (w.next * s.dev.get (Reg.CAM_TRIG_n.TRIG_FC cam)), (s.now dt).tb, none⟩], next := v.next + 1 } else v)
      ∧ (cam < s.dev.gz.cams.length → (t.dev.gz.cams.getD cam ⟨none, none⟩).pulseEnd
          = some (tbPlus (s.now dt).tb (s.dev.get (Reg.CAM_TRIG_n.PULSE cam) * 10))))
  ∧ (∀ (s : State) (dt cam p : Nat), (s.dev.gz.cams.getD cam ⟨none, none⟩).pulseEnd = some p → p ≤ (s.now dt).tb →
    Leaves (.triggerPulseEnd dt cam) s ({ s.now dt with gz := { s.dev.gz with cams := modAt s.dev.gz.cams cam fun c => { c with pulseEnd := none } } }.setPso
        (s.dev.get (Reg.CAM_CFG_n.TRIG_PSO cam)) false) fun t => bitOf t.dev.pos.pso (s.dev.get (Reg.CAM_CFG_n.TRIG_PSO cam)) = false)
  ∧ (∀ (s : State) (dt cam i : Nat) (slots : List (List LaneBlock)) (words : List Nat) (w : Window) (g : Trigger),
      s.dev.brings (16 + cam) 3 slots words = true → s.dev.camOn cam = true →
      bitsOf (words.getLastD 0) 0 32 = crc32c (leBytes 4 cam ++ (words.dropLast.map (leBytes 8)).flatten) →
      bitsOf (words.headD 0) 16 16 + 1 = s.dev.get (Reg.CAM_NPIX_n.NPIX cam) → (s.dev.gz.cams.getD cam ⟨none, none⟩).lastSeq = none →
      s.dev.openTrigger cam = some (w, i, g) → (s.dev.gz.windows.any fun v => v.cam == cam && v.closed) = false →
    Leaves (.cameraLine dt cam slots) s (({ s.now dt with gz := { s.dev.gz with cams := modAt s.dev.gz.cams cam fun c =>
        { c with lastSeq := some (bitsOf (words.headD 0) 0 16) } } }.answerTrigger w.id i
          (((words.dropLast.drop 1).map (leBytes 8)).flatten.take (s.dev.get (Reg.CAM_NPIX_n.NPIX cam)))).wrap (Reg.CAM_LINES_n.LINES cam))
      fun t => t.dev.out = s.dev.out)
  ∧ (∀ (s : State) (dt cam : Nat) (slots : List (List LaneBlock)) (words : List Nat), s.dev.brings (16 + cam) 3 slots words = true →
      s.dev.camOn cam = true →
      bitsOf (words.getLastD 0) 0 32 ≠ crc32c (leBytes 4 cam ++ (words.dropLast.map (leBytes 8)).flatten) →
    Leaves (.cameraLine dt cam slots) s (((s.now dt).bump (Reg.CAM_CNT_n.CRC_ERR cam)).windowFault cam fun w => { w with crcErr := w.crcErr + 1 })
      fun t => t.dev.out = s.dev.out)
  ∧ (∀ (s : State) (dt cam i : Nat) (w : Window) (g : Trigger), s.dev.openTrigger cam = some (w, i, g) →
      s.dev.get Reg.CAM_TMO.TMO * 1000 ≤ (s.now dt).since g.at_ → (s.dev.gz.windows.any fun v => v.cam == cam && v.closed) = false →
    Leaves (.cameraLineTimeout dt cam) s (((s.now dt).answerTrigger w.id i []).bump (Reg.CAM_CNT_n.MISSING cam)) fun t => t.dev.out = s.dev.out)

/-- When a closed window with every trigger answered is analysed, its one ladder band is done with, and on an ACTIVE unit each entry that the band drew and no load has written is in the inactive bank as its detection decides. An accepted LADDER_NOW whose units have cameras joins them to the round, and waits. An accepted ALIGN_NOW with every channel on a camera starts an alignment of the rows of its links, and waits. Some of it is the model's choice: log entries 57, 62 and 63. -/
def Obligations.LadderAndAlignment : Prop :=
  (∀ (s : State) (dt window : Nat) (w : Window) (b : Band), (s.dev.gz.windows.find? fun w => w.id == window && w.closed && !w.analysed) = some w →
      w.answered = true → (s.dev.gz.bands.filter fun b => b.cam == some w.cam && b.tag == w.tag && b.gutter == w.gutter) = [b] → b.align = false →
      s.dev.gz.alignRun = none → s.dev.live?.isSome = true → s.dev.active = true →
      ((s.dev.detections w b).map (·.1)).Nodup →
    Alters (.bandAnalysis dt window) s dt (fun d => { d with gz := Dev.reset.gz }) (block 0xB) fun t =>
      t.dev.gz.bands = s.dev.gz.bands.filter (fun x => x.id != b.id)
      ∧ (∀ v ∈ t.dev.gz.windows, v.id = w.id → v.analysed = true ∧ v.reported = false)
      ∧ ∀ i det, (i, det) ∈ s.dev.detections w b → s.dev.gz.loaded.contains i = false →
        (t.dev.gzIdle 0).entry i = (s.dev.decideEntry ((s.dev.gzIdle 0).entry i) det).1)
  ∧ (∀ (s : State) (dt ring : Nat) (x : Desc) (us : List (Nat × Nat)), (s.now dt).accepts ring x 0x0C = true →
      s.dev.unitsOf (if x.f 4 0 16 = 0 then s.dev.linksOn else s.dev.linksOn.filter (bitOf (x.f 4 0 16)))
        (((s.dev.job? s.dev.nextGutter.1).map (·.channels)).getD 8) = us → us ≠ [] → us.all (fun u => (s.dev.camOf u.2).isSome) = true →
      s.dev.gz.round = none →
    Alters (.ladderNow dt ring x) s dt (fun d => { d with gz := { d.gz with round := none } }) noRegs fun t =>
      ∃ r, t.dev.gz.round = some r ∧ r.tickets = [(s.now dt).ticketOf ring x] ∧ ∀ u ∈ us, ∃ v ∈ r.units, v.link = u.1 ∧ v.ch = u.2)
  ∧ (∀ (s : State) (dt ring : Nat) (x : Desc) (links : List Nat), s.dev.gz.alignRun = none → (s.now dt).acceptsParam ring x 0xB3F1 [.run] false = true →
      valueExtra x [0x1FFFF, 0, 0, 0] = none → (if x.f 6 0 16 = 0 then s.dev.linksOn else s.dev.linksOn.filter (bitOf (x.f 6 0 16))) = links → links ≠ [] →
      (links.any fun n => (List.range s.dev.ntCh).any fun c => s.dev.carries n c && (s.dev.camOf c).isNone) = false →
    Leaves (.alignNow dt ring x) s { s.now dt with gz := { s.dev.gz with
      alignRun := some ⟨(s.now dt).ticketOf ring x, bitOf (x.w 6) 16, s.dev.nextGutter.1, s.dev.nextGutter.2, links.flatMap s.dev.rowsAll, []⟩ } }
      fun t => t.dev.out = ((s.now dt).taken ring x).out)

/-! ## Lane ports -/

/-- A bring-up starts at 1.25 Gb/s (a compatibility port locks at MAX_RATE) and is counted: on EN written 1 in SETUP with LREF good, RETRY_MS after DOWN, on LREF good again, and for the ring ports 20 us after RING_HOLD. The clock takes the port to LOCK; a lane locks after 64 valid headers in a row, 16 as it wakes, and its eye enters its histogram; the last lock takes the port to DESKEW; ALIGN on every lane within 4 blocks deskews it, and CAP goes out every 64 blocks; the third identical CAP of the right role keeps it, and STEP for the next rate goes out every 16 blocks; the third STEP is answered with 8 GO and electrical idle; after the idle the port trains at the new rate. Some of it is the model's choice: log entry 122. In every 16,384 consecutive slots of what an UP or a waking native transmitter sends between frames one slot holds ALIGN, and in training one slot of every 32; an ALIGN carries the first sequence number plus the count of those before it, and every other slot IDLE. -/
def Obligations.PortsComeUpAndStep : Prop :=
  let lane (d : Dev) : Dev := { d with lane := Dev.reset.lane, link := Dev.reset.link }
  let stat (n o : Nat) : Bool := decide (o / 4 = (Reg.LINK_STAT_n.STATE n).off / 4)
  let counted (o : Nat) : Bool := block 8 o || decide (o / 4 = (Reg.SENSE_XING_n.COUNT 10).off / 4) || decide (o / 4 = (Reg.SENSE_XING_n.COUNT 11).off / 4)
    || decide (o / 4 = Reg.RING_STAT.BROKEN.off / 4)
  let begins (s t : State) (p : Nat) : Prop := t.dev.get (Reg.LANE_PORT_STAT_p.STATE p) = (if t.dev.on (Reg.LANE_PORT_CFG_p.MODE p) then 2 else 1)
    ∧ t.dev.get (Reg.LANE_PORT_STAT_p.RATE p) = (if t.dev.on (Reg.LANE_PORT_CFG_p.MODE p) then t.dev.get (Reg.LANE_PORT_CFG_p.MAX_RATE p) % 4 else 0)
    ∧ t.dev.get (Reg.LANE_PORT_STAT_p.LOCKED p) = 0 ∧ t.dev.get (Reg.LANE_CNT2_p.BRINGUPS p) = min 65535 (s.dev.get (Reg.LANE_CNT2_p.BRINGUPS p) + 1)
  let free (s : State) (p : Nat) : Prop := s.dev.on Reg.LANE_GLB.LREF_OK = true ∧ (p < 18 ∨ s.dev.net.holdAt = none) ∧ (s.dev.lk p).queue = []
  (∀ (s : State) (dt p value : Nat), s.dev.lkOpen = true → p < 20 → bitOf value 0 = true → free s p →
    Alters (.portEnable dt p value) s dt lane (fun o => counted o || stat p o) fun t => t.dev.on (Reg.LANE_PORT_CFG_p.EN p) = true ∧ begins s t p)
  ∧ (∀ (s : State) (dt p : Nat), s.dev.laneLive p = true → s.dev.stage p = 9 →
      s.dev.get (Reg.LANE_PORT_CFG_p.RETRY_MS p) * 1000000 ≤ (s.now dt).since (s.dev.port p).stageAt → free s p →
    Alters (.portRetry dt p) s dt lane (fun o => counted o || stat p o) fun t => begins s t p)
  ∧ (∀ (s : State) (dt : Nat), s.dev.mode.served = true → (∀ n, n < 16 → (s.dev.lk n).queue = []) →
    Alters (.lrefOkChange dt true) s dt lane (fun o => counted o || (List.range 16).any fun n => stat n o) fun t => t.dev.on Reg.LANE_GLB.LREF_OK = true
      ∧ ∀ p, p < 18 → s.dev.on (Reg.LANE_PORT_CFG_p.EN p) = true → (s.dev.port p).waits = true → begins s t p)
  ∧ (∀ (s : State) (dt : Nat), Leaves (.lrefOkChange dt false) s ((s.now dt).put Reg.LANE_GLB.LREF_OK 0) fun t => t.dev.out = s.dev.out)
  ∧ (∀ (s : State) (dt h : Nat), s.dev.net.holdAt = some h → s.dev.mode.served = true → 20000 ≤ (s.now dt).since h →
      s.dev.on Reg.LANE_GLB.LREF_OK = true →
    Alters (.ringHoldDelayEnd dt) s dt (fun d => { d with lane := Dev.reset.lane, net := { d.net with holdAt := none } }) counted fun t =>
      t.dev.net.holdAt = none ∧ ∀ p, p = 18 ∨ p = 19 → s.dev.on (Reg.LANE_PORT_CFG_p.EN p) = true → begins s t p)
  ∧ (∀ (s : State) (dt p : Nat), s.dev.laneLive p = true →
      (s.dev.stage p = 1 → Leaves (.rxClockDetect dt p) s ((s.now dt).setStage p 2) fun t => t.dev.out = s.dev.out)
      ∧ (s.dev.stage p = 6 → s.dev.on (Reg.LANE_PORT_STAT_p.RX_IDLE p) = true →
        Leaves (.rxClockDetect dt p) s (((s.now dt).modPort p fun x => { x with
          wakeAt := some (s.now dt).tb, deskewed := false, hunt := List.replicate 4 0 }).put (Reg.LANE_PORT_STAT_p.LOCKED p) 0) fun t => t.dev.out = s.dev.out))
  ∧ (∀ (s : State) (dt p m eye n : Nat) (runs : List Nat) (locks : Bool), s.dev.laneLive p = true → (rxMacros p).contains m = true → 2 ≤ s.dev.stage p →
      s.dev.stage p ≠ 9 → s.dev.on (Reg.LANE_PORT_CFG_p.MODE p) = false → (s.dev.port p).idle = none →
      bitOf (s.dev.get (Reg.LANE_PORT_STAT_p.LOCKED p)) m = false →
      huntOn (if (s.dev.port p).wakeAt.isSome then 16 else 64) ((s.dev.port p).hunt.getD m 0) runs = (locks, n) →
      (locks = false → Alters (.blockLock dt p m eye runs) s dt lane noRegs fun t => t.dev.out = s.dev.out)
      ∧ (locks = true → Alters (.blockLock dt p m eye runs) s dt (fun d => { d with lane := Dev.reset.lane, recd := { d.recd with hists := [] } })
        (fun o => block 8 o || decide (o / 4 = Reg.REC_STAT.HIST_HELD.off / 4)) fun t =>
          t.dev.get (Reg.LANE_PORT_STAT_p.LOCKED p) = setBit (s.dev.get (Reg.LANE_PORT_STAT_p.LOCKED p)) m true % 16
          ∧ t.dev.stage p = (if s.dev.stage p = 2 ∧ t.dev.allLocked p = true then 3 else s.dev.stage p)
          ∧ ∃ h g, kvGet t.dev.recd.hists (5120 + 4 * p + m) = some h ∧ (kvGet s.dev.recd.hists (5120 + 4 * p + m)).getD Hist.empty = g
            ∧ h.count = min 0xFFFFFFFF (g.count + 1) ∧ h.min = min g.min eye ∧ h.max = max g.max eye))
  ∧ (∀ (s : State) (dt p : Nat) (ts : List Nat), s.dev.laneLive p = true → s.dev.allLocked p = true → s.dev.on (Reg.LANE_PORT_CFG_p.MODE p) = false →
      p < s.dev.lane.ports.length → ts.length = (rxMacros p).length → (∀ a ∈ ts, ∀ b ∈ ts, a ≤ b + 4) → s.dev.stage p = 3 → (s.dev.port p).skipCap = false →
      (s.dev.port p).idle = none →
    Alters (.alignBlock dt p (ts.map some)) s dt lane (block 8) fun t => t.dev.stage p = 4 ∧ (t.dev.port p).deskewed = true
      ∧ (isCamera p = false → (t.dev.port p).tx = .blocks (s.dev.get (Reg.LANE_PORT_STAT_p.RATE p)) 32 (some (64, 0x2D,
        [0x31, s.dev.ownRates p + 0x38, 0, 0, 0, 0, 0]))))
  ∧ (∀ (s : State) (dt p rate : Nat) (payload : List Byte), s.dev.laneLive p = true → s.dev.stage p = 4 → payload.length = 7 →
      (s.dev.port p).cap = natBytes payload → (s.dev.port p).caps = 2 → leAt (natBytes payload) 0 1 = 1 + 16 * farRole p → isCamera p = false →
      topRate (fun r => bitOf (leAt (natBytes payload) 1 1) r && s.dev.ownRate p r) = rate → s.dev.get (Reg.LANE_PORT_CFG_p.MIN_RATE p) ≤ rate →
      s.dev.get (Reg.LANE_PORT_STAT_p.RATE p) < rate →
    Alters (.capBlock dt p payload) s dt lane (block 8) fun t => t.dev.stage p = 5 ∧ (t.dev.port p).target = rate
      ∧ t.dev.get (Reg.LANE_FAR_CAP_LO_p.CAP_LO p) = leAt (natBytes payload) 0 4 ∧ t.dev.get (Reg.LANE_FAR_CAP_HI_p.CAP_HI p) = leAt (natBytes payload) 4 3
      ∧ (t.dev.port p).tx = .blocks (s.dev.get (Reg.LANE_PORT_STAT_p.RATE p)) 32 (some (16, 0x33, [s.dev.get (Reg.LANE_PORT_STAT_p.RATE p) + 1, 0])))
  ∧ (∀ (s : State) (dt p rate : Nat) (go done : Bool), s.dev.laneLive p = true → s.dev.stage p = 5 → (s.dev.port p).idle = none → isCamera p = false →
      s.dev.on (Reg.LANE_PORT_CFG_p.MODE p) = false → (s.dev.port p).relock = false → rate = s.dev.get (Reg.LANE_PORT_STAT_p.RATE p) + 1 →
      (s.dev.port p).steps = 2 →
    Alters (.stepBlock dt p rate go done) s dt lane noRegs fun t => (t.dev.port p).steps = 3 ∧ (t.dev.port p).tx = .off
      ∧ (∃ e, (t.dev.port p).idle = some (e, rate)) ∧ List.replicate 8 (Output.block p 0x33 [rate, 1]) <:+: t.dev.out.drop s.dev.out.length)
  ∧ (∀ (s : State) (dt p e rate : Nat), s.dev.laneLive p = true → s.dev.stage p = 5 → (s.dev.port p).idle = some (e, rate) → (s.now dt).since e < 2 ^ 63 →
    Alters (.stepIdleEnd dt p) s dt lane (block 8) fun t => t.dev.stage p = 5 ∧ t.dev.get (Reg.LANE_PORT_STAT_p.RATE p) = rate % 4
      ∧ t.dev.get (Reg.LANE_PORT_STAT_p.LOCKED p) = 0 ∧ (t.dev.port p).idle = none ∧ (t.dev.port p).relock = true ∧ (t.dev.port p).deskewed = false
      ∧ (isCamera p = false → s.dev.on (Reg.LANE_PORT_CFG_p.MODE p) = false → (t.dev.port p).tx = .blocks (rate % 4) 32 none))
  ∧ (∀ (d : Dev) (p seq k : Nat), d.compat p = false →
    (∃ j n, k ≤ j ∧ j < k + 16384 ∧ streamSlot seq (d.idling p) j = some (control 0x78 [n]))
    ∧ (∀ rate, ∃ j n, k ≤ j ∧ j < k + 16384 ∧ streamSlot seq (.wake rate) j = some (control 0x78 [n]))
    ∧ (∃ j n, k ≤ j ∧ j < k + 32 ∧ streamSlot seq (d.training p) j = some (control 0x78 [n]))
    ∧ (streamSlot seq (d.idling p) k = some (control 0x78 [(seq + k / 16384) % 256]) ∨ streamSlot seq (d.idling p) k = some (control 0x1E []))
    ∧ (streamSlot seq (d.training p) k = some (control 0x78 [(seq + k / 32) % 256]) ∨ streamSlot seq (d.training p) k = some (control 0x1E [])))

/-- A port goes DOWN with its fault and macro, its locks cleared, and LANE_DOWN is posted: on a lost clock, on a bring-up stage's time-out, on a relock or wake not regained in time, on DONE missing at the rate fallen back to. DONE missing, or the clock lost, at a new rate falls back: that rate is cleared, and after 16 us of idle the previous one is tried. Invalid headers are counted; 16 within 64 blocks lose lock, and while UP that is RELOCK, counted and posted. SLEEP is sent 8 times after the idle time outside RUN; SLEEP received idles the receiver, in RUN it is counted and answered with WAKE; WAKE wakes the transmitter, which trains for 2 us. RESYNC 0 makes the transmitter train. Some of it is the model's choice: log entries 65 and 66. -/
def Obligations.PortFaultsSleepAndWake : Prop :=
  let lane (d : Dev) : Dev := { d with lane := Dev.reset.lane, link := Dev.reset.link }
  let own (p o : Nat) : Bool := block 8 o || decide (o / 4 = (Reg.LINK_STAT_n.STATE p).off / 4) || decide (o / 4 = Reg.RING_STAT.BROKEN.off / 4)
  let live (s : State) (p : Nat) : Prop := s.dev.laneLive p = true ∧ (s.dev.lk p).queue = []
  let falls (i : Instr) (s : State) (dt p fault m : Nat) : Prop := Alters i s dt lane (own p) fun t => t.dev.stage p = 9
    ∧ t.dev.get (Reg.LANE_PORT_STAT_p.FAULT p) = fault % 16 ∧ t.dev.get (Reg.LANE_PORT_STAT_p.FAULT_LANE p) = m % 4
    ∧ t.dev.get (Reg.LANE_PORT_STAT_p.LOCKED p) = 0 ∧ Tells (s.now dt) t 0x8002 [p, fault, m]
  let fallsBack (i : Instr) (s : State) (dt p : Nat) : Prop := Alters i s dt lane (block 8) fun t => t.dev.stage p = 5
    ∧ t.dev.get (Reg.LANE_PORT_STAT_p.FAULT p) = 7 ∧ (t.dev.port p).fallback = true
    ∧ (t.dev.port p).failed = setBit (s.dev.port p).failed (s.dev.get (Reg.LANE_PORT_STAT_p.RATE p)) true ∧ (t.dev.port p).tx = .off
    ∧ (t.dev.port p).idle = some (tbPlus (s.now dt).tb 16000, s.dev.get (Reg.LANE_PORT_STAT_p.RATE p) - 1)
  (∀ (s : State) (dt p : Nat), live s p → s.dev.on (Reg.LANE_PORT_STAT_p.RX_IDLE p) = false → 2 ≤ s.dev.stage p → s.dev.stage p ≠ 9 →
      s.dev.on (Reg.LANE_PORT_CFG_p.MODE p) = false → (s.dev.port p).idle = none →
      ((s.dev.stage p ≠ 5 ∨ isCamera p = true) → falls (.rxClockLoss dt p) s dt p 1 (clockMacro p))
      ∧ (s.dev.stage p = 5 → isCamera p = false → (s.dev.port p).relock = true → (s.dev.port p).fallback = false →
          1 ≤ s.dev.get (Reg.LANE_PORT_STAT_p.RATE p) → s.dev.get (Reg.LANE_PORT_CFG_p.MIN_RATE p) < s.dev.get (Reg.LANE_PORT_STAT_p.RATE p) →
        fallsBack (.rxClockLoss dt p) s dt p))
  ∧ (∀ (s : State) (dt p tmo fault : Nat), live s p → stageTimeout (s.dev.stage p) = some (tmo, fault) → (s.dev.port p).relock = false →
      (s.dev.port p).idle = none → tmo ≤ (s.now dt).since (s.dev.port p).stageAt →
    falls (.bringupTimeout dt p) s dt p fault (if fault = 12 then clockMacro p else if fault = 2 then s.dev.firstUnlocked p
      else if fault = 3 then (s.dev.port p).late else 0))
  ∧ (∀ (s : State) (dt p : Nat), live s p → s.dev.stage p = 7 → 100000 ≤ (s.now dt).since (s.dev.port p).stageAt →
    falls (.relockTimeout dt p) s dt p (s.dev.get (Reg.LANE_PORT_STAT_p.FAULT p)) (s.dev.get (Reg.LANE_PORT_STAT_p.FAULT_LANE p)))
  ∧ (∀ (s : State) (dt p w : Nat), live s p → s.dev.stage p = 6 → (s.dev.port p).wakeAt = some w → s.dev.allLocked p = false → 20000 ≤ (s.now dt).since w →
    falls (.wakeTimeout dt p) s dt p 8 (s.dev.firstUnlocked p))
  ∧ (∀ (s : State) (dt p : Nat), live s p → s.dev.stage p = 5 → (s.dev.port p).relock = true → (s.dev.port p).idle = none →
      1000000 ≤ (s.now dt).since (s.dev.port p).stageAt →
      (((s.dev.port p).fallback = true ∨ isCamera p = true) → falls (.doneTimeout dt p) s dt p 7 0)
      ∧ ((s.dev.port p).fallback = false → isCamera p = false → 1 ≤ s.dev.get (Reg.LANE_PORT_STAT_p.RATE p) →
          s.dev.get (Reg.LANE_PORT_CFG_p.MIN_RATE p) < s.dev.get (Reg.LANE_PORT_STAT_p.RATE p) → fallsBack (.doneTimeout dt p) s dt p))
  ∧ (∀ (s : State) (dt p m n : Nat) (gaps ages : List Nat) (lost : Bool), live s p → (rxMacros p).contains m = true →
      bitOf (s.dev.get (Reg.LANE_PORT_STAT_p.LOCKED p)) m = true → s.dev.on (Reg.LANE_PORT_CFG_p.MODE p) = false →
      s.dev.on (Reg.LANE_PORT_STAT_p.RX_IDLE p) = false → windowErrs 64 16 ((s.dev.port p).errs.getD m []) gaps = (ages, n, lost) →
      (lost = false → Alters (.blockLockLoss dt p m gaps) s dt lane (own p) fun t =>
        t.dev.get (Reg.LANE_CNT_p.BLOCK_ERR p) = min 65535 (s.dev.get (Reg.LANE_CNT_p.BLOCK_ERR p) + n)
        ∧ t.dev.get (Reg.LANE_PORT_STAT_p.LOCKED p) = s.dev.get (Reg.LANE_PORT_STAT_p.LOCKED p) ∧ t.dev.stage p = s.dev.stage p)
      ∧ (lost = true → s.dev.stage p = 6 → Alters (.blockLockLoss dt p m gaps) s dt lane (own p) fun t => t.dev.stage p = 7
        ∧ t.dev.get (Reg.LANE_PORT_STAT_p.FAULT p) = 2 ∧ t.dev.get (Reg.LANE_PORT_STAT_p.FAULT_LANE p) = m
        ∧ bitOf (t.dev.get (Reg.LANE_PORT_STAT_p.LOCKED p)) m = false
        ∧ t.dev.get (Reg.LANE_CNT_p.BLOCK_ERR p) = min 65535 (s.dev.get (Reg.LANE_CNT_p.BLOCK_ERR p) + n)
        ∧ t.dev.get (Reg.LANE_CNT2_p.RELOCKS p) = min 65535 (s.dev.get (Reg.LANE_CNT2_p.RELOCKS p) + 1) ∧ Tells (s.now dt) t 0x8003 [p, m, 0, 0]))
  ∧ (∀ (s : State) (dt p : Nat), s.dev.laneLive p = true → isCamera p = false → s.dev.mode ≠ .run → s.dev.stage p = 6 → p < s.dev.lane.ports.length →
      s.dev.on (Reg.LANE_PORT_CFG_p.SLEEP_EN p) = true → s.dev.on (Reg.LANE_PORT_CFG_p.MODE p) = false → s.dev.on (Reg.LANE_PORT_STAT_p.TX_IDLE p) = false →
      s.dev.get (Reg.LANE_PORT_CFG_p.SLEEP_IDLE p) * 1000 ≤ (s.now dt).since (s.dev.port p).lastTx →
    Alters (.txSleepTimeout dt p) s dt lane (block 8) fun t => t.dev.on (Reg.LANE_PORT_STAT_p.TX_IDLE p) = true ∧ (t.dev.port p).tx = .off
      ∧ List.replicate 8 (Output.block p 0x66 []) <+: t.dev.out.drop s.dev.out.length)
  ∧ (∀ (s : State) (dt p : Nat), s.dev.laneLive p = true → s.dev.stage p = 6 → p < s.dev.lane.ports.length →
      (s.dev.mode ≠ .run ∨ isCamera p = true →
        Leaves (.sleepBlock dt p) s ((s.now dt).put (Reg.LANE_PORT_STAT_p.RX_IDLE p) 1) fun t => t.dev.out = s.dev.out)
      ∧ (s.dev.mode = .run → isCamera p = false → s.dev.on (Reg.LANE_PORT_CFG_p.MODE p) = false →
        Leaves (.sleepBlock dt p) s ((((s.now dt).put (Reg.LANE_PORT_STAT_p.RX_IDLE p) 1).bump (Reg.LANE_CNT2_p.RELOCKS p)).wakeTx p) fun t =>
          t.dev.out.getLast? = some (.block p 0x99 []))
      ∧ (s.dev.on (Reg.LANE_PORT_STAT_p.TX_IDLE p) = true →
        Alters (.wakeBlock dt p) s dt lane (block 8) fun t => t.dev.on (Reg.LANE_PORT_STAT_p.TX_IDLE p) = false
          ∧ (t.dev.port p).trainTo = tbPlus (s.now dt).tb 2000
          ∧ (isCamera p = false → (t.dev.port p).tx = .wake (s.dev.get (Reg.LANE_PORT_STAT_p.RATE p)))))
  ∧ (∀ (s : State) (dt p : Nat) (regained : Bool), s.dev.laneLive p = true → s.dev.stage p = 6 → p < s.dev.lane.ports.length →
    Alters (.resyncBlock dt p regained) s dt lane noRegs fun t => (t.dev.port p).farLost = !regained
      ∧ (isCamera p = false → s.dev.on (Reg.LANE_PORT_CFG_p.MODE p) = false →
        (t.dev.port p).tx = .blocks (s.dev.get (Reg.LANE_PORT_STAT_p.RATE p)) (if regained then 16384 else 32) none))

/-- A PRBS test starts on an UP port: counters cleared, TEST sent 16 times and the pattern after it, the port in TEST; with LOOP 1 the pins stay in electrical idle, with LOOP 2 LOOP goes out first. Its end runs LOCK again at the same rate without CAP. A checker's lock is shown; its bit errors are counted, and 64 within 1,024 bits make it reseed. LOOP and TEST of the far side are kept. A compatibility port is UP at its first lock; its code violations are counted, and 16 within 640 groups are RELOCK. The elastic buffer repeats or deletes a filler at its thresholds and counts its overflow. An injection bit written in SETUP, or PARAM 0x8001 in READY, RUN or HOLD, hits the selected transmit lanes; in a test over the internal loop it reaches the looped checker. Some of it is the model's choice: log entry 65. -/
def Obligations.PortTestsAndInjection : Prop :=
  let lane (d : Dev) : Dev := { d with lane := Dev.reset.lane, link := Dev.reset.link }
  let own (p o : Nat) : Bool := block 8 o || decide (o / 4 = (Reg.LINK_STAT_n.STATE p).off / 4) || decide (o / 4 = Reg.RING_STAT.BROKEN.off / 4)
  (∀ (s : State) (dt p value : Nat), s.dev.lkOpen = true → p < 20 → s.dev.stage p = 6 → s.dev.on (Reg.LANE_TEST_p.TEST_EN p) = false →
      (s.dev.lk p).queue = [] → bitOf value 0 = true → bitOf value 16 = false → bitOf value 17 = false →
    Alters (.prbsTestStart dt p value) s dt lane (own p) fun t => t.dev.stage p = 8 ∧ t.dev.get (Reg.LANE_TEST_STAT_p.PRBS_LOCK p) = 0
      ∧ (∀ m, m < 4 → t.dev.get (Reg.LANE_PRBS_ERR_p_m.ERRORS p m) = 0)
      ∧ (p < s.dev.lane.ports.length → isCamera p = false → s.dev.on (Reg.LANE_PORT_CFG_p.MODE p) = false →
        (bitsOf value 3 2 = 1 → (t.dev.port p).tx = .off ∧ .block p 0xC3 [bitsOf value 1 2, bitsOf value 8 4] ∉ t.dev.out.drop s.dev.out.length)
        ∧ (bitsOf value 3 2 = 2 → .block p 0xAA [1] ∈ t.dev.out.drop s.dev.out.length)
        ∧ (bitsOf value 3 2 ≠ 1 → (t.dev.port p).tx = .prbs (bitsOf value 1 2) (bitsOf value 8 2)
          ∧ List.replicate 16 (Output.block p 0xC3 [bitsOf value 1 2, bitsOf value 8 4]) <:+: t.dev.out.drop s.dev.out.length)))
  ∧ (∀ (s : State) (dt p value : Nat), s.dev.lkOpen = true → p < s.dev.lane.ports.length → p < 20 → s.dev.stage p = 8 →
      s.dev.on (Reg.LANE_TEST_p.TEST_EN p) = true → bitOf value 0 = false → bitOf value 16 = false → bitOf value 17 = false →
    Alters (.prbsTestStop dt p value) s dt lane (block 8) fun t => t.dev.stage p = 2 ∧ t.dev.get (Reg.LANE_PORT_STAT_p.LOCKED p) = 0
      ∧ t.dev.get (Reg.LANE_PORT_STAT_p.RATE p) = s.dev.get (Reg.LANE_PORT_STAT_p.RATE p) ∧ (t.dev.port p).skipCap = true)
  ∧ (∀ (s : State) (dt p value m : Nat), s.dev.lkOpen = true → p < 20 → isCamera p = false → (s.dev.stage p = 6 ∨ s.dev.stage p = 8 ∧ bitOf value 0 = true) →
      s.dev.on (Reg.LANE_TEST_p.TEST_EN p) = bitOf value 0 → m < 2 → (m = 1 → s.dev.on (Reg.LANE_PORT_CFG_p.MODE p) = false) → bitOf value (8 + m) = true →
      (bitsOf value 3 2 ≠ 1 ∨ s.dev.stage p = 6 →
        (bitOf value 16 = true → bitOf value 17 = false → Alters (.injSingle dt p value) s dt (fun d => d) (block 8) fun t =>
          .inject p m false (bitOf value 18) 1 ∈ t.dev.out.drop s.dev.out.length)
        ∧ (bitOf value 16 = false → bitOf value 17 = true → Alters (.injBurst dt p value) s dt (fun d => d) (block 8) fun t =>
          .inject p m true (bitOf value 18) (max 1 (bitsOf value 24 8)) ∈ t.dev.out.drop s.dev.out.length))
      ∧ (bitsOf value 3 2 = 1 → s.dev.stage p = 8 → (p < 16 → m = 0) → bitOf value 16 = true → bitOf value 17 = false →
          bitOf (s.dev.get (Reg.LANE_TEST_STAT_p.PRBS_LOCK p)) (m + 2) = true → Alters (.injSingle dt p value) s dt lane (block 8) fun t =>
          t.dev.out = s.dev.out ∧ t.dev.get (Reg.LANE_PRBS_ERR_p_m.ERRORS p (m + 2)) = min 0xFFFFFFFF (s.dev.get (Reg.LANE_PRBS_ERR_p_m.ERRORS p (m + 2)) + 1)))
  ∧ (∀ (s : State) (dt ring : Nat) (x : Desc), (s.now dt).acceptsParam ring x 0x8001 readyRunHold true = true →
      valueExtra x [0xFF01FF, 0, 0, 0] = none → x.f 6 0 5 < 20 → isCamera (x.f 6 0 5) = false → x.f 6 5 2 < 2 →
      (x.f 6 5 2 = 1 → s.dev.on (Reg.LANE_PORT_CFG_p.MODE (x.f 6 0 5)) = false) →
    Leaves (.laneInject dt ring x) s (s.now dt) fun t => Ends (s.now dt) t ring x 0 0
      ∧ .inject (x.f 6 0 5) (x.f 6 5 2) (bitOf (x.w 6) 7) (bitOf (x.w 6) 8) (if bitOf (x.w 6) 7 then max 1 (x.f 6 16 8) else 1)
        ∈ t.dev.out.drop s.dev.out.length)
  ∧ (∀ (s : State) (dt p m : Nat), s.dev.laneLive p = true → s.dev.stage p = 8 → (rxMacros p).contains m = true →
    Leaves (.prbsLock dt p m) s (((s.now dt).put (Reg.LANE_TEST_STAT_p.PRBS_LOCK p) (setBit (s.dev.get (Reg.LANE_TEST_STAT_p.PRBS_LOCK p)) m true)).modPort p
      fun x => { x with bits := setAt x.bits m [] }) fun t => t.dev.out = s.dev.out)
  ∧ (∀ (s : State) (dt p m n : Nat) (gaps ages : List Nat) (full : Bool), s.dev.laneLive p = true → m < 4 →
      bitOf (s.dev.get (Reg.LANE_TEST_STAT_p.PRBS_LOCK p)) m = true → windowErrs 1024 64 ((s.dev.port p).bits.getD m []) gaps = (ages, n, full) →
    Alters (.prbsResync dt p m gaps) s dt lane (block 8) fun t => t.dev.out = s.dev.out
      ∧ t.dev.get (Reg.LANE_PRBS_ERR_p_m.ERRORS p m) = min 0xFFFFFFFF (s.dev.get (Reg.LANE_PRBS_ERR_p_m.ERRORS p m) + n)
      ∧ bitOf (t.dev.get (Reg.LANE_TEST_STAT_p.PRBS_LOCK p)) m = !full
      ∧ (t.dev.get (Reg.LANE_TEST_STAT_p.PRBS_RESYNC p) = (if full then min (2 ^ (Reg.LANE_TEST_STAT_p.PRBS_RESYNC p).w - 1)
        (s.dev.get (Reg.LANE_TEST_STAT_p.PRBS_RESYNC p) + 1) else s.dev.get (Reg.LANE_TEST_STAT_p.PRBS_RESYNC p))))
  ∧ (∀ (s : State) (dt p pattern lanes : Nat) (begin_ : Bool), s.dev.laneLive p = true → s.dev.stage p = 6 → p < s.dev.lane.ports.length →
    Alters (.loopBlock dt p begin_) s dt lane noRegs (fun t => (t.dev.port p).loop = begin_ ∧ (isCamera p = false → begin_ = true →
      (t.dev.port p).tx = .loopback))
    ∧ Leaves (.testBlock dt p pattern lanes) s ((s.now dt).modPort p fun x => { x with farTest := some (pattern % 4, lanes % 16) }) fun t =>
      t.dev.out = s.dev.out)
  ∧ (∀ (s : State) (dt p n : Nat) (runs : List Nat), s.dev.laneLive p = true → s.dev.on (Reg.LANE_PORT_CFG_p.MODE p) = true → (s.dev.lk p).queue = [] →
      s.dev.on (Reg.LANE_PORT_STAT_p.LOCKED p) = false → huntOn 4 ((s.dev.port p).hunt.getD 2 0) runs = (true, n) →
      let hide (d : Dev) : Dev := { d with lane := Dev.reset.lane, link := Dev.reset.link, net := Dev.reset.net }
      (s.dev.stage p = 2 → (s.dev.port p).fallback = false →
        Alters (.compatLock dt p runs) s dt hide (own p) fun t =>
          t.dev.stage p = 6 ∧ t.dev.get (Reg.LANE_PORT_STAT_p.LOCKED p) = 4 ∧ Tells (s.now dt) t 0x8001 [p, s.dev.get (Reg.LANE_PORT_STAT_p.RATE p),
            s.dev.get (Reg.LANE_FAR_CAP_LO_p.CAP_LO p), s.dev.get (Reg.LANE_FAR_CAP_HI_p.CAP_HI p)])
      ∧ (s.dev.stage p = 7 → Alters (.compatLock dt p runs) s dt hide (own p) fun t =>
          t.dev.stage p = 6 ∧ t.dev.get (Reg.LANE_PORT_STAT_p.LOCKED p) = 4
            ∧ Tells (s.now dt) t 0x8003 [p, s.dev.get (Reg.LANE_PORT_STAT_p.FAULT_LANE p), 1, (s.now dt).since (s.dev.port p).stageAt]))
  ∧ (∀ (s : State) (dt p n : Nat) (gaps ages : List Nat) (lost : Bool), s.dev.laneLive p = true → s.dev.on (Reg.LANE_PORT_CFG_p.MODE p) = true →
      (s.dev.lk p).queue = [] → s.dev.stage p = 6 → gaps ≠ [] → windowErrs 640 16 ((s.dev.port p).errs.getD 2 []) gaps = (ages, n, lost) →
    Alters (.compatLockLoss dt p gaps) s dt lane (own p) fun t =>
      t.dev.get (Reg.LANE_CNT3_p.CODE_VIOL p) = min 65535 (s.dev.get (Reg.LANE_CNT3_p.CODE_VIOL p) + n)
      ∧ t.dev.get (Reg.LANE_PORT_STAT_p.FAULT p) = (if lost then 2 else 10)
      ∧ (lost = true → t.dev.stage p = 7 ∧ t.dev.get (Reg.LANE_PORT_STAT_p.LOCKED p) = 0 ∧ Tells (s.now dt) t 0x8003 [p, 2, 0, 0])
      ∧ (lost = false → t.dev.stage p = 6))
  ∧ (∀ (s : State) (dt p : Nat) (drift : Int) (more : List Int), s.dev.laneLive p = true → s.dev.on (Reg.LANE_PORT_CFG_p.MODE p) = true → s.dev.stage p = 6 →
      let level : Int := (s.dev.port p).elastic + drift
      let set (d : Dev) (n : Int) : Dev := d.modPort p fun x => { x with elastic := n.toNat }
      (level < 0 ∨ 32 < level → Leaves (.elasticOverflow dt p [drift]) s (((set (s.now dt) 16).bump (Reg.LANE_CNT3_p.ELASTIC p)).put
        (Reg.LANE_PORT_STAT_p.FAULT p) 11 |>.put (Reg.LANE_PORT_STAT_p.FAULT_LANE p) 2) fun t => t.dev.out = s.dev.out)
      ∧ (20 < level → level ≤ 32 → Leaves (.elasticOverflow dt p [drift]) s ((set (s.now dt) (level - 2)).put (Reg.LANE_FILL_p.FILL_DEL p)
        (s.dev.get (Reg.LANE_FILL_p.FILL_DEL p) + 1)) fun t => t.dev.out = s.dev.out)
      ∧ (0 ≤ level → level < 12 → Leaves (.elasticOverflow dt p [drift]) s ((set (s.now dt) (level + 2)).put (Reg.LANE_FILL_p.FILL_INS p)
        (s.dev.get (Reg.LANE_FILL_p.FILL_INS p) + 1)) fun t => t.dev.out = s.dev.out)
      ∧ (12 ≤ level → level ≤ 20 → Leaves (.elasticOverflow dt p [drift]) s (set (s.now dt) level) fun t => t.dev.out = s.dev.out)
      ∧ ∃ t u, exec (.elasticOverflow dt p [drift]) s = .next t ∧ exec (.elasticOverflow 0 p more) t = .next u
        ∧ exec (.elasticOverflow dt p (drift :: more)) s = .next u)

/-! ## Head links -/

/-- A ready line of a row whose time has come leaves as a LINE frame, header, payload, CRC, at once on free lanes, else it waits for them; the row moves to the next line. A refetch that repairs a failed check is posted, counted and sent. An ACK with the CRC of a copy settles the row of the line as VERIFIED; LOST answers the oldest frame without an answer; without an answer in ACK_TMO the line is sent again with RESEND set, and at t_f + ACK_TMO it is settled as UNVERIFIED and counted. PAUSE is sent to a row without a next line at its deadline. TIME is sent every TIME_INT with the read time of a DCK edge. Each command waits for its ACK, is sent again three times, and then the link is UNFIT. Some of it is the model's choice: log entry 67. Where the frames that wait on a link stand in their order, commands, then resends, then lines by fire time and row, they still do once one more has taken its place, and every one is still there; a command in front leaves only on free lanes and keeps them busy. -/
def Obligations.LineFramesAndAnswers : Prop :=
  let sending (d : Dev) : Dev := { d with link := Dev.reset.link, lane := Dev.reset.lane, chk := { d.chk with frames := [] }, recd := { d.recd with hists := [] } }
  let linkLane (d : Dev) : Dev := { d with link := Dev.reset.link, lane := Dev.reset.lane }
  let links (o : Nat) : Bool := block 9 o || block 8 o || block 0xD o || decide (o / 4 = Reg.REC_STAT.HIST_HELD.off / 4)
  let out (s : State) (n kind : Nat) (words : List Nat) : Output :=
    if s.dev.on (Reg.LANE_PORT_CFG_p.MODE n) then .groups n (compatFrame kind words) else .lanes n (stripe 2 kind words)
  let frame (s : State) (n r tag line flags w0 w1 : Nat) (payload : List Nat) : Output := out s n 1 ((w0 + flags * 2 ^ 56) :: w1 :: payload
    ++ [linkCrc (linePrefix n r line tag) ((w0 + flags * 2 ^ 56) :: w1 :: payload)])
  let command (s : State) (n seq : Nat) (words : List Nat) : Output := out s n 5 (words ++ [linkCrc ([n, 0x20] ++ leBytes 5 seq ++ [0]) words])
  let empty (s : State) (n : Nat) : Prop := (s.dev.lk n).queue = []
  let idle (s : State) (dt n : Nat) : Prop := empty s n ∧ (s.now dt).startAt n ≤ (s.now dt).tb * 65536
  let cmdWord (s : State) (n cmd mask : Nat) : Nat := cmd + (s.dev.lk n).cmdSeq * 2 ^ 8 + s.dev.get Reg.RING_STAT.EPOCH * 2 ^ 16 + mask * 2 ^ 20
  let fresh (s : State) (n : Nat) : Prop := ∀ c ∈ (s.dev.lk n).cmds, c.seq ≠ (s.dev.lk n).cmdSeq
  (∀ (s : State) (dt n r line tf : Nat) (j : Job) (e : RowEntry), s.dev.sendsLines = true → r < s.dev.rowsOf n → empty s n →
      s.dev.rowNext n r = some (j, line) → s.dev.job? j.tag = some j → (s.now dt).fireAt n r j line = some tf →
      s.dev.beforeResume n j line = false → s.dev.linkFit n = true → tf ≤ (s.now dt).tb * 65536 + s.dev.get Reg.LINK_LEAD.TARGET * 65536000 →
      s.dev.rowEntry? n r j.tag line = some e → (((s.dev.lk n).fifo.take 64).any fun f => f.tag == j.tag && f.line == line) = true →
      (s.now dt).startAt n + s.dev.lineTime n r j ≤ sendBy tf → (s.dev.lk n).depthSent = some (s.dev.wantDepth n) → s.dev.wantDepth n = j.depth →
      e.crcs = [] → e.header = none → e.outcome = none → e.poison = false → sourceCheck n r line j.tag e.payload = e.sc →
      ((s.now dt).startAt n ≤ (s.now dt).tb * 65536 →
        Alters (.lineFrameDue dt n r none) s dt sending links fun t =>
          (t.dev.out.drop s.dev.out.length).head? = some (frame s n r j.tag line 0 ((s.now dt).lineHeader n r j line tf false).1
            ((s.now dt).lineHeader n r j line tf false).2.1 e.payload)
          ∧ ((t.dev.lk n).row r).next = some (j.tag, line + 1) ∧ (∀ m, m ≠ n → t.dev.lk m = s.dev.lk m)
          ∧ (t.dev.lk n).sent = (s.dev.lk n).sent ++ [.line r j.tag line]
          ∧ ∃ x, t.dev.rowEntry? n r j.tag line = some x ∧ x.crcs.length = 1 ∧ x.outcome = e.outcome)
      ∧ ((s.now dt).tb * 65536 < (s.now dt).startAt n →
        Alters (.lineFrameDue dt n r none) s dt sending links fun t => (t.dev.lk n).queue = [.line false r j.tag line tf e.payload]
          ∧ ((t.dev.lk n).row r).next = some (j.tag, line + 1) ∧ (t.dev.lk n).sent = (s.dev.lk n).sent ∧ (t.dev.lk n).fifo = (s.dev.lk n).fifo))
  ∧ (∀ (s : State) (dt n r tag line sc w0 w1 tf : Nat) (j : Job) (e : RowEntry) (p1 : List Nat), idle s dt n → s.dev.sendsLines = true →
      s.dev.job? tag = some j → s.dev.rowEntry? n r tag line = some e → e.refetch = some (p1, sc) → e.header = some (w0, w1, tf) → e.crcs = [] →
      e.outcome = none → e.poison = false → (s.now dt).startAt n + s.dev.lineTime n r j ≤ sendBy tf → s.dev.linkFit n = true →
      sourceCheck n r line tag e.payload = e.sc → e.payload ≠ p1 →
    Alters (.lineRefetchDone dt n r tag line none) s dt sending links fun t => Tells (s.now dt) t 0xD005 [n, r, tag, line % 2 ^ 32, 0, sc]
      ∧ t.dev.get Reg.CHK_LINECHK.REPAIRED = min 65535 (s.dev.get Reg.CHK_LINECHK.REPAIRED + 1)
      ∧ frame s n r tag line 0 w0 w1 e.payload ∈ t.dev.out.drop s.dev.out.length)
  ∧ (∀ (s : State) (dt n row line : Nat) (j : Job) (e : RowEntry) (bytes : List Byte) (read : Option RowRead), s.dev.mode.served = true → n < 16 →
      s.dev.portIsUp n = true → empty s n → bytes.length = 7 → leAt (natBytes bytes) 0 1 % 16 = row →
      s.dev.openLine n row (fun f => f.line % 65536 == leAt (natBytes bytes) 1 2) = some (j, line, e) → e.crcs.contains (leAt (natBytes bytes) 3 4) = true →
      e.mismatched = false → s.dev.on (Reg.LINK_STAT_n.SILENT n) = false → s.dev.rowEntry? n row j.tag line = some e → e.poison = false → row < 4 →
      s.dev.jobs.all (fun k => k.phase != .ending) = true →
    Alters (.acknak dt n bytes read) s dt (fun d => { d with link := Dev.reset.link, chk := { d.chk with frames := [] } }) noRegs fun t =>
      ∀ f ∈ (t.dev.lk n).fifo, f.tag = j.tag → f.line = line → ∀ x, f.rows[row]? = some x → x.outcome = some oVerified)
  ∧ (∀ (s : State) (dt n : Nat) (bytes : List Byte) (read : Option RowRead), s.dev.mode.served = true → n < 16 → s.dev.portSends n = true → empty s n →
      bytes.length = 7 → bitsOf (leAt (natBytes bytes) 0 1) 2 2 = 2 →
    Leaves (.acknak dt n bytes read) s
      ((s.now dt).modLk n fun l => { l with sent := l.sent.eraseP (· == .cmd (leAt (natBytes bytes) 1 2 % 256))
                                            cmds := l.cmds.filter fun c => c.seq != leAt (natBytes bytes) 1 2 % 256 }) fun t => t.dev.out = s.dev.out)
  ∧ (∀ (s : State) (dt n r tag line w0 w1 tf : Nat) (j : Job) (e : RowEntry) (rest : List Unanswered) (bytes : List Byte), s.dev.mode.served = true → n < 16 →
      idle s dt n → bytes.length = 7 → bitsOf (leAt (natBytes bytes) 0 1) 2 6 % 2 = 1 → bitsOf (leAt (natBytes bytes) 0 1) 4 4 = 7 →
      (s.dev.lk n).sent = .line r tag line :: rest → s.dev.openLine n r (fun f => f.tag == tag && f.line == line) = some (j, line, e) →
      s.dev.rowEntry? n r tag line = some e → j.tag = tag → (s.now dt).canResend n r j line e = true →
      e.header = some (w0, w1, tf) → sourceCheck n r line tag e.payload = e.sc → e.poison = false →
    Alters (.acknak dt n bytes none) s dt sending links fun t =>
      t.dev.get (Reg.LINK_CNT_n.NAKS n) = min 65535 (s.dev.get (Reg.LINK_CNT_n.NAKS n) + 1)
      ∧ (t.dev.lk n).sent = rest ++ [.line r tag line] ∧ t.dev.out = s.dev.out ++ [frame s n r tag line 1 w0 w1 e.payload])
  ∧ (∀ (s : State) (dt n r tag line w0 w1 tf : Nat) (j : Job) (e : RowEntry), idle s dt n →
      s.dev.openLine n r (fun f => f.tag == tag && f.line == line) = some (j, line, e) → s.dev.rowEntry? n r tag line = some e → j.tag = tag →
      s.dev.unansweredCopies n r tag line ≠ 0 → e.lastBlock + s.dev.get Reg.LINK_HOLD.ACK_TMO * 1000 ≤ (s.now dt).tb →
      (s.now dt).canResend n r j line e = true → e.header = some (w0, w1, tf) → sourceCheck n r line tag e.payload = e.sc → e.poison = false →
    Alters (.ackTimeout dt n r tag line none) s dt sending links fun t =>
      t.dev.get (Reg.LINK_CNT_n.RESENDS n) = min 65535 (s.dev.get (Reg.LINK_CNT_n.RESENDS n) + 1)
      ∧ t.dev.out = s.dev.out ++ [frame s n r tag line 1 w0 w1 e.payload])
  ∧ (∀ (s : State) (dt n r tag line w0 w1 tf : Nat) (j : Job) (e : RowEntry), empty s n →
      s.dev.openLine n r (fun f => f.tag == tag && f.line == line) = some (j, line, e) → e.header = some (w0, w1, tf) →
      tf + s.dev.get Reg.LINK_HOLD.ACK_TMO * 65536000 ≤ (s.now dt).tb * 65536 → e.answer ≠ 1 → s.dev.rowEntry? n r tag line = some e → e.poison = false →
      s.dev.jobs.all (fun k => k.phase != .ending) = true →
    Alters (.lineSettleTimeout dt n r tag line) s dt (fun d => { d with link := Dev.reset.link, chk := { d.chk with frames := [] } })
        (fun o => block 9 o || block 0xD o) fun t =>
      t.dev.get (Reg.LINK_CNT2_n.UNVERIFIED n) = min 65535 (s.dev.get (Reg.LINK_CNT2_n.UNVERIFIED n) + 1)
      ∧ ∀ f ∈ (t.dev.lk n).fifo, f.tag = tag → f.line = line → ∀ x, f.rows[r]? = some x → x.outcome = some oUnverified)
  ∧ (∀ (s : State) (dt n r tag line next : Nat), idle s dt n → fresh s n → ((s.dev.lk n).row r).last = some (tag, line, next) → s.dev.sendsLines = true →
      r < s.dev.rowsOf n → s.dev.linkFit n = true → ((s.dev.lk n).row r).paused = false → (s.now dt).pauseReason n r = true →
      next ≤ (s.now dt).tb * 65536 + s.dev.get Reg.LINK_LEAD.TARGET * 65536000 →
    Alters (.pauseDeadline dt n r) s dt linkLane (fun o => block 9 o || block 8 o) fun t =>
      ((t.dev.lk n).row r).paused = true ∧ ∃ c, (t.dev.lk n).cmds = (s.dev.lk n).cmds ++ [c]
        ∧ c.words = [cmdWord s n 3 (2 ^ r), line % 2 ^ 40 + tag * 2 ^ 40] ∧ t.dev.out = s.dev.out ++ [command s n c.seq c.words])
  ∧ (∀ (s : State) (dt n phase period : Nat), s.dev.mode.served = true → n < 16 → s.dev.link.links.length = 16 → s.dev.on (Reg.LINK_CFG_n.EN n) = true →
      s.dev.portSends n = true → idle s dt n → fresh s n →
      (if s.dev.on (Reg.LANE_PORT_CFG_p.MODE n) then min (s.dev.get Reg.LINK_TIME.TIME_INT * 1000) 100000 else s.dev.get Reg.LINK_TIME.TIME_INT * 1000)
        ≤ (s.now dt).since (s.dev.lk n).timeAt →
    Alters (.timeCommand dt n phase period) s dt linkLane (block 8) fun t =>
      (t.dev.lk n).timeAt = (s.now dt).tb ∧ (t.dev.lk n).cmds.length = (s.dev.lk n).cmds.length + 1
        ∧ t.dev.out = s.dev.out ++ [command s n (s.dev.lk n).cmdSeq [cmdWord s n 2 0,
          (s.now dt).readTime32 (((s.now dt).tb * 65536 : Nat) - ((phase % max 1 (period % 2 ^ 40 / 65536) : Nat) : Int)) % 2 ^ 64, period % 2 ^ 40]])
  ∧ (∀ (s : State) (dt n : Nat), s.dev.portSends n = true → empty s n → ((s.dev.lk n).cmds.map (·.seq)).Nodup →
      (∀ c ∈ (s.dev.lk n).cmds, s.dev.get Reg.LINK_HOLD.ACK_TMO * 1000 ≤ (s.now dt).since c.sentAt) →
    Alters (.headCommandTimeout dt n) s dt linkLane (fun o => block 8 o || decide (o / 4 = (Reg.LINK_STAT_n.STATE n).off / 4)) fun t =>
      ∀ c ∈ (s.dev.lk n).cmds,
        (c.tries < 3 → ∃ x ∈ (t.dev.lk n).cmds, x.seq = c.seq ∧ x.words = c.words ∧ x.tries = c.tries + 1)
        ∧ (3 ≤ c.tries → (∀ x ∈ (t.dev.lk n).cmds, x.seq ≠ c.seq) ∧ (t.dev.lk n).fit = 1))
  ∧ (∀ (s : State) (dt n : Nat) (c : HeadCmd), (s.dev.lk n).cmds = [c] → s.dev.portSends n = true →
      s.dev.get Reg.LINK_HOLD.ACK_TMO * 1000 ≤ (s.now dt).since c.sentAt →
      (c.tries < 3 → idle s dt n → c.words.headD 0 % 256 ≠ 2 → Alters (.headCommandTimeout dt n) s dt linkLane (block 8) fun t =>
        t.dev.out = s.dev.out ++ [command s n c.seq c.words])
      ∧ (3 ≤ c.tries → empty s n → Alters (.headCommandTimeout dt n) s dt linkLane (block 9) fun t => (t.dev.lk n).cmds = []
        ∧ t.dev.get (Reg.LINK_STAT_n.STATE n) = (if (s.dev.lk n).halted then 5 else 1)
        ∧ Tells (s.now dt) t 0x9008 [n, 5, s.dev.get (Reg.LANE_FAR_CAP_LO_p.CAP_LO n)]))
  ∧ (
      let inOrder (a b : Waiting) : Prop := match a, b with
        | .cmd _, _ => True
        | .line _ _ _ _ _ _, .cmd _ => False
        | .line true _ _ _ _ _, .line _ _ _ _ _ _ => True
        | .line false _ _ _ _ _, .line true _ _ _ _ _ => False
        | .line false r _ _ t _, .line false r' _ _ t' _ => t < t' ∨ t = t' ∧ r ≤ r'
      (∀ (w : Waiting) (q : List Waiting), q.Pairwise inOrder → (placed w q).Pairwise inOrder ∧ (placed w q).Perm (w :: q))
      ∧ (∀ (d e : Dev) (n seq : Nat) (rest : List Waiting), (d.lk n).queue = .cmd seq :: rest → d.frontFrame n = some e →
          (d.lk n).busy ≤ d.tb * 65536 ∧ d.portSends n = true ∧ (e.lk n).queue = rest
            ∧ ((d.cmd? n seq).isSome = true → (d.lk n).busy < (e.lk n).busy)))

/-- A good status without faults shows its temperature and supply, clears SILENT and names the hot rows; the first row at or above LIMIT and below HARD sets HOT, caps the web at 15/16 of its speed and posts HEAD_HOT (0x9003); a row at HARD halts the link. Silence for STATUS_TMO sets SILENT and HOT and posts HEAD_SILENT (0x9007); 1 ms of it halts. Every 1 ms of heat the cap falls by 1/16. 100 ms below LIMIT less 2 C lift the cap; 100 ms below HARD less 2 C resume the link. LEAD_SET sets the target lead from 8 to 200 us. Some of it is the model's choice: log entry 72. The words of a frame of any length, striped over n lanes, SOF on every lane and PAD after the last word, are what the receiver makes of the slots, also where a slot of ALIGN or ACKNAK blocks stands between any two of them; a control block of another type makes it discard the frame. -/
def Obligations.HeadStatusAndTemperature : Prop :=
  let good (s : State) (n : Nat) (slots : List (List LaneBlock)) (words : List Nat) : Prop := s.dev.brings n 2 slots words = true
    ∧ s.dev.on (Reg.LINK_CFG_n.EN n) = true ∧ n < 16 ∧ s.dev.link.links.length = 16 ∧ s.dev.rowsOf n ≤ 4 ∧ words.length = 6 ∧ (s.dev.lk n).queue = []
    ∧ linkCrc ([n, 0x10] ++ leBytes 5 (bitsOf (words.getD 0 0) 0 16) ++ [0]) (words.take 5) = bitsOf (words.getD 5 0) 0 32
    ∧ bitsOf (words.getD 0 0) 32 16 = 0 ∧ (∀ r, r < s.dev.rowsOf n → bitsOf (words.getD (r + 1) 0) 32 24 = 0)
    ∧ s.dev.on (Reg.LINK_STAT_n.SILENT n) = false
  let temp (words : List Nat) (r : Nat) : Int := signedOf 16 (bitsOf (words.getD (r + 1) 0) 0 16)
  let halts (d : Dev) : Dev := { d with link := Dev.reset.link, lane := Dev.reset.lane, chk := { d.chk with frames := [] } }
  let block89D (o : Nat) : Bool := block 8 o || block 9 o || block 0xD o
  (∀ (s : State) (dt n : Nat) (slots : List (List LaneBlock)) (words : List Nat), good s n slots words →
      (∀ r, r < s.dev.rowsOf n → temp words r < s.dev.limitOf n ∧ temp words r < s.dev.hardOf n) →
    Alters (.headStatus dt n slots) s dt (fun d => { d with link := Dev.reset.link }) (block 9) fun t => t.dev.out = s.dev.out
      ∧ t.dev.get (Reg.LINK_STAT_n.HOT_ROWS n) = 0 ∧ t.dev.get (Reg.LINK_HEAD_n.SUPPLY n) = bitsOf (words.getD 0 0) 16 16
      ∧ (t.dev.lk n).statusAt = (s.now dt).tb
      ∧ (∃ r, r < s.dev.rowsOf n ∧ t.dev.get (Reg.LINK_HEAD_n.TEMP_MAX n) = fieldOf 16 (temp words r)
          ∧ ∀ k, k < s.dev.rowsOf n → temp words k ≤ temp words r)
      ∧ ∀ r, r < s.dev.rowsOf n → r < (s.dev.lk n).rows.length → ((t.dev.lk n).row r).temp = temp words r
          ∧ ((t.dev.lk n).row r).lastLine = bitsOf (words.getD (r + 1) 0) 16 16)
  ∧ (∀ (s : State) (dt n r : Nat) (slots : List (List LaneBlock)) (words : List Nat), good s n slots words → r < s.dev.rowsOf n → s.dev.limitOf n ≤ temp words r →
      (∀ k, k < r → temp words k < s.dev.limitOf n) →
      ((∀ k, k < s.dev.rowsOf n → temp words k < s.dev.hardOf n) → s.dev.on (Reg.LINK_STAT_n.HOT n) = false →
        Alters (.headStatus dt n slots) s dt (fun d => { d with link := Dev.reset.link }) (block 9) fun t =>
          t.dev.on (Reg.LINK_STAT_n.HOT n) = true ∧ bitOf (t.dev.get (Reg.LINK_STAT_n.HOT_ROWS n)) r = true
          ∧ t.dev.get (Reg.LINK_CAP_n.CAP n) = s.dev.webSpeed * 15 / 16 % 2 ^ 32
          ∧ Tells (s.now dt) t 0x9003 [n, r, fieldOf 32 (temp words r), s.dev.webSpeed * 15 / 16, 0])
      ∧ (s.dev.hardOf n ≤ temp words r → (s.dev.lk n).halted = false → s.dev.jobs.all (fun k => k.phase != .ending) = true → Alters (.headStatus dt n slots) s dt halts block89D fun t => t.dev.get (Reg.LINK_STAT_n.STATE n) = 5))
  ∧ (∀ (s : State) (dt n : Nat), n < 16 → s.dev.mode.served = true → s.dev.on (Reg.LINK_CFG_n.EN n) = true →
      (s.dev.portIsUp n = true ∨ (s.dev.lk n).statusAt ≠ 0) →
      (s.dev.on (Reg.LINK_STAT_n.SILENT n) = false → s.dev.get Reg.LINK_HOLD.STATUS_TMO * 10000 ≤ (s.now dt).since (s.dev.lk n).statusAt →
          (s.now dt).since (s.dev.lk n).statusAt ≠ 0 →
        Alters (.statusTimeout dt n) s dt halts block89D fun t => t.dev.on (Reg.LINK_STAT_n.SILENT n) = true ∧ t.dev.on (Reg.LINK_STAT_n.HOT n) = true
          ∧ Tells (s.now dt) t 0x9007 [n, (s.now dt).since (s.dev.lk n).statusAt / 1000])
      ∧ (s.dev.on (Reg.LINK_STAT_n.SILENT n) = true → (s.dev.lk n).silentHard = false → (s.dev.lk n).halted = false → (s.dev.lk n).queue = [] → 1000000 ≤ (s.now dt).since (s.dev.lk n).statusAt →
          s.dev.jobs.all (fun k => k.phase != .ending) = true →
        Alters (.silenceHardTimeout dt n) s dt halts block89D fun t => t.dev.get (Reg.LINK_STAT_n.STATE n) = 5))
  ∧ (∀ (s : State) (dt n : Nat), n < 16 → s.dev.on (Reg.LINK_STAT_n.HOT n) = true →
      (s.dev.on (Reg.LINK_STAT_n.HOT_ROWS n) = true ∨ s.dev.on (Reg.LINK_STAT_n.SILENT n) = true) → 1000000 ≤ (s.now dt).since (s.dev.lk n).capAt →
    Leaves (.headCapStep dt n) s (((s.now dt).put (Reg.LINK_CAP_n.CAP n)
      (s.dev.get (Reg.LINK_CAP_n.CAP n) - s.dev.get (Reg.LINK_CAP_n.CAP n) / 16)).modLk n fun l => { l with capAt := (s.now dt).tb }) fun t =>
        t.dev.out = s.dev.out)
  ∧ (∀ (s : State) (dt n c : Nat), (s.dev.lk n).coolSince = some c → s.dev.on (Reg.LINK_STAT_n.HOT n) = true →
      s.dev.on (Reg.LINK_STAT_n.SILENT n) = false → 100000000 ≤ (s.now dt).since c →
    Leaves (.headCoolTimeout dt n) s (((s.now dt).put (Reg.LINK_STAT_n.HOT n) 0).put (Reg.LINK_CAP_n.CAP n) 0xFFFFFFFF) fun t =>
      ∃ v, Tells (s.now dt) t 0x9003 [n, 0, v, 0xFFFFFFFF, 1])
  ∧ (∀ (s : State) (dt n c tag line : Nat), (s.dev.lk n).hardCool = some c → n < 16 → (s.dev.lk n).halted = true → (s.dev.lk n).queue = [] →
      s.dev.on (Reg.LINK_STAT_n.SILENT n) = false → 100000000 ≤ (s.now dt).since c →
      (match s.dev.resumeLine n with | some (j, l) => (j.tag, l) | none => (0, 0)) = (tag, line) →
    Alters (.hardCoolTimeout dt n) s dt (fun d => { d with link := Dev.reset.link, lane := Dev.reset.lane }) (fun o => block 8 o || block 9 o) fun t =>
      t.dev.get (Reg.LINK_STAT_n.STATE n) = (if s.dev.portIsUp n = false ∨ (s.dev.lk n).fit = 0 then 0 else if (s.dev.lk n).fit = 1 then 1 else 2) ∧ (t.dev.lk n).hardCool = none
      ∧ Tells (s.now dt) t 0x9005 [n, tag, line % 2 ^ 32])
  ∧ (∀ (s : State) (dt ring : Nat) (x : Desc), (s.now dt).acceptsParam ring x 0x9001 readyRunHold true = true → valueExtra x [0xFF, 0, 0, 0] = none →
      8 ≤ x.w 6 → x.w 6 ≤ 200 →
    Leaves (.leadSet dt ring x) s ((s.now dt).put Reg.LINK_LEAD.TARGET (x.w 6)) fun t => Ends (s.now dt) t ring x 0 0)
  ∧ (∀ (n kind : Nat) (words : List Nat), 0 < n → (∀ w ∈ words, w < 2 ^ 64) →
    (∀ b ∈ (stripe n kind words).headD [], sofOf b = some (kind, words.length % 65536))
    ∧ frameWalk words.length (stripe n kind words).tail [] = .whole words)
  ∧ (∀ (n kind i type : Nat) (words payload : List Nat), 0 < n → (∀ w ∈ words, w < 2 ^ 64) → (type = 0x78 ∨ type = 0x55) →
    frameWalk words.length ((stripe n kind words).tail.insertIdx i (List.replicate n (.control type payload))) [] = .whole words)
  ∧ (∀ (n kind i type : Nat) (words payload : List Nat), 0 < n → (∀ w ∈ words, w < 2 ^ 64) → type ≠ 0x78 → type ≠ 0x55 → n * i < words.length →
    frameWalk words.length ((stripe n kind words).tail.insertIdx i (List.replicate n (.control type payload))) [] = .discard (some (.control type payload)))

/-! ## Network time -/

/-- An Announce joins the senders of its tracker, and the best sender that qualifies is its master. A Sync in two steps keeps a receive stamp within 2 ns; its Follow_Up gives e_t, shown in E; the source's tracker, LOCKED and not stepped, then sets the rate to r_t plus e_t over TAU. Delay_Resp and Pdelay_Resp_Follow_Up give the path delay; a slave's request keeps its transmit stamp. Without a Sync for SYNC_TMO, or with the port's link lost, the tracker is LOST and TIME_LOST is posted; a lost source is HOLDOVER. A link that comes up is shown, on DRV with an event; a frame of a size, tag count or Ethertype that the port does not take in is counted. Some of it is the model's choice: log entries 82, 83, 84 and 85. -/
def Obligations.TrackersFollowTheirMasters : Prop :=
  let trks (d : Dev) : Dev := { d with time := { d.time with trks := [] } }
  let one (s : State) (port domain k : Nat) : Prop := s.dev.trksOf port domain = [k] ∧ k < s.dev.time.trks.length
  let stat (k o : Nat) : Bool := k < 2 && (decide (o / 4 = (Reg.TIME_TRK_STAT_t.STATE k).off / 4) || decide (o / 4 = (Reg.TIME_TRK_ERR_t.E k).off / 4)
    || decide (o / 4 = (Reg.TIME_TRK_GM_t.GM k).off / 4)) || decide (o / 4 = Reg.TIME_STAT.HOLDOVER.off / 4)
  let err (s : State) (k : Nat) (origin : Nat) (corr rx : Int) : Int := ((origin : Int) * 65536 + corr + (s.dev.trk k).delay) / (65536 : Nat)
    - signedOf 64 ((s.now 0).timeOf rx)
  let quiet (s : State) : Prop := ∀ n, (s.dev.lk n).queue = []
  (∀ (s : State) (dt port k : Nat) (a : PtpAnnounce), one s port a.domain k → k < 2 →
    Alters (.ptpAnnounce dt port a) s dt trks (stat k) fun t => t.dev.out = s.dev.out ∧ (∀ j, j ≠ k → j < 2 → t.dev.trk j = s.dev.trk j)
      ∧ (∃ f ∈ (t.dev.trk k).foreign, f.ann = a ∧ f.at_ = (s.now dt).tb)
      ∧ (∀ f, t.dev.bestForeign k = some f → (t.dev.trk k).best = some f.ann.source
          ∧ ((s.dev.trk k).best ≠ some f.ann.source → t.dev.get (Reg.TIME_TRK_GM_t.GM k) = f.ann.identity % 2 ^ 32)))
  ∧ (∀ (s : State) (dt port k : Nat) (m : Ptp), one s port m.domain k → (s.dev.trk k).best = some m.source → m.twoStep = true →
    Alters (.ptpSync dt port m) s dt trks noRegs fun t => t.dev.out = s.dev.out ∧ (∀ j, j ≠ k → t.dev.trk j = s.dev.trk j)
      ∧ ∃ f, f ≤ 4 ∧ (t.dev.trk k).two
          = some (m.seq, (((s.now dt).tb : Int) + (f : Nat) - 2 - (s.dev.get (Reg.TIME_PORT_LAT_p.RX port) : Nat)) * 65536, m.corr))
  ∧ (∀ (s : State) (dt port k : Nat) (m : Ptp) (rx corr : Int), one s port m.domain k → (s.dev.trk k).best = some m.source →
      (s.dev.trk k).two = some (m.seq, rx, corr) →
      (s.dev.isSource k = false → Alters (.ptpFollowUp dt port m) s dt trks (stat k) fun t => (t.dev.trk k).err = err s k m.time (m.corr + corr) rx
        ∧ (t.dev.trk k).syncAt = (s.now dt).tb ∧ (t.dev.trk k).two = none
        ∧ (k < 2 → t.dev.get (Reg.TIME_TRK_ERR_t.E k)
            = fieldOf 32 (max (-(2 ^ 31 : Nat)) (min ((2 ^ 31 : Nat) - 1) (err s k m.time (m.corr + corr) rx)))))
      ∧ (s.dev.isSource k = true → quiet s → s.dev.trkState k = 2 → s.dev.on Reg.TIME_STAT.SLEWING = false → (s.dev.trk k).steerAt = none →
          s.dev.get Reg.TIME_SERVO.STEP_LIM = 0 →
        Alters (.ptpFollowUp dt port m) s dt (fun d => { d with time := Dev.reset.time, link := Dev.reset.link, lane := Dev.reset.lane })
          (fun o => block 4 o || block 8 o) fun t => (t.dev.trk k).err = err s k m.time (m.corr + corr) rx ∧ ∃ up,
            t.dev.get Reg.TIME_RATE.RATE = fieldOf 32 (rateClamp ((t.dev.trk k).rate + s.dev.servoTerm (err s k m.time (m.corr + corr) rx) up))))
  ∧ (∀ (s : State) (dt port k : Nat) (m : Ptp) (t3 : Int), one s port m.domain k → (s.dev.trk k).best = some m.source → s.dev.trkP2p k = false →
      m.requester = portIdentity port → (s.dev.trk k).asked = some (m.seq, t3) →
    Leaves (.ptpDelayResp dt port m) s ((s.now dt).modTrk k fun x => { x with
      asked := none, delay := (((m.time : Int) * 65536 - m.corr - x.t1) - (t3 - x.t2)) / 2 }) fun t => t.dev.out = s.dev.out)
  ∧ (∀ (s : State) (dt port k : Nat) (m : Ptp) (t1 t4 t2 corr : Int), one s port m.domain k → s.dev.trkP2p k = true →
      m.requester = portIdentity port → (s.dev.trk k).asked = some (m.seq, t1) → (s.dev.trk k).peer = some (t4, t2, corr) →
    Leaves (.ptpPdelayResp dt port m true) s ((s.now dt).modTrk k fun x => { x with
      asked := none, peer := none, delay := ((t4 - t1) - ((m.time : Int) * 65536 - t2) - corr - m.corr) / 2 }) fun t => t.dev.out = s.dev.out)
  ∧ (∀ (s : State) (dt k : Nat), k ≤ 2 → k < s.dev.time.trks.length → s.dev.ptpOn (s.dev.trkPort k) = true → s.dev.trkOn k = true →
      (s.dev.trkP2p k = true ∨ (s.dev.trk k).best.isSome = true) →
    Alters (.ptpDelayReqTransmit dt k) s dt trks noRegs fun t => (t.dev.trk k).seq = ((s.dev.trk k).seq + 1) % 65536
      ∧ t.dev.out = s.dev.out ++ [.ptp (s.dev.trkPort k) (if s.dev.trkP2p k then 2 else 1) (s.dev.trkDomain k) (s.dev.trk k).seq false 0 [0, 0]]
      ∧ (∀ j, j ≠ k → t.dev.trk j = s.dev.trk j) ∧ ∃ f, f ≤ 4 ∧ (t.dev.trk k).asked = some ((s.dev.trk k).seq,
          (((s.now dt).tb : Int) + (f : Nat) - 2 + (s.dev.get (Reg.TIME_PORT_LAT_p.TX (s.dev.trkPort k)) : Nat)) * 65536))
  ∧ (∀ (s : State) (dt k : Nat), k < 2 → s.dev.mode.served = true → s.dev.trkOn k = true → (s.dev.trk k).best.isSome = true →
      s.dev.get (Reg.TIME_TRK_CFG_t.SYNC_TMO k) * 10000000 ≤ (s.now dt).since (s.dev.trk k).syncAt → (s.dev.trkState k = 1 ∨ s.dev.trkState k = 2) →
      (s.dev.isSource k = false ∨ s.dev.time.slew = none ∧ s.dev.on Reg.TIME_CFG.AUTO_SWITCH = false) →
    Alters (.syncTimeout dt k) s dt trks (stat k) fun t => t.dev.trkState k = 3 ∧ Tells (s.now dt) t 0x4002 [k, 0, b2n (s.dev.isSource k)]
      ∧ (s.dev.isSource k = true → t.dev.on Reg.TIME_STAT.HOLDOVER = true))
  ∧ (∀ (s : State) (dt port : Nat), port < 2 → s.dev.mode ≠ .off →
    (s.dev.on (Reg.TIME_PORT_CNT_p.LINK port) = true → Idles (.ethernetLinkUp dt port) s dt)
    ∧ (s.dev.on (Reg.TIME_PORT_CNT_p.LINK port) = false → (port = 0 → s.dev.mode.served = true) →
      Leaves (.ethernetLinkUp dt port) s ((s.now dt).put (Reg.TIME_PORT_CNT_p.LINK port) 1) fun t =>
        (port = 0 → Tells (s.now dt) t 0x5008 [s.dev.linen.policy.getD 48 0, 1]) ∧ (port = 1 → t.dev.out = s.dev.out))
    ∧ (s.dev.on (Reg.TIME_PORT_CNT_p.LINK port) = true → ∀ size tags etype,
      Leaves (.ethFrameDiscard dt port size tags etype) s
        (if size < 64 ∨ 1522 < size ∨ 1 < tags ∨ etype ≠ 0x88F7 ∧ (port ≠ 0 ∨ etype ≠ s.dev.get Reg.LINEN_ETYPE.ETYPE)
          then (s.now dt).bump (Reg.TIME_PORT_CNT_p.DISCARD port) else s.now dt) fun t => t.dev.out = s.dev.out)
    ∧ Does (.ethernetLinkLoss dt port) s fun t => t.dev.on (Reg.TIME_PORT_CNT_p.LINK port) = false ∧ t.dev.linen.x = s.dev.linen.x
        ∧ (∀ k, s.dev.mode.served = true → k < 2 → s.dev.trkOn k = true → s.dev.trkPort k = port → (s.dev.trkState k = 1 ∨ s.dev.trkState k = 2) →
            t.dev.trkState k = 3)
        ∧ (∀ n, n = 12 ∨ n = 13 → t.dev.get (Reg.SENSE_XING_n.COUNT n) = min 65535 (s.dev.get (Reg.SENSE_XING_n.COUNT n) + 1)))

/-- As DRV master the device sends Sync every interval, in one step with the device time of its own stamp, which is within 2 ns, or in two with a Follow_Up; Announce carries its data set; Delay_Req is answered with the time of its receive stamp, Pdelay_Req in two steps. A whole second crossed is posted with the full time. A slew that is over sets the new source's rate and posts TIME_SWITCH. TIME_SRC to a LOCKED tracker or to SRC 0 switches the source and completes OK. Some of it is the model's choice: log entries 82, 83, 84 and 85. -/
def Obligations.TimeIsServedAndSwitched : Prop :=
  let timed (d : Dev) : Dev := { d with time := Dev.reset.time, link := Dev.reset.link, lane := Dev.reset.lane }
  let sent (s : State) (dt f : Nat) : List Nat :=
    ptpTime ((s.now dt).timeOf ((((s.now dt).tb : Int) + (f : Nat) - 2 + (s.dev.get (Reg.TIME_PORT_LAT_p.TX 0) : Nat)) * 65536))
  let got (s : State) (dt port f : Nat) : List Nat :=
    ptpTime ((s.now dt).timeOf ((((s.now dt).tb : Int) + (f : Nat) - 2 - (s.dev.get (Reg.TIME_PORT_LAT_p.RX port) : Nat)) * 65536))
  let quiet (s : State) : Prop := ∀ n, (s.dev.lk n).queue = []
  (∀ (s : State) (dt : Nat), (s.now dt).drvMaster = true →
      (s.dev.time.syncTx.any fun x => decide ((s.now dt).since x < logSeconds (signedOf 4 (s.dev.get Reg.TIME_CFG.LOG_SYNC)))) = false →
    Leaves (.ptpSyncTransmit dt) s { s.now dt with time := { s.dev.time with
        syncSeq := (s.dev.time.syncSeq + 1) % 65536, syncTx := some (s.now dt).tb } } fun t => ∃ f, f ≤ 4 ∧ t.dev.out = s.dev.out
      ++ (if s.dev.on Reg.TIME_GM.ONE_STEP then [.ptp 0 0 (s.dev.get Reg.TIME_CFG.DRV_DOMAIN) s.dev.time.syncSeq false 0 (sent s dt f)]
        else [.ptp 0 0 (s.dev.get Reg.TIME_CFG.DRV_DOMAIN) s.dev.time.syncSeq true 0 [0, 0],
          .ptp 0 8 (s.dev.get Reg.TIME_CFG.DRV_DOMAIN) s.dev.time.syncSeq false 0 (sent s dt f)]))
  ∧ (∀ (s : State) (dt : Nat), (s.now dt).drvMaster = true →
    Leaves (.ptpAnnounceTransmit dt) s { s.now dt with time := { s.dev.time with annSeq := (s.dev.time.annSeq + 1) % 65536 } } fun t =>
      ∃ body, t.dev.out = s.dev.out ++ [.ptp 0 11 (s.dev.get Reg.TIME_CFG.DRV_DOMAIN) s.dev.time.annSeq false 0 body]
        ∧ body.take 4 = [b2n (decide (s.dev.get Reg.TIME_STAT.SRC_NOW ≠ 0)), if s.dev.get Reg.TIME_STAT.SRC_NOW ≠ 0 then 0x40 else 0xA0,
          s.dev.get Reg.TIME_GM.PRIO1, s.dev.get Reg.TIME_GM.CLASS] ∧ body.getD 6 0 = s.dev.get Reg.TIME_GM.PRIO2)
  ∧ (∀ (s : State) (dt : Nat) (m : Ptp), (s.now dt).drvMaster = true → s.dev.on Reg.TIME_GM.P2P = false → m.domain = s.dev.get Reg.TIME_CFG.DRV_DOMAIN →
    Leaves (.ptpDelayReq dt 0 m) s (s.now dt) fun t => ∃ f, f ≤ 4
      ∧ t.dev.out = s.dev.out ++ [.ptp 0 9 m.domain m.seq false m.corr (got s dt 0 f ++ [m.source])])
  ∧ (∀ (s : State) (dt port : Nat) (m : Ptp), s.dev.peerPort port m.domain = true →
    Leaves (.ptpPdelayReq dt port m) s (s.now dt) fun t => ∃ f left, f ≤ 4 ∧ t.dev.out = s.dev.out
      ++ [.ptp port 3 m.domain m.seq true 0 (got s dt port f ++ [m.source]), .ptp port 10 m.domain m.seq false m.corr (left ++ [m.source])])
  ∧ (∀ (s : State) (dt : Nat), (s.now dt).readTime / 1000000000 ≠ s.dev.time.second →
    Leaves (.timeMark dt) s { s.now dt with time := { s.dev.time with second := (s.now dt).readTime / 1000000000 } } fun t =>
      Tells (s.now dt) t 0x4005 [(s.now dt).readTime / 1000000000 * 1000000000 % 2 ^ 32, (s.now dt).readTime / 1000000000 * 1000000000 / 2 ^ 32])
  ∧ (∀ (s : State) (dt : Nat) (w : Slew), s.dev.time.slew = some w → s.dev.mode.served = true → quiet s →
      w.ns ≤ (s.now dt).since (fieldOf 64 ((w.until_ : Int) - (w.ns : Nat))) →
    Alters (.slewEnd dt) s dt timed (fun o => block 4 o || block 8 o) fun t => t.dev.on Reg.TIME_STAT.SLEWING = false ∧ t.dev.time.slew = none
      ∧ t.dev.get Reg.TIME_RATE.RATE = fieldOf 32 w.rate ∧ t.dev.time.trks = s.dev.time.trks
      ∧ Tells (s.now dt) t 0x4003 [w.old, w.new, fieldOf 32 (max (-(2 ^ 31 : Nat)) (min ((2 ^ 31 : Nat) - 1) w.err)), min 0xFFFFFFFF w.ns, 1])
  ∧ (∀ (s : State) (dt ring : Nat) (x : Desc), (s.now dt).acceptsParam ring x 0x4001 allServed true = true → x.w 6 ≤ 2 → x.w 7 = 0 → x.w 8 = 0 →
      x.w 9 = 0 → quiet s → s.dev.get Reg.TIME_CFG.DRV_ROLE ≠ 2 → s.dev.drvFollows = false → (x.w 6 = 0 ∨ s.dev.trkState (x.w 6 - 1) = 2) →
    Alters (.timeSrc dt ring x) s dt timed (fun o => block 4 o || block 8 o) fun t => t.dev.get Reg.TIME_CFG.SRC = x.w 6
      ∧ t.dev.get Reg.TIME_STAT.SRC_NOW = x.w 6 ∧ t.dev.on Reg.TIME_STAT.HOLDOVER = false ∧ t.dev.time.trks = s.dev.time.trks
      ∧ Ends (s.now dt) t ring x 0 0)

/-! ## Ring, cascade, duplex -/

/-- A message for another node goes on out of the other port with HOPS + 1; a bad CRC is counted. A BEAT keeps its sender's fields and puts it into the roster; 6 us without one take it out. BEAT, ROLL and PW leave on both ports at their times. A ROLL of the partner with the expected CFG_CRC shows its role; one with the own number and a SEQ that no own ROLL of the last 1 ms had is a conflict. PW sets a follower's position, its source and the flags; its absence changes the source. STOP_REQ stops the master's web; a VERDICT joins its frame. DELAY is answered; 16 are asked, and their mean is the hop delay. Some of it is the model's choice: log entries 88, 89, 90, 91 and 96. A message that waits on a ring port takes its place by priority, behind those of its own, and every one that waited is still there. -/
def Obligations.RingMessagesAreTakenAndSent : Prop :=
  let net (d : Dev) : Dev := { d with net := Dev.reset.net }
  let both (s : State) (type : Nat) (payload : List Nat) : List Output := [18, 19].map fun p => ringFrame p (s.dev.ringWord0 type 0 true (p - 18) :: payload)
  let sends (s : State) (dt : Nat) : Prop := s.dev.on Reg.RING_CFG.EN = true ∧ s.dev.mode.served = true ∧ s.ringFree dt 18 ∧ s.ringFree dt 19
  let delay (s : State) (dt port : Nat) (words : List (BitVec 64)) (h : RingHead) : Prop := s.dev.ringPort port = true ∧ 2 ≤ words.length
    ∧ headOf (words.headD 0).toNat = h ∧ h.type = 12 ∧ (words.getLastD 0).toNat % 2 ^ 32 = ringCrc ((words.map BitVec.toNat).dropLast)
    ∧ bitsOf (words.headD 0).toNat 48 16 = s.dev.get Reg.RING_CFG.RING_ID ∧ h.hops = 0 ∧ h.src ≠ s.dev.node ∧ (h.bcast = true ∨ h.dst = s.dev.node)
    ∧ (s.now dt).firstCopy h = true ∧ bitOf s.dev.net.conflict h.src = false
  (∀ (s : State) (dt port : Nat) (slots : List (List LaneBlock)) (words : List (BitVec 64)), s.dev.ringPort port = true → 2 ≤ words.length →
      s.dev.brings port 4 slots (words.map BitVec.toNat) = true → (headOf (words.headD 0).toNat).type = 3 → s.ringStill →
      ((words.getLastD 0).toNat % 2 ^ 32 ≠ ringCrc ((words.map BitVec.toNat).dropLast) →
        Leaves (.beat dt port slots) s ((s.now dt).bump Reg.RING_CNT.CRC_ERR) fun t => t.dev.out = s.dev.out)
      ∧ ((words.getLastD 0).toNat % 2 ^ 32 = ringCrc ((words.map BitVec.toNat).dropLast) →
          bitsOf (words.headD 0).toNat 48 16 = s.dev.get Reg.RING_CFG.RING_ID → (headOf (words.headD 0).toNat).src ≠ s.dev.node →
          (headOf (words.headD 0).toNat).bcast = false → s.dev.forwards port (headOf (words.headD 0).toNat) = true → s.ringFree dt (37 - port) →
        Leaves (.beat dt port slots) s (s.now dt) fun t => ∃ body, t.dev.out = s.dev.out ++ [ringFrame (37 - port) body]
          ∧ body.length + 1 = words.length ∧ body.headD 0 = (words.headD 0).toNat + 2 ^ 18 ∧ ∀ i, 0 < i → body.getD i 0 = msgWord words i))
  ∧ (∀ (s : State) (dt port : Nat) (slots : List (List LaneBlock)) (words : List (BitVec 64)) (h : RingHead), s.hears dt port 3 words h →
      s.dev.brings port 4 slots (words.map BitVec.toNat) = true → s.dev.duplexed = false → s.dev.net.nodes.length = 16 →
    Alters (.beat dt port slots) s dt net (block 7) fun t => t.dev.nodeSt h.src = ⟨some (s.now dt).tb, bitsOf (msgWord words 1) 0 17,
        bitOf (msgWord words 1) 17, bitOf (msgWord words 1) 18, bitOf (msgWord words 1) 19, bitsOf (msgWord words 1) 32 16, h.epoch, h.active,
        msgWord words 2 % 2 ^ 32, bitsOf (msgWord words 2) 32 8, false⟩
      ∧ bitOf (t.dev.get Reg.RING_ROSTER.PRESENT) h.src = true ∧ bitOf (t.dev.get Reg.RING_ROSTER.ACTIVE) h.src = h.active
      ∧ ∀ n, n ≠ h.src → t.dev.nodeSt n = s.dev.nodeSt n)
  ∧ (∀ (s : State) (dt n : Nat), n < 16 → s.dev.on Reg.RING_CFG.EN = true → s.dev.mode.served = true →
      bitOf (s.dev.get Reg.RING_ROSTER.PRESENT) n = true → ((s.dev.nodeSt n).beatAt.any fun x => decide (6000 ≤ (s.now dt).since x)) = true →
    Alters (.nodeAbsent dt n) s dt (fun d => { d with chk := { d.chk with frames := [] } }) (fun o => block 7 o || block 0xD o) fun t =>
      bitOf (t.dev.get Reg.RING_ROSTER.PRESENT) n = false ∧ bitOf (t.dev.get Reg.RING_ROSTER.ACTIVE) n = false
      ∧ Tells (s.now dt) t 0x7001 [setBit (s.dev.get Reg.RING_ROSTER.PRESENT) n false, setBit (s.dev.get Reg.RING_ROSTER.ACTIVE) n false])
  ∧ (∀ (s : State) (dt : Nat), sends s dt → s.dev.duplexed = false → s.dev.net.yieldAt = none →
      (2000 ≤ (s.now dt).since s.dev.net.beatAt → Alters (.beatTimer dt) s dt net noRegs fun t => t.dev.net.beatAt = (s.now dt).tb
        ∧ ∃ w, w % 2 ^ 17 = min 131071 ((s.now dt).horizon) ∧ t.dev.out = s.dev.out ++ both s 3 [w, s.dev.chk.lastFrame + 2 ^ 32 * s.dev.get Reg.CHK_LAST.TAG])
      ∧ (1000000 ≤ (s.now dt).since s.dev.net.rollAt → Alters (.rollTimer dt) s dt net noRegs fun t => t.dev.net.rollAt = (s.now dt).tb
        ∧ t.dev.out = s.dev.out ++ both s 1 [s.dev.get Reg.RING_NODE.MEMBER + s.dev.get Reg.RING_NODE.UNIT * 8 + s.dev.get Reg.RING_CFG.PARTNER * 16
          + s.dev.get Reg.RING_CFG.NODES * 2 ^ 8 + s.dev.mode.code * 2 ^ 16 + s.dev.duplexCode * 2 ^ 20 + s.dev.cfgCrc * 2 ^ 32])
      ∧ (s.dev.get Reg.RING_NODE.MEMBER = 0 → (s.now dt).tb / 1000 ≠ s.dev.net.pwAt / 1000 → Alters (.pwBroadcast dt) s dt net noRegs fun t =>
        t.dev.net.pwAt = (s.now dt).tb ∧ ∃ w, t.dev.out = s.dev.out ++ both s 2 [s.dev.pos.pw + 2 ^ 48 * ((s.now dt).frac % 65536), w, 0]
          ∧ ∀ x, s.dev.latest = some x → w % 2 ^ 32 = min 0xFFFFFFFF ((s.now dt).since x.t)))
  ∧ (∀ (s : State) (dt port : Nat) (words : List (BitVec 64)) (h : RingHead), s.hears dt port 1 words h → s.dev.duplexed = true →
      h.src = s.dev.partnerNode → msgWord words 1 / 2 ^ 32 = s.dev.partnerCrc → bitsOf (msgWord words 1) 20 2 ≠ 3 →
    Alters (.roll dt port words) s dt net noRegs fun t => t.dev.net.partner = bitsOf (msgWord words 1) 20 2 ∧ t.dev.net.snapSent = false)
  ∧ (∀ (s : State) (dt port : Nat) (words : List (BitVec 64)), s.dev.ringPort port = true → 2 ≤ words.length → (headOf (words.headD 0).toNat).type = 1 →
      (headOf (words.headD 0).toNat).src = s.dev.node → (words.getLastD 0).toNat % 2 ^ 32 = ringCrc ((words.map BitVec.toNat).dropLast) →
      bitsOf (words.headD 0).toNat 48 16 = s.dev.get Reg.RING_CFG.RING_ID → bitOf s.dev.net.conflict s.dev.node = false →
      (s.dev.net.rolls.any fun x => x.1 == (headOf (words.headD 0).toNat).seq && decide ((s.now dt).since x.2 ≤ 1000000)) = false →
    Leaves (.roll dt port words) s { s.now dt with net := { s.dev.net with conflict := setBit s.dev.net.conflict s.dev.node true } } fun t =>
      Tells (s.now dt) t 0x7003 [s.dev.node, 1])
  ∧ (∀ (s : State) (dt port : Nat) (words : List (BitVec 64)) (h : RingHead) (l : Sample), s.hears dt port 2 words h → h.src < 2 → s.dev.follower = true →
      h.active = true → bitsOf (msgWord words 2) 32 3 = 0 → s.dev.latest = some l → l.pw ≠ bitsOf (msgWord words 1) 0 48 → s.dev.nextStaged = none →
      s.dev.net.sync = none → s.dev.pos.cal = [] → s.dev.host.deferred = [] → s.dev.jobs.all (fun j => j.lastFrame.isNone) = true →
      s.dev.linksOn.all (fun m => !s.dev.on (Reg.LINK_STAT_n.SILENT m)) = true →
    Alters (.pwMessage dt port words) s dt (fun d => { d with net := Dev.reset.net, pos := Dev.reset.pos }) (fun o => block 3 o || block 7 o) fun t =>
      t.dev.pos.pw = bitsOf (msgWord words 1) 0 48 ∧ t.dev.pos.rem = bitsOf (msgWord words 1) 48 16 ∧ t.dev.get Reg.RING_STAT.PW_SRC = h.src
      ∧ t.dev.on Reg.POS_STATUS.POS_LOST = false ∧ t.dev.on Reg.POS_STATUS.HELD = false ∧ t.dev.on Reg.POS_STATUS.REG_LOST = false
      ∧ t.dev.on Reg.POS_STATUS.AT_REST = false ∧ t.dev.pos.bcastAt = (s.now dt).tb ∧ t.dev.net.activeAt = (s.now dt).tb)
  ∧ (∀ (s : State) (dt n : Nat), s.dev.mode.served = true → s.dev.follower = true → 2000 ≤ (s.now dt).since s.dev.net.activeAt →
      ((List.range 2).find? fun n => bitOf (s.dev.get Reg.RING_ROSTER.PRESENT) n && !(s.dev.nodeSt n).active) = some n →
    Leaves (.activePwTimeout dt) s ((s.now dt).put Reg.RING_STAT.PW_SRC n) fun t => t.dev.out = s.dev.out)
  ∧ (∀ (s : State) (dt port : Nat) (words : List (BitVec 64)) (h : RingHead),
      (s.hears dt port 4 words h → s.dev.follower = false → s.dev.active = true → s.dev.mode.printing = true → s.dev.linen.v ≠ 0 → s.dev.linen.stop = none →
        Alters (.stopReq dt port words) s dt net noRegs fun t => t.dev.linen.stop = some (if bitOf (msgWord words 1) 0
          then ⟨s.dev.get Reg.LINEN_GOV_DEC.A_G * 16, true, false, []⟩ else ⟨s.dev.linen.prof.decel, false, false, []⟩))
      ∧ (s.hears dt port 5 words h → s.dev.follower = false → 2 ≤ h.src → (s.dev.job? (bitsOf (msgWord words 1) 0 8)).isSome = true →
        Alters (.verdictMessage dt port words) s dt (fun d => { d with net := Dev.reset.net, chk := { d.chk with frames := [] } }) (block 0xD) fun t =>
          (t.dev.frame (bitsOf (msgWord words 1) 0 8) (bitsOf (msgWord words 1) 8 32)).verdict
            = max (s.dev.frame (bitsOf (msgWord words 1) 0 8) (bitsOf (msgWord words 1) 8 32)).verdict (bitsOf (msgWord words 1) 40 2)
          ∧ bitOf (t.dev.frame (bitsOf (msgWord words 1) 0 8) (bitsOf (msgWord words 1) 8 32)).awaits (8 + h.src / 2) = true))
  ∧ (∀ (s : State) (dt port : Nat), s.dev.ringPort port = true →
      (s.dev.net.hopAt.getD (port - 18) 0 = 0 ∨ 1000000 ≤ (s.now dt).since (s.dev.net.hopAt.getD (port - 18) 0)) →
      s.dev.ringQueue port = [] → s.dev.portSends port = true → s.dev.on (Reg.LANE_PORT_STAT_p.TX_IDLE port) = false →
    Alters (.hopDelayMeasure dt port) s dt net noRegs fun t => (t.dev.out.drop s.dev.out.length).length + (t.dev.ringQueue port).length = 16
      ∧ (∀ o ∈ t.dev.out.drop s.dev.out.length, ∃ words, o = ringFrame port words ∧ headOf (words.headD 0) = { (headOf (words.headD 0)) with
          type := 12, src := s.dev.node, bcast := true, hops := 0 })
      ∧ (∀ m ∈ t.dev.ringQueue port, (headOf (m.2.headD 0)).type = 12 ∧ (headOf (m.2.headD 0)).bcast = true))
  ∧ (∀ (s : State) (dt port : Nat) (words : List (BitVec 64)) (h : RingHead), delay s dt port words h → bitOf (msgWord words 1) 0 = false →
      s.ringStill → s.ringFree dt port →
    Alters (.delay dt port words) s dt net noRegs fun t => ∃ res, res ≤ 32000
      ∧ t.dev.out = s.dev.out ++ [ringFrame port [s.dev.ringWord0 12 h.src false (port - 18), 1 + 2 ^ 16 * h.seq, res]])
  ∧ (∀ (s : State) (dt port : Nat) (words : List (BitVec 64)) (h : RingHead) (q : Nat × Nat × Nat), delay s dt port words h →
      bitOf (msgWord words 1) 0 = true → s.ringStill →
      (s.dev.net.asked.find? fun x => x.1 == port && x.2.1 == bitsOf (msgWord words 1) 16 16) = some q →
      (s.dev.net.hops.filter fun x => x.1 == port).length = 15 →
    Alters (.delay dt port words) s dt net (fun o => decide (o / 4 = (if port = 18 then Reg.RING_HOP_E.DLY else Reg.RING_HOP_W.DLY).off / 4)) fun t =>
      t.dev.out = s.dev.out ∧ ∃ f, f < 32 ∧ t.dev.get (if port = 18 then Reg.RING_HOP_E.DLY else Reg.RING_HOP_W.DLY)
        = min 65535 ((((s.dev.net.hops.filter fun x => x.1 == port).map (·.2)).foldl (· + ·) 0
            + (32 * (s.now dt).tb + f - q.2.2 - msgWord words 2 % 2 ^ 32) / 2) / 16))
  ∧ (∀ (m : Nat × List Nat) (q : List (Nat × List Nat)), q.Pairwise (fun a b => ringRank a.2 ≤ ringRank b.2) →
    (byRank m q).Pairwise (fun a b => ringRank a.2 ≤ ringRank b.2) ∧ (byRank m q).Perm (m :: q)
      ∧ (∀ x ∈ q, ringRank x.2 ≤ ringRank m.2 → [x, m].Sublist (byRank m q)))

/-- A lease frame of the partner is kept and gives a unit that is not ACTIVE its epoch; one with YIELD, or silence on both paths, makes a standby ACTIVE with the next epoch; one of a newer epoch takes an ACTIVE unit to SYNCING, as does a lease not renewed for 10 us. Every 2 us a lease frame leaves. One silent path is posted. Without a partner for 100 ms the unit is ACTIVE. A takeover by a master is stated where its next set-point frame is ready (else it is computed first). HANDOVER with a STANDBY partner waits for the takeover. The standby test shows its results; a failed one takes the standby to SYNCING. Some of it is the model's choice: log entries 93 and 95. -/
def Obligations.LeasesRolesAndHandover : Prop :=
  let net (d : Dev) : Dev := { d with net := Dev.reset.net }
  let heard (s : State) (bs : List Nat) : Prop := s.dev.duplexed = true ∧ s.dev.mode.printing = true ∧ bs.length = 10 ∧ leAt bs 8 2 = crc16 (bs.take 8)
    ∧ leAt bs 0 1 % 16 = s.dev.partnerNode ∧ s.dev.net.linkLost = false ∧ s.dev.net.waitAt = none
  let role (d : Dev) : Dev := { d with duplex := .active, net := Dev.reset.net, time := Dev.reset.time, pos := { d.pos with pso := 0 } }
  let tells (s : State) (dt : Nat) (res kat pass : Bool) : List Nat := [b2n pass + 2 * b2n res + 4 * b2n kat
    + 8 * b2n (s.dev.linksOn.all fun n => s.dev.portIsUp n && decide ((s.dev.lk n).fit = 2)) + 16 * b2n (s.now dt).linkHears
    + 2 ^ 16 * min 65535 (s.dev.get Reg.RING_HEALTH.TESTS + 1)]
  let ready (s : State) (dt : Nat) : Prop := s.dev.net.untold = [] ∧ s.dev.get Reg.TIME_STAT.SRC_NOW ≠ 3
    ∧ (s.dev.follower = true ∨ s.dev.linen.frame.isSome = true ∧ (s.now dt).readTime / s.dev.servoT + 1 ≤ s.dev.linen.cycle)
  (∀ (s : State) (dt : Nat) (bytes : List Byte) (bs : List Nat), natBytes bytes = bs → heard s bs →
      (s.dev.active = false → bitOf (leAt bs 1 1) 0 = true → bitOf (leAt bs 1 1) 1 = false → bitOf (leAt bs 1 1) 3 = true →
        Alters (.leaseFrame dt bytes) s dt net (block 7) fun t => t.dev.get Reg.RING_STAT.EPOCH = leAt bs 0 1 / 16 ∧ t.dev.on Reg.RING_LEASE.LINK_RX = true
          ∧ t.dev.net.link = some ((s.now dt).tb, true, false, bitOf (leAt bs 1 1) 2, true, leAt bs 6 2) ∧ t.dev.net.partner = 1
          ∧ t.dev.net.leaseEnd = some (tbPlus (s.now dt).tb (leAt bs 6 2)))
      ∧ (s.dev.duplex = .standby → bitOf (leAt bs 1 1) 1 = true → ready s dt → Does (.leaseFrame dt bytes) s fun t => t.dev.duplex = .active
          ∧ t.dev.jobs = s.dev.jobs ∧ t.dev.get Reg.RING_CNT.TAKEOVERS = min 65535 (s.dev.get Reg.RING_CNT.TAKEOVERS + 1))
      ∧ (s.dev.active = true → newerEpoch (leAt bs 0 1 / 16) (s.dev.get Reg.RING_STAT.EPOCH) = true → bitOf (leAt bs 1 1) 1 = false →
          bitOf (leAt bs 1 1) 3 = true → Alters (.leaseFrame dt bytes) s dt role (fun o => block 4 o || block 7 o) fun t => t.dev.duplex = .syncing
          ∧ t.dev.on Reg.RING_STAT.LEASE_VALID = false ∧ t.dev.get Reg.RING_STAT.SYNC_STAGE = 1))
  ∧ (∀ (s : State) (dt : Nat), s.dev.duplexed = true → s.dev.mode.printing = true → s.dev.active = true → s.dev.net.partner = 2 →
      10000 ≤ (s.now dt).since s.dev.net.leaseAt →
    Alters (.leaseExpiry dt) s dt role (fun o => block 4 o || block 7 o) fun t => t.dev.duplex = .syncing ∧ t.dev.on Reg.RING_STAT.LEASE_VALID = false
      ∧ t.dev.get Reg.RING_STAT.SYNC_STAGE = 1)
  ∧ (∀ (s : State) (dt : Nat), s.dev.duplexed = true → s.dev.mode.served = true → 2000 ≤ (s.now dt).since s.dev.net.leaseTx → s.dev.net.yieldAt = none →
    Alters (.leaseFrameSend dt) s dt net (block 7) fun t => t.dev.net.leaseTx = (s.now dt).tb ∧ ∃ bytes,
      .lease ((true, 0xBC) :: bytes.map fun b => (false, b)) ∈ t.dev.out.drop s.dev.out.length ∧ bytes.length = 10 ∧ bytes.getD 0 0 = s.dev.node + 16 * s.dev.get Reg.RING_STAT.EPOCH ∧ leAt bytes 8 2 = crc16 (bytes.take 8)
      ∧ bytes.getD 1 0 % 2 = b2n (s.dev.active && s.dev.mode.printing)
      ∧ (s.dev.active = true → s.dev.mode.printing = true → t.dev.net.leaseAt = (s.now dt).tb ∧ t.dev.on Reg.RING_STAT.LEASE_VALID = true))
  ∧ (∀ (s : State) (dt : Nat), s.dev.duplexed = true → s.dev.mode.printing = true →
      (s.dev.duplex = .standby → (s.now dt).ringHears = false → (s.now dt).linkHears = false → ready s dt → Does (.partnerSilence dt) s fun t => t.dev.duplex = .active
        ∧ t.dev.get Reg.RING_STAT.EPOCH = (s.dev.get Reg.RING_STAT.EPOCH + 1) % 16 ∧ t.dev.jobs = s.dev.jobs
        ∧ t.dev.get Reg.RING_CNT.TAKEOVERS = min 65535 (s.dev.get Reg.RING_CNT.TAKEOVERS + 1))
      ∧ ((s.now dt).ringHears = true → (s.now dt).linkHears = false → s.dev.net.linkLost = false → s.dev.net.waitAt = none → s.dev.net.leaseEnd = none →
        Leaves (.partnerSilence dt) s ((({ s.now dt with net := { s.dev.net with linkLost := true } }).put Reg.RING_LEASE.RING_RX 1).put
          Reg.RING_LEASE.LINK_RX 0) fun t => Tells (s.now dt) t 0x700B [1, 0]))
  ∧ (∀ (s : State) (dt w : Nat), s.dev.mode.printing = true → s.dev.net.waitAt = some w → 100000000 ≤ (s.now dt).since w → s.dev.net.untold = [] →
      s.dev.get Reg.TIME_STAT.SRC_NOW ≠ 3 → Alters (.partnerWaitTimeout dt) s dt role noRegs fun t => t.dev.duplex = .active ∧ t.dev.net.waitAt = none)
  ∧ (∀ (s : State) (dt ring : Nat) (x : Desc), (s.now dt).acceptsParam ring x 0x7001 [.run, .hold] true = true → valueExtra x [0, 0, 0, 0] = none →
      s.dev.duplexed = true → s.dev.active = true → s.dev.net.partner = 2 → s.dev.net.handover = none →
    Alters (.handover dt ring x) s dt net noRegs fun t => t.dev.out = ((s.now dt).taken ring x).out ∧ t.dev.net.handover = some ((s.now dt).ticketOf ring x)
      ∧ (t.dev.net.yieldAt.isSome = true ∨ t.dev.net.yield_ = true))
  ∧ (∀ (s : State) (dt : Nat) (residue kat : Bool), s.dev.duplexed = true → s.dev.mode.printing = true → s.dev.duplex = .standby →
      s.dev.on Reg.RING_CFG.STBY_TEST = true → 100000000 ≤ (s.now dt).since s.dev.net.testAt → s.dev.net.testOnly = false →
      (residue = true → kat = true → (s.dev.linksOn.all fun n => s.dev.portIsUp n && decide ((s.dev.lk n).fit = 2)) = true →
          (s.now dt).linkHears = true → Alters (.standbyTest dt residue kat) s dt net (block 7) fun t => t.dev.on Reg.RING_HEALTH.PASS = true
            ∧ t.dev.on Reg.RING_HEALTH.RESIDUE = true ∧ t.dev.on Reg.RING_HEALTH.KAT = true ∧ Tells (s.now dt) t 0x7008 (tells s dt true true true))
      ∧ ((residue = false ∨ kat = false) → Alters (.standbyTest dt residue kat) s dt role (fun o => block 4 o || block 7 o) fun t =>
          t.dev.duplex = .syncing ∧ t.dev.on Reg.RING_HEALTH.PASS = false ∧ t.dev.on Reg.RING_HEALTH.RESIDUE = residue ∧ t.dev.on Reg.RING_HEALTH.KAT = kat
          ∧ t.dev.net.testOnly = true ∧ t.dev.get Reg.RING_CNT3.TEST_FAILS = min 65535 (s.dev.get Reg.RING_CNT3.TEST_FAILS + 1)
          ∧ Tells (s.now dt) t 0x7008 (tells s dt residue kat false)))

/-- A summary of the active waits for the own one; if they differ on a standby the line is counted and posted and an arbitration starts, as it does on the active when MISMATCH tells it. The self-check's result is sent and kept, the partner's result is kept, its absence counts as FAIL; with both the outcome is posted and the arbitration is over. On a unit that is not ACTIVE a MIRROR record of a job is kept, a DECISION of a nozzle entry is in the inactive bank, a partner of another stepping or image is a conflict, and the last record of a SNAPSHOT begins stage 2. Some of it is the model's choice: log entries 94 and 95. -/
def Obligations.PartnersCompareAndSynchronise : Prop :=
  let net (d : Dev) : Dev := { d with net := Dev.reset.net }
  let tagOf (words : List (BitVec 64)) : Nat := bitsOf (msgWord words 1) 40 8
  let lineOf (words : List (BitVec 64)) : Nat := msgWord words 1 % 2 ^ 40
  let theirs (words : List (BitVec 64)) : Summary := ⟨tagOf words, lineOf words,
    lcsLinks (bitsOf (msgWord words 1) 48 16) (((words.map BitVec.toNat).dropLast).drop 2)⟩
  let none_ (words : List (BitVec 64)) (l : List Summary) : Prop := l.any (fun x => x.tag == tagOf words && x.line == lineOf words) = false
  let partner (s : State) (h : RingHead) : Prop := s.dev.duplexed = true ∧ h.src = s.dev.partnerNode ∧ s.dev.mode.printing = true
  (∀ (s : State) (dt port : Nat) (words : List (BitVec 64)) (h : RingHead), s.hears dt port 6 words h → partner s h → s.dev.active = false →
      none_ words s.dev.net.theirs →
      (none_ words s.dev.net.mine → Alters (.lcs dt port words) s dt net noRegs fun t => t.dev.net.theirs = s.dev.net.theirs ++ [theirs words])
      ∧ (∀ a, (s.dev.net.mine.find? fun x => x.tag == tagOf words && x.line == lineOf words) = some a → s.dev.duplex = .standby → s.dev.net.arb = none →
          summariesDiffer a.links (theirs words).links ≠ 0 →
        Alters (.lcs dt port words) s dt net (block 7) fun t => t.dev.get Reg.RING_CNT2.MISMATCH = min 65535 (s.dev.get Reg.RING_CNT2.MISMATCH + 1)
          ∧ t.dev.on Reg.RING_STAT.ARBITRATING = true ∧ (t.dev.net.arb.map (·.lines)) = some [(tagOf words, lineOf words)]
          ∧ Tells (s.now dt) t 0x7005 [tagOf words, lineOf words % 2 ^ 32, summariesDiffer a.links (theirs words).links]))
  ∧ (∀ (s : State) (dt port : Nat) (words : List (BitVec 64)) (h : RingHead), s.hears dt port 7 words h → partner s h → s.dev.active = true →
      s.dev.net.arb = none →
    Alters (.mismatch dt port words) s dt net (block 7) fun t => t.dev.get Reg.RING_CNT2.MISMATCH = min 65535 (s.dev.get Reg.RING_CNT2.MISMATCH + 1)
      ∧ t.dev.on Reg.RING_STAT.ARBITRATING = true ∧ t.dev.net.arb = some ⟨h.seq, (s.now dt).tb, [(tagOf words, lineOf words)], none, none⟩)
  ∧ (∀ (s : State) (dt : Nat) (a : Arb) (residue kat : Bool), s.dev.net.arb = some a → a.own = none → a.partner = none → s.dev.mode.printing = true →
      5000 ≤ (s.now dt).since a.at_ →
    Alters (.selfCheckDone dt residue kat) s dt net noRegs fun t =>
      t.dev.net.arb = some { a with own := some (b2n residue + 2 * b2n kat + 4 * b2n (residue && kat) + 2 ^ 16 * a.seq) })
  ∧ (∀ (s : State) (dt port : Nat) (words : List (BitVec 64)) (h : RingHead) (a : Arb), s.hears dt port 8 words h → partner s h → s.dev.net.arb = some a →
      bitsOf (msgWord words 1) 16 16 = a.seq →
      (a.own = none → Alters (.arbiter dt port words) s dt net noRegs fun t =>
        t.dev.net.arb = some { a with partner := some (msgWord words 1 % 2 ^ 32) })
      ∧ (∀ own, a.own = some own → s.dev.active = true → bitOf own 2 = true → bitOf (msgWord words 1) 2 = false →
        Alters (.arbiter dt port words) s dt net (block 7) fun t => t.dev.net.arb = none ∧ t.dev.on Reg.RING_STAT.ARBITRATING = false
          ∧ Tells (s.now dt) t 0x7006 [own, msgWord words 1 % 2 ^ 32, 2]))
  ∧ (∀ (s : State) (dt own : Nat) (a : Arb), s.dev.net.arb = some a → a.partner = none → s.dev.mode.printing = true → 10000 ≤ (s.now dt).since a.at_ →
      a.own = some own → s.dev.active = true → bitOf own 2 = true →
    Alters (.arbiterTimeout dt) s dt net (block 7) fun t => t.dev.net.arb = none ∧ t.dev.on Reg.RING_STAT.ARBITRATING = false
      ∧ Tells (s.now dt) t 0x7006 [own, 0, 2])
  ∧ (∀ (s : State) (dt port tag line j0 frames n m jt : Nat) (words : List (BitVec 64)) (h : RingHead) (live : Bool), s.fromPartner dt port 9 words h → s.dev.active = false →
      s.dev.net.sync = none →
    Alters (.mirror dt port words tag line (.job jt j0 frames n m live)) s dt net noRegs fun t =>
      t.dev.net.jobs = s.dev.net.jobs.filter (fun j => j.1 != jt) ++ [(jt, j0, frames, n, m, live)])
  ∧ (∀ (s : State) (dt port tag line stepping image : Nat) (words : List (BitVec 64)) (h : RingHead), s.fromPartner dt port 9 words h →
      s.dev.net.sync = none → ¬(stepping = s.dev.get Reg.GLB_ID.STEPPING ∧ image = s.dev.get Reg.SVC_FW_VER.VERSION) →
    Alters (.mirror dt port words tag line (.identity stepping image)) s dt net noRegs fun t =>
      bitOf t.dev.net.conflict s.dev.partnerNode = true ∧ Tells (s.now dt) t 0x7003 [s.dev.partnerNode, 4])
  ∧ (∀ (s : State) (dt port line i e : Nat) (words : List (BitVec 64)) (h : RingHead), s.fromPartner dt port 10 words h → s.dev.active = false → s.dev.live?.isSome = true →
    Alters (.decision dt port words 0 line (.nozzle i e)) s dt (fun d => { d with net := Dev.reset.net, gz := Dev.reset.gz }) noRegs fun t =>
      (t.dev.gzIdle 0).entry i = e ∧ bitOf t.dev.gz.pending 0 = true ∧ ∀ k, k ≠ i → (t.dev.gzIdle 0).entry k = (s.dev.gzIdle 0).entry k)
  ∧ (∀ (s : State) (dt port tag line : Nat) (words : List (BitVec 64)) (h : RingHead) (y : Sync), s.fromPartner dt port 11 words h → s.dev.active = false → s.dev.mode = .ready →
      s.dev.net.sync = some y → y.stage = 1 → s.dev.liveThere = none →
    Alters (.snapshot dt port words tag line (.mode 4)) s dt net (block 7) fun t => t.dev.net.sync = some { y with stage := 2, snapped := true }
      ∧ t.dev.get Reg.RING_STAT.SYNC_STAGE = 2 ∧ Tells (s.now dt) t 0x7007 [2, 0, 0])

/-! ## Memories -/

/-- A scrub read of SRAM or DRAM with no error moves only its place in the pass, which no read goes behind; a corrected error is counted, the first of its macro in a pass posted (0xC001); an uncorrectable one is counted, located, posted (0xC002), and its datum stored with the poison pattern unless a write has come; a stored pattern is counted. At the end of its period the pass is counted and begins again. A DRAM scrub read in self-refresh is held. MEM_REPAIR_CLEAR empties the field table. A DRAM command that fails its parity twice is posted and poisons its datum, for one read or as written. Some of it is the model's choice: log entry 99. -/
def Obligations.ScrubFindsRepairsAndPoisons : Prop :=
  let ecc (d : Dev) : Dev := { d with ecc := Dev.reset.ecc }
  let scrubs (s : State) (dt : Nat) : Prop := s.dev.mode ≠ .off ∧ s.dev.on Reg.MEM_FILL.SRAM_DONE = true ∧ s.dev.get Reg.MEM_SCRUB_CFG.SRAM_S ≠ 0
    ∧ (s.now dt).since s.dev.ecc.sramAt < s.dev.get Reg.MEM_SCRUB_CFG.SRAM_S * 1000000000
  let drams (s : State) (dt : Nat) : Prop := s.dev.mode ≠ .off ∧ s.dev.on Reg.MEM_FILL.DRAM_DONE = true ∧ s.dev.get Reg.MEM_SCRUB_CFG.DRAM_H ≠ 0
    ∧ (s.now dt).since s.dev.ecc.dramAt < s.dev.get Reg.MEM_SCRUB_CFG.DRAM_H * 3600000000000
  let chan (addr : Nat) : Nat := 4096 + 32 * dramChan addr + dramBank addr
  let stored (x : Datum) : Prop := x ≠ .engine ∧ x ≠ .other ∧ ∀ n r tag line, x ≠ .lineStore n r tag line
  let ahead (s : State) (w : SramWord) : Prop := (kvGet s.dev.ecc.sramNext w.index).getD 0 ≤ w.offset
  let went (e : EccSt) (w : SramWord) : EccSt := { e with sramNext := kvPut e.sramNext w.index (w.offset + if w.narrow then 1 else 8) }
  (∀ (s : State) (dt : Nat) (w : SramWord) (x : Datum) (written : Bool), scrubs s dt → sramWordOk w = true →
    (w.offset < (kvGet s.dev.ecc.sramNext w.index).getD 0 → ∀ r, Idles (.sramScrub dt w r x written) s dt) ∧ (ahead s w →
    Leaves (.sramScrub dt w .clean x written) s { s.now dt with ecc := went s.dev.ecc w } (fun t => t.dev.out = s.dev.out)
    ∧ Leaves (.sramScrub dt w .stored x written) s ({ s.now dt with ecc := went s.dev.ecc w }.bump Reg.MEM_UE_CNT.STORED)
        (fun t => t.dev.out = s.dev.out)
    ∧ (∀ cell, scrubOk (.ce cell false) (if w.narrow then 13 else 72) = true → s.dev.ecc.ceSeen.contains w.index = false → Alters (.sramScrub dt w (.ce cell false) x written) s dt ecc (block 0xC) fun t =>
        t.dev.get Reg.MEM_CE_CNT.SRAM = min 65535 (s.dev.get Reg.MEM_CE_CNT.SRAM + 1) ∧ t.dev.ecc.ceSeen = s.dev.ecc.ceSeen ++ [w.index]
        ∧ kvGet t.dev.ecc.ceCount w.index = some ((kvGet s.dev.ecc.ceCount w.index).getD 0 + 1) ∧ Tells (s.now dt) t 0xC001 [cell, 1])
    ∧ (stored x → Alters (.sramScrub dt w .ue x written) s dt ecc (block 0xC) fun t =>
        t.dev.get Reg.MEM_UE_CNT.NEW = min 65535 (s.dev.get Reg.MEM_UE_CNT.NEW + 1)
        ∧ Tells (s.now dt) t 0xC002 [1, (0x1000000000 + 16384 * w.index + w.offset) % 2 ^ 32, (0x1000000000 + 16384 * w.index + w.offset) / 2 ^ 32]
        ∧ (if written then t.dev.ecc.poisoned = s.dev.ecc.poisoned else t.dev.ecc.poisoned.contains x = true))))
  ∧ (∀ (s : State) (dt : Nat) (w : SramWord) (x : Datum) (written : Bool), s.dev.mode ≠ .off → s.dev.on Reg.MEM_FILL.SRAM_DONE = true →
      s.dev.get Reg.MEM_SCRUB_CFG.SRAM_S ≠ 0 → s.dev.get Reg.MEM_SCRUB_CFG.SRAM_S * 1000000000 ≤ (s.now dt).since s.dev.ecc.sramAt → sramWordOk w = true →
    Leaves (.sramScrub dt w .clean x written) s (({ s.now dt with ecc := { s.dev.ecc with
      sramAt := (s.now dt).tb, sramNext := kvPut [] w.index (w.offset + if w.narrow then 1 else 8), ceSeen := s.dev.ecc.ceSeen.filter (4096 ≤ ·), hardCols := [] } }).wrap Reg.MEM_SCRUB_STAT.SRAM_PASSES) fun t =>
        t.dev.out = s.dev.out)
  ∧ (∀ (s : State) (dt : Nat) (x : DramRead), drams s dt → s.dev.on Reg.MEM_DRAM_STAT.SELF_REF = false →
      x.addr < 0x400000000 → scrubOk x.result 72 = true → s.dev.ecc.dramNext ≤ x.addr →
    (x.result = .clean → Leaves (.dramScrub dt x) s { s.now dt with ecc := { s.dev.ecc with dramNext := x.addr / 8 * 8 + 8 } } fun t =>
        t.dev.out = s.dev.out)
    ∧ (∀ cell, x.result = .ce cell false → s.dev.ecc.ceSeen.contains (chan x.addr) = false → Alters (.dramScrub dt x) s dt ecc (block 0xC) fun t =>
        t.dev.get Reg.MEM_CE_CNT.DRAM = min 65535 (s.dev.get Reg.MEM_CE_CNT.DRAM + 1) ∧ t.dev.ecc.ceSeen = s.dev.ecc.ceSeen ++ [chan x.addr]
        ∧ Tells (s.now dt) t 0xC001 [cell, 1])
    ∧ (x.result = .ue → stored x.datum → Alters (.dramScrub dt x) s dt ecc (block 0xC) fun t =>
        t.dev.get Reg.MEM_UE_CNT.NEW = min 65535 (s.dev.get Reg.MEM_UE_CNT.NEW + 1) ∧ Tells (s.now dt) t 0xC002 [1, x.addr % 2 ^ 32, x.addr / 2 ^ 32]
        ∧ (if x.overwritten then t.dev.ecc.poisoned = s.dev.ecc.poisoned else t.dev.ecc.poisoned.contains x.datum = true)))
  ∧ (∀ (s : State) (dt : Nat) (x : DramRead), drams s dt → s.dev.on Reg.MEM_DRAM_STAT.SELF_REF = true →
      x.addr < 0x400000000 → scrubOk x.result 72 = true →
    Leaves (.dramScrub dt x) s { s.now dt with ecc := { s.dev.ecc with heldScrubs := s.dev.ecc.heldScrubs + 1 } } fun t => t.dev.out = s.dev.out)
  ∧ (∀ (s : State) (dt ring : Nat) (x : Desc), (s.now dt).acceptsParam ring x 0xC001 [.setup] true = true → valueExtra x [0, 0, 0, 0] = none →
    Alters (.memRepairClear dt ring x) s dt (fun d => { d with ecc := { d.ecc with field := [] } }) (block 0xD) fun t =>
      mramRead t.dev.ecc.field = some [] ∧ Ends (s.now dt) t ring x 0 0)
  ∧ (∀ (s : State) (dt port addr : Nat) (x : Datum), s.dev.mode ≠ .off → stored x →
    Alters (.dramCaParity dt port true addr true x) s dt ecc noRegs (fun t => t.dev.ecc.poisoned.contains x = true
      ∧ Tells (s.now dt) t 0xC013 [port, 1, addr % 2 ^ 32, addr / 2 ^ 32])
    ∧ Leaves (.dramCaParity dt port false addr true x) s { s.now dt with ecc := { s.dev.ecc with once := s.dev.ecc.once ++ [x] } } (fun t =>
      Tells (s.now dt) t 0xC013 [port, 0, addr % 2 ^ 32, addr / 2 ^ 32])
    ∧ ∀ w, Idles (.dramCaParity dt port w addr false x) s dt)

/-- A refresh slot leaves one owed refresh more; one issues there, and takes the pseudo-channel for tRFC, where nothing waits or the limit is reached; the next slot is tREFI later, and the level of the fullest write queue is shown. At a window's end the activations and the throttles are forgotten. After the idle time the stack enters self-refresh with nothing owed; every 10 ms the held scrub reads issue. DRAM_TRAIN and DRAM_SPEED start a sweep and wait; a sweep in which every lane passes sets their delays to the centres and completes the commands OK. Some of it is the model's choice: log entries 100 and 101. A refresh is chosen exactly at the limit, or where nothing waits and one is owed. A read that is chosen is held by no throttle, and is the first of port 0 in PANIC, or has waited more than 10 us, or its port is the highest that asks, and it goes ahead only of reads of its port and bank that are not passed 16 times, by hitting the open row. A write that is chosen is the oldest that no throttle holds, in a drain or with no read. The write queue takes each write, one to a burst, and holds at most 64. What is chosen issues in a refresh slot's steps and leaves its queue; the activation above 4,096 of a row in a window is posted and throttles its port. -/
def Obligations.DramRefreshesTrainsAndRests : Prop :=
  let ecc (d : Dev) : Dev := { d with ecc := Dev.reset.ecc }
  let queue (s : State) : Nat := s.dev.ecc.chans.foldl (fun m c => max m c.writes.length) 0
  (∀ (s : State) (dt p owed : Nat) (go : Bool), s.dev.mode ≠ .off → p < 32 → s.dev.ecc.owed.length = 32 → s.dev.ecc.slotAt.length = 32 →
      s.dev.on Reg.MEM_DRAM_STAT.SELF_REF = false → (s.now dt).since (s.dev.ecc.slotAt.getD p 0) < 2 ^ 63 → s.dev.ecc.cooling = false →
      queue s ≤ 64 → min (s.dev.get Reg.MEM_DRAM_REF.LIMIT) (s.dev.ecc.owed.getD p 0 + 1) = owed →
      go = ((s.dev.pchan p).idle || decide (owed = s.dev.get Reg.MEM_DRAM_REF.LIMIT)) →
    Alters (.refreshSlot dt p []) s dt ecc (block 0xC) fun t => t.dev.out = s.dev.out ++ (if go then [.dram p .refresh] else [])
      ∧ t.dev.ecc.owed.getD p 0 = (if go then owed - 1 else owed) ∧ t.dev.ecc.slotAt.getD p 0 = s.dev.ecc.slotAt.getD p 0 + s.dev.trefi
      ∧ (go = true → t.dev.pchan p = { s.dev.pchan p with busy := s.dev.ecc.slotAt.getD p 0 + 350, rows := [] } ∨ s.dev.ecc.chans.length ≤ p)
      ∧ t.dev.get Reg.MEM_DRAM_WQ.LEVEL = queue s
      ∧ ∀ q, q ≠ p → t.dev.ecc.owed.getD q 0 = s.dev.ecc.owed.getD q 0 ∧ t.dev.ecc.slotAt.getD q 0 = s.dev.ecc.slotAt.getD q 0)
  ∧ (∀ (s : State) (dt : Nat), s.dev.mode ≠ .off → s.dev.ecc.window < (s.now dt).tb / 32000000 →
    Leaves (.rowWindowEnd dt) s { (s.now dt).put Reg.MEM_DRAM_ROWACT.THROTTLED 0 with
        ecc := { s.dev.ecc with acts := [], window := (s.now dt).tb / 32000000 } } fun t => t.dev.out = s.dev.out)
  ∧ (∀ (s : State) (dt : Nat), s.dev.mode ≠ .run → s.dev.mode ≠ .off → s.dev.get Reg.MEM_DRAM_CFG.IDLE_US ≠ 0 → s.dev.ecc.sweep = none →
      s.dev.on Reg.MEM_DRAM_STAT.SELF_REF = false → s.dev.get Reg.MEM_DRAM_CFG.IDLE_US * 1000 ≤ (s.now dt).since s.dev.ecc.lastReq →
      s.dev.ecc.chans.all DramChan.idle = true →
    Leaves (.selfRefreshEntry dt) s { (s.now dt).put Reg.MEM_DRAM_STAT.SELF_REF 1 with
      ecc := { s.dev.ecc with owed := s.dev.ecc.owed.map fun _ => 0, srAt := (s.now dt).tb, chans := s.dev.ecc.chans.map fun c => { c with rows := [] } } } fun t => t.dev.out = s.dev.out)
  ∧ (∀ (s : State) (dt : Nat) (reads : List DramRead) (next : Nat), s.dev.mode ≠ .off → s.dev.on Reg.MEM_DRAM_STAT.SELF_REF = true →
      10000000 ≤ (s.now dt).since s.dev.ecc.srAt → reads.length = s.dev.ecc.heldScrubs → (∀ x ∈ reads, x.result = .clean) →
      reads.foldl (fun a x => if x.addr < a then a else x.addr / 8 * 8 + 8) s.dev.ecc.dramNext = next →
    Leaves (.selfRefreshScrub dt reads) s { s.now dt with ecc := { s.dev.ecc with heldScrubs := 0, srAt := (s.now dt).tb, dramNext := next } } fun t =>
      t.dev.out = s.dev.out)
  ∧ (∀ (s : State) (dt ring : Nat) (x : Desc), s.dev.live? = none → s.dev.ecc.sweep = none →
      ((s.now dt).acceptsParam ring x 0xC003 [.setup, .ready] true = true → valueExtra x [0, 0, 0, 0] = none →
        Alters (.dramTrain dt ring x) s dt ecc (block 0xC) fun t => t.dev.out = ((s.now dt).taken ring x).out ∧ t.dev.on Reg.MEM_DRAM_STAT.TRAINING = true
          ∧ t.dev.on Reg.MEM_DRAM_STAT.SELF_REF = false ∧ t.dev.get Reg.MEM_DRAM_STAT.SPEED_NOW = s.dev.get Reg.MEM_DRAM_STAT.SPEED_NOW
          ∧ t.dev.ecc.sweep = some ⟨s.dev.get Reg.MEM_DRAM_STAT.SPEED_NOW, none, none, false, [(s.now dt).ticketOf ring x]⟩)
      ∧ ((s.now dt).acceptsParam ring x 0xC002 [.setup, .ready] true = true → valueExtra x [1, 0, 0, 0] = none →
        Alters (.dramSpeed dt ring x) s dt ecc (block 0xC) fun t => t.dev.out = ((s.now dt).taken ring x).out ∧ t.dev.on Reg.MEM_DRAM_STAT.TRAINING = true
          ∧ t.dev.on Reg.MEM_DRAM_STAT.SELF_REF = false ∧ t.dev.get Reg.MEM_DRAM_STAT.SPEED_NOW = x.w 6 % 2
          ∧ t.dev.ecc.sweep = some ⟨x.w 6 % 2, none, none, true, [(s.now dt).ticketOf ring x]⟩))
  ∧ (∀ (s : State) (dt : Nat) (rd wr : List (BitVec 64)) (w : Sweep), s.dev.ecc.sweep = some w → s.dev.mode ≠ .off → s.dev.mode ≠ .selftest →
      w.deferred = none → w.fallback = none → s.dev.ecc.rdDelay.length = 128 → s.dev.ecc.wrDelay.length = 128 →
      (∀ k, k < 128 → 8 ≤ (longestRun (rd.getD k 0).toNat).1 ∧ 8 ≤ (longestRun (wr.getD k 0).toNat).1) → (∀ k ∈ w.tickets, k.ring < 32 ∧ k.op = 0x0F) →
    Alters (.trainingSweepDone dt rd wr) s dt (fun d => { d with ecc := Dev.reset.ecc, recd := { d.recd with hists := [] } })
        (fun o => block 0xC o || decide (o / 4 = Reg.REC_STAT.HIST_HELD.off / 4)) fun t =>
      t.dev.on Reg.MEM_DRAM_STAT.TRAINING = false ∧ t.dev.ecc.sweep = none ∧ (∀ k ∈ w.tickets, Closes (s.now dt) t k 0)
      ∧ ∀ k, k < 128 → t.dev.ecc.rdDelay.getD k 0 = centreOf (longestRun (rd.getD k 0).toNat)
          ∧ t.dev.ecc.wrDelay.getD k 0 = centreOf (longestRun (wr.getD k 0).toNat))
  ∧ (
      let ok (s : State) (t : Nat) (r : DramReq) : Bool :=
        !bitOf (s.dev.get Reg.MEM_DRAM_ROWACT.THROTTLED) r.port || decide (s.dev.ecc.portAt.getD r.port 0 + 1000 ≤ t)
      let key (p : Nat) (r : DramReq) : Nat := 32 * (r.addr / 2 ^ 15) + p
      (∀ (c : DramChan) (owed limit t : Nat) (panic hit : Bool) (ok : DramReq → Bool),
          (c.pick owed limit panic t ok hit = .refresh ↔ limit ≤ owed ∨ c.idle = true ∧ 0 < owed)
          ∧ (∀ i, c.pick owed limit panic t ok hit = .read i → ∃ x, c.reads[i]? = some x ∧ ok x.req = true ∧
              (panic = true ∧ x.req.port = 0 ∧ (∀ y ∈ c.reads.take i, ok y.req = true → y.req.port ≠ 0)
              ∨ 10000 < t - x.since ∧ (∀ y ∈ c.reads.take i, ok y.req = true → t - y.since ≤ 10000)
              ∨ (∀ y ∈ c.reads, ok y.req = true → x.req.port ≤ y.req.port) ∧ ∀ y ∈ c.reads.take i, ok y.req = true → y.req.port = x.req.port →
                  hit = true ∧ c.open_ (dramBank x.req.addr) = some (dramRow x.req.addr) ∧ (dramBank y.req.addr = dramBank x.req.addr → y.passed < 16)))
          ∧ (∀ i, c.pick owed limit panic t ok hit = .write i → ∃ r, c.writes[i]? = some r ∧ ok r = true ∧ (∀ w ∈ c.writes.take i, ok w = false)
              ∧ (c.reads = [] ∨ c.draining = true ∧ (panic = true → 64 ≤ c.writes.length))))
      ∧ (∀ (c : DramChan) (r : DramReq), c.writes.length ≤ 64 → (c.write r).writes.length ≤ 64 ∧ (r ∈ (c.write r).writes ∨ r ∈ (c.write r).waiting)
          ∧ (c.writes.Pairwise (fun x y => sameBurst x y = false) → (c.write r).writes.Pairwise fun x y => sameBurst x y = false)
          ∧ ∀ w ∈ c.writes, sameBurst r w = false → w ∈ (c.write r).writes)
      ∧ (∀ (s : State) (dt p ns t i : Nat) (hit : Bool) (x : DramWait), s.dev.mode ≠ .off → p < 32 → s.dev.ecc.chans.length = 32 →
          2 ^ 63 ≤ (s.now dt).since (s.dev.ecc.slotAt.getD p 0) → s.dev.on Reg.MEM_DRAM_STAT.TRAINING = false → s.dev.on Reg.MEM_DRAM_STAT.SELF_REF = false →
          t = min (s.now dt).tb ((s.dev.pchan p).last + ns) → t / 32000000 ≤ s.dev.ecc.window → (s.dev.pchan p).busy ≤ t →
          (s.dev.pchan p).pick (s.dev.ecc.owed.getD p 0) (s.dev.get Reg.MEM_DRAM_REF.LIMIT) (s.dev.on Reg.MEM_DRAM_STAT.PANIC) t (ok s t) hit = .read i →
          (s.dev.pchan p).reads[i]? = some x → x.req.port ≤ 10 →
        Alters (.refreshSlot dt p [.issue ns hit]) s dt ecc (block 0xC) fun u => .dram p (.burst x.req) ∈ u.dev.out.drop s.dev.out.length
          ∧ (u.dev.pchan p).reads.map (·.req) = ((s.dev.pchan p).reads.map (·.req)).eraseIdx i ∧ (u.dev.pchan p).writes = (s.dev.pchan p).writes
          ∧ (∀ q, q ≠ p → u.dev.pchan q = s.dev.pchan q)
          ∧ (kvGet s.dev.ecc.acts (key p x.req) = some 4096 → (s.dev.pchan p).open_ (dramBank x.req.addr) ≠ some (dramRow x.req.addr) →
            bitOf (u.dev.get Reg.MEM_DRAM_ROWACT.THROTTLED) x.req.port = true
            ∧ u.dev.get Reg.MEM_DRAM_ROWACT.EVENTS = min 65535 (s.dev.get Reg.MEM_DRAM_ROWACT.EVENTS + 1)
            ∧ .dram p (.neighbours (dramBank x.req.addr) (dramRow x.req.addr)) ∈ u.dev.out.drop s.dev.out.length
            ∧ Tells (s.now dt) u 0xC011 [dramRow x.req.addr, x.req.port, 4097])))

/-! ## Verdicts and CRC units -/

/-- The next final verdict of a live job on an ACTIVE unit is marked posted, counted by its kind and made the last; FRAME_VERDICT is posted unless it is a PASS that is only counted. The mark pulse ends at its time. A CRC block that passes its checks starts its unit, which is BUSY, over the data of device memory, which stands. At its end the unit is no longer BUSY, CRC_DONE is posted, and the command completes OK where nothing was compared or the comparison agrees and nothing is poisoned. Some of it is the model's choice: log entries 96, 97 and 98. -/
def Obligations.VerdictsAndCrcRuns : Prop :=
  let frames (d : Dev) : Dev := { d with chk := { d.chk with frames := [], lastFrame := 0 }, net := { d.net with seqs := [] } }
  (∀ (s : State) (dt f : Nat) (j : Job) (r : FrameRec), s.dev.mode.printing = true → s.dev.active = true → s.dev.verdictDue = some (j, f) →
      s.dev.frame j.tag f = r → s.dev.jobs.all (fun k => k.phase != .ending) = true → s.dev.on Reg.REC_RPL_CFG.EN = false →
    Alters (.frameVerdict dt) s dt frames (block 0xD) fun t => (t.dev.frame j.tag f).posted = true ∧ (t.dev.frame j.tag f).verdict = r.verdict
      ∧ t.dev.get Reg.CHK_LAST.FRAME = f % 2 ^ 16 ∧ t.dev.chk.lastFrame = f % 2 ^ 32 ∧ t.dev.get Reg.CHK_LAST.TAG = j.tag % 256 ∧ t.dev.jobs = s.dev.jobs
      ∧ (r.verdict = vPass → t.dev.get Reg.CHK_PASS.PASS = (s.dev.get Reg.CHK_PASS.PASS + 1) % 2 ^ 32)
      ∧ (r.verdict = vSuspect → t.dev.get Reg.CHK_CNT.SUSPECT = min 65535 (s.dev.get Reg.CHK_CNT.SUSPECT + 1))
      ∧ (r.verdict = vReject → t.dev.get Reg.CHK_CNT.REJECT = min 65535 (s.dev.get Reg.CHK_CNT.REJECT + 1))
      ∧ (r.verdict ≠ vPass ∨ s.dev.on Reg.CHK_CFG.REPORT_PASS = true → Tells (s.now dt) t 0xD001 [j.tag, f, r.verdict + 4 * b2n (s.dev.saysMarked r),
          r.causes, r.firstLine.getD 0xFFFFFFFF, r.links]))
  ∧ (∀ (s : State) (dt p : Nat), s.dev.chk.pulseEnd = some p → p ≤ (s.now dt).tb →
    Leaves (.markPulseEnd dt) s (({ s.now dt with chk := { s.dev.chk with pulseEnd := none } }).driveMark false) fun t => t.dev.chk.mark = false)
  ∧ (∀ (s : State) (dt ring : Nat) (x : Desc) (bytes : List Byte) (ws : List Nat), (s.now dt).acceptsParam ring x 0xD001 allServed true = true →
      atFrame x = false → (x.w 6 + 2 ^ 32 * x.w 7) % 64 = 0 → x.w 8 = 0 → x.w 9 = 0 → bytes.length = 64 →
      (List.range 16).map (fun i => leAt (natBytes bytes) (4 * i) 4) = ws → s.dev.crcBlockBad ws = none →
    Flushes (.crcRun dt ring x (.data bytes)) s ∧ Alters (.crcRun dt ring x (.data bytes)) s.flushed dt (fun d => { d with chk := { d.chk with runs := [] }, ecc := Dev.reset.ecc })
        (fun o => block 0xC o || block 0xD o) fun t => t.dev.on (Reg.CHK_CRC_STAT_u.BUSY (ws.getD 0 0 % 4 + 4)) = true
      ∧ ∃ r, t.dev.chk.runs = s.dev.chk.runs ++ [r] ∧ r.ticket = (s.now dt).ticketOf ring x ∧ r.unit = ws.getD 0 0 % 4 + 4
        ∧ r.running = crcBlockRun ws (natBytes (memGet s.stored (crcDev ws) (ws.getD 3 0))) ∧ r.compare = bitOf (ws.getD 0 0) 6)
  ∧ (∀ (s : State) (dt u : Nat) (r : CrcRun), u < 8 → (s.dev.chk.runs.find? fun q => q.unit == u) = some r → s.dev.mode.served = true →
      (r.compare = true → r.result = r.expect) → r.poison = false → r.ticket.ring < 32 → r.ticket.op = 0x0F →
    Alters (.crcRunDone dt u) s dt (fun d => { d with chk := { d.chk with runs := [] } }) (block 0xD) fun t =>
      t.dev.on (Reg.CHK_CRC_STAT_u.BUSY u) = false ∧ t.dev.on (Reg.CHK_CRC_STAT_u.DONE u) = true
      ∧ t.dev.chk.runs = s.dev.chk.runs.filter (fun q => q.unit != u) ∧ Tells (s.now dt) t 0xD006 [u, 0, r.result % 2 ^ 32, r.result / 2 ^ 32]
      ∧ Closes (s.now dt) t r.ticket 0)

/-! ## Clocks and calibration -/

/-- TREF lost and restored are shown and posted. A lost CORE, TB, SVC or DRAM PLL is fatal: SAFE with its cause, the outputs held by the asynchronous path. A lost lane PLL takes its ports DOWN with fault 1; a lost AUX PLL takes both Ethernet links down. Every 10 ms a relock attempt shows the locks that are good again. A watchdog reset of the service processor and a reset of the PCIE side raise the generation of their control crossings, and the device is in SAFE with cause 5. Some of it is the model's choice: log entries 66, 102, 103 and 124. -/
def Obligations.ClocksPllsAndOneSidedResets : Prop :=
  let own (o : Nat) : Bool := block 7 o || block 8 o || block 9 o || decide (o / 4 = Reg.SENSE_CLK_STAT.CREF_OK.off / 4)
  (∀ (s : State) (dt : Nat), s.dev.mode ≠ .off → s.dev.on Reg.SENSE_CLK_STAT.TREF_OK = true → s.dev.clk.cal = none →
    Leaves (.trefLost dt) s ((s.now dt).put Reg.SENSE_CLK_STAT.TREF_OK 0) fun t => Tells (s.now dt) t 0x6042 [0])
  ∧ (∀ (s : State) (dt : Nat), s.dev.mode ≠ .off → s.dev.on Reg.SENSE_CLK_STAT.TREF_OK = false →
    Leaves (.trefRestored dt) s ((s.now dt).put Reg.SENSE_CLK_STAT.TREF_OK 1) fun t => Tells (s.now dt) t 0x6042 [1])
  ∧ (∀ (s : State) (dt pll ports : Nat), s.dev.mode.served = true → s.dev.svc.pllsLocked = true → s.dev.on (clkBit pll) = true →
      (2 ≤ pll → pll ≤ 5 → Does (.pllLockLoss dt pll ports) s fun t => t.dev.mode = .safe ∧ t.dev.on (clkBit pll) = false
        ∧ t.dev.get Reg.GLB_STATE.SAFE_CAUSE = causeFatal ∧ t.dev.clk.asyncHold = true ∧ t.dev.clk.ringHold = some false)
      ∧ (pll = 7 → (∀ n, (s.dev.lk n).queue = []) → Alters (.pllLockLoss dt pll ports) s dt (fun d => { d with
          lane := Dev.reset.lane, link := Dev.reset.link, clk := { d.clk with relockAt := 0 } }) own fun t =>
        t.dev.on Reg.SENSE_CLK_STAT.LOCK_LANE = false ∧ ∀ p, p < 20 → bitOf ports p = true → s.dev.on (Reg.LANE_PORT_CFG_p.EN p) = true →
          s.dev.get (Reg.LANE_PORT_STAT_p.STATE p) ≠ 9 → t.dev.get (Reg.LANE_PORT_STAT_p.STATE p) = 9 ∧ t.dev.get (Reg.LANE_PORT_STAT_p.FAULT p) = 1)
      ∧ (pll = 8 → Does (.pllLockLoss dt pll ports) s fun t => t.dev.on Reg.SENSE_CLK_STAT.LOCK_AUX = false
          ∧ (s.dev.linen.v ≠ 0 → t.dev.mode = s.dev.mode)
          ∧ ∀ p, p < 2 → t.dev.on (Reg.TIME_PORT_CNT_p.LINK p) = false))
  ∧ (∀ (s : State) (dt good : Nat), s.dev.mode ≠ .off → s.dev.svc.pllsLocked = true → 10000000 ≤ (s.now dt).since s.dev.clk.relockAt →
      s.dev.on Reg.SENSE_CLK_STAT.CREF_OK = true → [0, 2, 3, 4, 5, 6, 7, 8].all (fun i => s.dev.on (clkBit i)) = false →
    Alters (.pllRelockAttempt dt good) s dt (fun d => { d with clk := { d.clk with relockAt := 0 }, sense := { d.sense with mods := [] } })
        (fun o => decide (o / 4 = Reg.SENSE_CLK_STAT.CREF_OK.off / 4)) fun t => t.dev.clk.relockAt = (s.now dt).tb ∧ t.dev.out = s.dev.out
      ∧ ∀ i, 2 ≤ i → i ≤ 8 → t.dev.on (clkBit i) = (s.dev.on (clkBit i) || bitOf good i))
  ∧ (∀ (s : State) (dt : Nat), s.dev.mode.served = true →
      (s.dev.svc.up = true → Does (.svcWatchdog dt) s fun t => t.dev.mode = .safe ∧ t.dev.get Reg.GLB_STATE.SAFE_CAUSE = causeOneSided
        ∧ (∀ m, t.dev.unlocked m = false)
        ∧ ∀ n, n = 5 ∨ n = 6 → t.dev.get (Reg.SENSE_XING_n.GEN n) = (s.dev.get (Reg.SENSE_XING_n.GEN n) + 1) % 256)
      ∧ (s.dev.on Reg.SENSE_CLK_STAT.LOCK_PCIE = true → Does (.pcieSideReset dt) s fun t => t.dev.mode = .safe
        ∧ t.dev.get Reg.GLB_STATE.SAFE_CAUSE = causeOneSided ∧ t.dev.host.dbBusy = false ∧ t.dev.host.cplTimeout = 0
        ∧ ∀ n, n = 1 ∨ n = 2 → t.dev.get (Reg.SENSE_XING_n.GEN n) = (s.dev.get (Reg.SENSE_XING_n.GEN n) + 1) % 256))

/-- CAL_NOW starts a run with trigger 2, of both twins in SETUP, and waits. One second after a failed run whose trigger still holds, another starts. A round in which every twin under calibration is within its limits ends the run: PASS, one run more, the event with its rounds, its trigger and its temperature change, its commands complete OK, no trim moved; the twins that were not in service are due to swap. A line that is due swaps its twin. Some of it is the model's choice: log entry 104. -/
def Obligations.CalibrationRunsPassAndSwap : Prop :=
  let clk (d : Dev) : Dev := { d with clk := Dev.reset.clk }
  let stat (o : Nat) : Bool := decide (o / 4 = Reg.SENSE_CAL_STAT.PASS.off / 4) || decide (o / 4 = Reg.SENSE_CAL_TEMP.TEMP.off / 4)
  (∀ (s : State) (dt ring : Nat) (x : Desc), (s.now dt).acceptsParam ring x 0x6801 allServed true = true → valueExtra x [0, 0, 0, 0] = none →
      s.dev.clk.cal = none → s.dev.on Reg.SENSE_CLK_STAT.TREF_OK = true →
    Alters (.calNow dt ring x) s dt clk stat fun t => t.dev.on Reg.SENSE_CAL_STAT.RUNNING = true ∧ t.dev.out = ((s.now dt).taken ring x).out
      ∧ ∃ r, t.dev.clk.cal = some r ∧ r.trigger = 2 ∧ r.both = (s.dev.mode == .setup) ∧ r.rounds = 0 ∧ r.passed = [] ∧ r.temps = s.dev.dieTemps
      ∧ r.tickets = [(s.now dt).ticketOf ring x] ∧ r.saved = s.dev.clk.trims)
  ∧ (∀ (s : State) (dt f : Nat), s.dev.clk.failed = some (f, 1) → s.dev.clk.cal = none → s.dev.mode ≠ .off → 1000000000 ≤ (s.now dt).since f →
      (s.dev.calTrigger s.dev.clk.passTemps = true → s.dev.on Reg.SENSE_CLK_STAT.TREF_OK = true → Alters (.calRetry dt) s dt clk stat fun t =>
        t.dev.on Reg.SENSE_CAL_STAT.RUNNING = true ∧ t.dev.out = s.dev.out ∧ ∃ r, t.dev.clk.cal = some r ∧ r.trigger = 1 ∧ r.both = false ∧ r.tickets = [])
      ∧ (s.dev.calTrigger s.dev.clk.passTemps = false →
        Leaves (.calRetry dt) s { s.now dt with clk := { s.dev.clk with failed := none } } fun t => t.dev.out = s.dev.out))
  ∧ (∀ (s : State) (dt : Nat) (counts : List (Nat × List Nat)) (r : CalRun), s.dev.clk.cal = some r → s.dev.calTrigger r.temps = false →
      (∀ k ∈ s.dev.calTwins r, r.passed.contains k = false → ∃ c, (counts.find? fun x => x.1 == k) = some (k, c) ∧ c.length = 32
        ∧ c.foldl (· + ·) 0 = 65536 ∧ spreadBad c = false ∧ twinGood c = true) → (∀ k ∈ r.tickets, k.ring < 32 ∧ k.op = 0x0F) →
    Alters (.calRoundDone dt counts) s dt (fun d => { d with clk := Dev.reset.clk, svc := { d.svc with durations := [] } }) stat fun t =>
      t.dev.on Reg.SENSE_CAL_STAT.PASS = true ∧ t.dev.on Reg.SENSE_CAL_STAT.RUNNING = false ∧ t.dev.clk.cal = none ∧ t.dev.clk.failed = none
      ∧ t.dev.get Reg.SENSE_CAL_STAT.RUNS = min 65535 (s.dev.get Reg.SENSE_CAL_STAT.RUNS + 1) ∧ t.dev.clk.trims = s.dev.clk.trims
      ∧ t.dev.clk.swapDue = (if r.both then s.dev.clk.swapDue else 2 ^ 38 - 1) ∧ t.dev.clk.passTemps = r.temps
      ∧ Tells (s.now dt) t 0x6040 [0, r.rounds + 1, 0, r.trigger, fieldOf 32 r.delta] ∧ ∀ k ∈ r.tickets, Closes (s.now dt) t k 0)
  ∧ (∀ (s : State) (dt line : Nat), s.dev.mode ≠ .off → line < 38 → bitOf s.dev.clk.swapDue line = true → s.dev.clk.cal = none →
    Leaves (.twinSwap dt line) s { s.now dt with clk := { s.dev.clk with
      swapDue := setBit s.dev.clk.swapDue line false, inB := setBit s.dev.clk.inB line (!bitOf s.dev.clk.inB line) } } fun t =>
        t.dev.out = s.dev.out ∧ bitOf t.dev.clk.inB line = !bitOf s.dev.clk.inB line)

/-! ## Temperatures and mains -/

/-- A sample reports every raw reading. A reading outside -55 to 150 C breaks its sensor; so does one that stands still over 10 s while the valid neighbours move; it is valid again after 10 s in range. The level moves by one toward the higher of the two targets, with a broken sensor counted at its point, and a change is posted. FAST follows both points less 5 C. A cause of R452 that was not there at the sample before writes a record where MRAM takes it, sets PEND, and brings SAFE with cause 4. Without a shutdown nothing else changes but calibration and refresh mode. Some of it is the model's choice: log entries 105 and 106. -/
def Obligations.TemperaturesThrottleAndShutDown : Prop :=
  ∀ (s : State) (dt : Nat) (readings : List Int) (mramOk : Bool), s.dev.mode ≠ .off → s.dev.svc.pllsLocked = true → readings.length = 17 →
    (∀ x ∈ s.dev.sense.hist.head?, 8000000 ≤ (s.now dt).since x.1) → s.dev.sense.next = [] → s.dev.get Reg.SENSE_THERM_STAT.LEVEL ≤ 15 →
    s.dev.sense.sensors.length = 17 →
    let read (n : Nat) : Int := readings.getD n 0
    let inside (n : Nat) : Prop := -220 ≤ read n ∧ read n ≤ 600
    let pd : Int := 4 * (s.dev.get Reg.SENSE_THERM_CFG.THR : Nat)
    let ps : Int := 4 * (s.dev.get Reg.SENSE_THERM_CFG.STACK_THR : Nat)
    let target (x p : Int) : Nat := if x < p then 0 else min 15 (1 + ((x - p) / 2).toNat)
    let broken (t : State) (n : Nat) : Bool := (t.dev.sensor n).broken
    let counts (t : State) (n : Nat) : Int := if broken t n then (if n = 16 then ps else pd) else read n
    let span (t : State) (f : List Int → Int) : Nat := spanOf (t.dev.sense.hist.map fun h => f h.2)
    let near (n : Nat) : List Nat := ((sensorGroups.find? (·.contains n)).getD []).filter fun m => m != n && !broken s m
    let cause (t : State) (c : Nat) : Prop := bitOf s.dev.sense.trig c = false ∧
      (c = 1 ∧ (∃ n, n < 16 ∧ broken t n = false ∧ 460 ≤ read n) ∨ c = 2 ∧ broken t 16 = false ∧ 420 ≤ read 16
        ∨ c = 3 ∧ ∃ g ∈ sensorGroups, ∃ a ∈ g, ∃ b ∈ g, a ≠ b ∧ broken t a = true ∧ broken t b = true)
    Does (.thermalSample dt readings mramOk) s fun t =>
      t.dev.sense.hist.head? = some ((s.now dt).tb, readings)
      ∧ (∀ n, n < 17 → t.dev.get (Reg.SENSE_TEMP_n.TEMP n) = fieldOf 16 (read n) ∧ t.dev.on (Reg.SENSE_TEMP_n.BROKEN n) = broken t n
        ∧ (¬ inside n → broken t n = true)
        ∧ (inside n → broken s n = false → broken t n = (decide (near n ≠ []) && t.dev.histFull && decide (span t (·.getD n 0) ≤ 1)
            && decide (8 * (near n).length < span t fun h => ((near n).map fun m => h.getD m 0).foldl (· + ·) 0)))
        ∧ (inside n → broken s n = true → 10000000000 ≤ (s.now dt).since (s.dev.sensor n).inRange → (s.dev.sensor n).stuck = false → broken t n = false))
      ∧ (∀ die, (∃ n, n < 16 ∧ counts t n = die) → (∀ n, n < 16 → counts t n ≤ die) →
          let old := s.dev.get Reg.SENSE_THERM_STAT.LEVEL
          let new := t.dev.get Reg.SENSE_THERM_STAT.LEVEL
          let goal := max (target die pd) (target (counts t 16) ps)
          new = (if old < goal then old + 1 else if goal < old ∧ die < pd - 8 ∧ counts t 16 < ps - 8 then old - 1 else old)
          ∧ (new ≠ old → (∀ n, n < 17 → broken t n = broken s n) → Tells (s.now dt) t 0x6001 [new, t.dev.get Reg.SENSE_THERM_STAT.SENSOR,
              fieldOf 32 (read (t.dev.get Reg.SENSE_THERM_STAT.SENSOR)), if old = 0 then 0 else if new = 0 then 2 else 1]))
      ∧ (((∃ n, n < 16 ∧ broken t n = false ∧ pd - 20 ≤ read n) ∨ ps - 20 ≤ counts t 16) → t.dev.get Reg.SENSE_THERM_STAT.FAST = 1)
      ∧ ((∀ n, n < 16 → broken t n = false → read n ≤ pd - 24) → counts t 16 ≤ ps - 24 → t.dev.get Reg.SENSE_THERM_STAT.FAST = 0)
      ∧ (∀ c, cause t c → (∀ b, b < c → ¬ cause t b) → t.dev.get Reg.SENSE_SHUT.PEND = 1 ∧ t.dev.mode = .safe
          ∧ (s.dev.mode ≠ .safe → t.dev.get Reg.GLB_STATE.SAFE_CAUSE = 4)
          ∧ (mramOk = false → t.dev.get Reg.SENSE_SHUT.WRITE_FAIL = 1 ∧ t.dev.sense.shut = s.dev.sense.shut)
          ∧ (mramOk = true → t.dev.get Reg.SENSE_SHUT.WRITE_FAIL = 0 ∧ ∃ r, t.dev.shutRecord = some r ∧ r.cause = c ∧ r.readings = readings
            ∧ r.ack = false ∧ r.tb = (s.now dt).tb ∧ r.state = s.dev.mode.code ∧ r.pw = s.dev.pos.pw
            ∧ r.count = (match s.dev.shutRecord with | some o => min 0xFFFFFFFF (o.count + 1) | none => 1)))
      ∧ ((∀ c, ¬ cause t c) → t.dev.SameBut (fun d => { d with sense := Dev.reset.sense, clk := Dev.reset.clk, ecc := Dev.reset.ecc })
          (fun o => block 6 o || decide (o / 4 = Reg.MEM_DRAM_STAT.TEMP.off / 4) || decide (o / 4 = Reg.MEM_DRAM_REF.LIMIT.off / 4)) (s.now dt)
          ∧ t.dev.sense.shut = s.dev.sense.shut ∧ t.dev.get Reg.SENSE_SHUT.PEND = s.dev.get Reg.SENSE_SHUT.PEND)

/-- In SAFE or SETUP a write of SENSE_SHUT_ACK with GO and the KEY of the newest record, with the valid die readings below THR less 10 C and the stack below STACK_THR less 10 C, writes the record again acknowledged with its SEQ one higher, and clears PEND and UNACK; a failed MRAM write leaves PEND; otherwise it is refused and counted. In other states, or without GO, it does nothing. A PARAM in READY, RUN and HOLD with a good value completes OK and waits for its instant; a bad value is BAD_PARAM 6; a change of EN or DEC is refused; the thermal value takes effect at the next sample. Some of it is the model's choice: log entries 106 and 108. -/
def Obligations.ShutdownIsAcknowledgedAndSenseParams : Prop :=
  let sense (d : Dev) : Dev := { d with sense := Dev.reset.sense }
  let own (o : Nat) : Bool := block 6 o || block 0xD o
  (∀ (s : State) (dt value : Nat) (mramOk : Bool),
      let cool : Prop := (∀ n, n < 16 → (s.dev.sensor n).broken = false → s.dev.reading n < 4 * (s.dev.get Reg.SENSE_THERM_CFG.THR : Nat) - 40)
        ∧ (s.dev.sensor 16).broken = false ∧ s.dev.reading 16 < 4 * (s.dev.get Reg.SENSE_THERM_CFG.STACK_THR : Nat) - 40
      (s.dev.mode = .safe ∨ s.dev.mode = .setup → bitOf value 16 = true →
        (∀ r, s.dev.shutRecord = some r → value % 65536 = r.seq % 65536 → cool →
          Alters (.shutdownAck dt value mramOk) s dt sense own fun t =>
            (mramOk = true → t.dev.shutRecord = some { r with ack := true, seq := (r.seq + 1) % 2 ^ 32 } ∧ t.dev.get Reg.SENSE_SHUT.PEND = 0
              ∧ t.dev.get Reg.SENSE_SHUT.UNACK = 0)
            ∧ (mramOk = false → t.dev.sense = s.dev.sense ∧ t.dev.get Reg.SENSE_SHUT.PEND = s.dev.get Reg.SENSE_SHUT.PEND
              ∧ t.dev.get Reg.SENSE_SHUT.WRITE_FAIL = 1))
        ∧ ((∀ r, s.dev.shutRecord = some r → value % 65536 ≠ r.seq % 65536 ∨ (s.dev.sensor 16).broken = false
              ∧ 4 * (s.dev.get Reg.SENSE_THERM_CFG.STACK_THR : Nat) - 40 ≤ s.dev.reading 16) →
          Alters (.shutdownAck dt value mramOk) s dt id own fun t => t.dev.get Reg.SENSE_SHUT.PEND = s.dev.get Reg.SENSE_SHUT.PEND
            ∧ t.dev.get Reg.SENSE_SHUT.REFUSED = min 255 (s.dev.get Reg.SENSE_SHUT.REFUSED + 1)))
      ∧ (s.dev.mode ≠ .safe → s.dev.mode ≠ .setup → Leaves (.shutdownAck dt value mramOk) s (s.now dt) fun t => t.dev.out = s.dev.out))
  ∧ (∀ (s : State) (dt ring i : Nat) (x : Desc), i = 0x6000 ∨ i = 0x6080 ∨ i = 0x6094 → (s.now dt).acceptsParam ring x i readyRunHold true = true →
      valueExtra x [0xFFFFFFFF, 0, 0, 0] = none →
      let off := 0x60000 + i % 4096
      let new := s.dev.forceReg off (x.w 6)
      let good : Prop := Nat.land (x.w 6) (Nat.xor 0xFFFFFFFF (lkMask off)) = 0 ∧ (i = 0x6000 →
          (70 ≤ x.f 6 0 8 ∧ x.f 6 0 8 ≤ 105 ∧ 75 ≤ x.f 6 8 8 ∧ x.f 6 8 8 ≤ 100 ∧ 1 ≤ x.f 6 16 8))
        ∧ (i = 0x6080 → x.f 6 4 2 ≤ 2 ∧ 40 ≤ x.f 6 8 8 ∧ x.f 6 8 8 ≤ 70 ∧ 50 ≤ x.f 6 16 7 ∧ x.f 6 16 7 ≤ 99 ∧ 1 ≤ x.f 6 24 4 ∧ x.f 6 24 4 ≤ 10)
        ∧ (i = 0x6094 → 50 ≤ x.f 6 0 8 ∧ x.f 6 0 8 ≤ 99 ∧ x.f 6 0 8 < x.f 6 8 8 ∧ x.f 6 8 8 ≤ 100)
      let kept : Prop := i = 0x6080 → new.get Reg.SENSE_MOD_CFG.EN = s.dev.get Reg.SENSE_MOD_CFG.EN
        ∧ new.get Reg.SENSE_MOD_CFG.DEC = s.dev.get Reg.SENSE_MOD_CFG.DEC
      (¬ good → Leaves (.senseParam dt ring x) s (s.now dt) fun t => Ends (s.now dt) t ring x stBadParam 6)
      ∧ (good → ¬ kept → Leaves (.senseParam dt ring x) s (s.now dt) fun t => Ends (s.now dt) t ring x stRefused s.dev.mode.code)
      ∧ (good → i = 0x6080 → kept → s.dev.get Reg.SENSE_MOD_CFG.EN % 8 = 0 → s.dev.sense.next = [] →
          Alters (.senseParam dt ring x) s dt id (fun o => decide (o / 4 = off / 4)) fun t => Ends (s.now dt) t ring x 0 0
            ∧ t.dev.get Reg.SENSE_MOD_CFG.FREQ = x.f 6 8 8 ∧ t.dev.get Reg.SENSE_MOD_CFG.SAG_PCT = x.f 6 16 7 ∧ t.dev.get Reg.SENSE_MOD_CFG.HYST = x.f 6 24 4)
      ∧ (good → kept → (i = 0x6080 → s.dev.get Reg.SENSE_MOD_CFG.EN % 8 ≠ 0) → Leaves (.senseParam dt ring x) s
          { s.now dt with sense := { s.dev.sense with next := s.dev.sense.next ++ [(off, x.w 6)] } } fun t => Ends (s.now dt) t ring x 0 0))
  ∧ (∀ (s : State) (dt v : Nat) (readings : List Int) (mramOk : Bool), s.dev.mode ≠ .off → s.dev.svc.pllsLocked = true → readings.length = 17 →
      (∀ x ∈ s.dev.sense.hist.head?, 8000000 ≤ (s.now dt).since x.1) → s.dev.sense.next = [(0x60000, v)] →
    Does (.thermalSample dt readings mramOk) s fun t => t.dev.sense.next = [] ∧ t.dev.get Reg.SENSE_THERM_CFG.THR = bitsOf v 0 8
      ∧ t.dev.get Reg.SENSE_THERM_CFG.STACK_THR = bitsOf v 8 8 ∧ t.dev.get Reg.SENSE_THERM_CFG.PAUSE_STEP = bitsOf v 16 8)

/-- M bits of an enabled input go through the filter of R457. A DC sample joins the sum of its millisecond. A phase's sample that ends no half-cycle joins its sum of squares. A sample that changes sign after half of T_h, once |s| has exceeded NOM / 8, ends the half-cycle and begins the next; 1.25 T_h without one ends it too. At an end the RMS is shown, a positive-going end of the lowest enabled phase counts, an RMS below SAG_PCT starts a sag and the second good half-cycle in a row ends it, each with its event and the action that follows; values that wait take effect. Some of it is the model's choice: log entry 107. -/
def Obligations.HalfCyclesAndSags : Prop :=
  let sense (d : Dev) : Dev := { d with sense := Dev.reset.sense }
  let ready (s : State) (n : Nat) : Prop := s.dev.mode ≠ .off ∧ s.dev.modEnabled n = true ∧ s.dev.on Reg.SENSE_CLK_STAT.LOCK_AUX = true
    ∧ s.dev.sense.mods.length = 4 ∧ (s.dev.modIn n).fault = none
  let filtered (s : State) (n : Nat) (bits : List Bool) : Int × ModIn := modComb (bits.foldl modBit (s.dev.modIn n)) (s.dev.get Reg.SENSE_MOD_CFG.DEC)
  let freq (s : State) : Nat := 8 * s.dev.get Reg.SENSE_MOD_CFG.FREQ
  let ended (s t : State) (dt n : Nat) (up : Bool) : Prop :=
    let m := s.dev.modIn n
    let q := m.sumSq / max 1 m.n
    let rms := t.dev.get (Reg.SENSE_MOD_VAL_n.VAL n)
    let nom := s.dev.get (Reg.SENSE_MOD_NOM_n.NOM n)
    let pct := s.dev.get Reg.SENSE_MOD_CFG.SAG_PCT
    let sag (s : State) : Bool := bitOf (s.dev.get Reg.SENSE_MAINS_STAT.SAG) n
    let cyc (s : State) : Nat := s.dev.get Reg.SENSE_MAINS_CYC.CYC
    let act (s : State) : Nat := s.dev.get Reg.SENSE_MAINS_STAT.ACTION
    let first := ∀ k, k < n → s.dev.modEnabled k = false
    let reports (kind : Nat) : Prop := act t = t.dev.mainsAction ∧ (act t = act s → Tells (s.now dt) t 0x6020
      [t.dev.get Reg.SENSE_MAINS_STAT.SAG, rms * 1000 / max 1 nom, cyc t, t.dev.sense.half + 2 * n, act t, kind])
    (q < 2 ^ 46 → rms * rms ≤ q ∧ q < (rms + 1) * (rms + 1))
    ∧ (first → cyc t = (if up then (cyc s + 1) % 2 ^ 32 else cyc s) ∧ t.dev.sense.half = b2n !up)
    ∧ (¬ first → cyc t = cyc s ∧ t.dev.sense.half = s.dev.sense.half)
    ∧ (t.dev.modIn n).halfAt = (s.now dt).tb ∧ (∀ k, k ≠ n → t.dev.modIn k = s.dev.modIn k)
    ∧ (q < 2 ^ 46 → sag s = false → if 100 * rms < pct * nom then sag t = true ∧ t.dev.get (Reg.SENSE_MOD_VAL_n.LOW n) = 1
          ∧ t.dev.get Reg.SENSE_MAINS_CNT.SAGS = min 65535 (s.dev.get Reg.SENSE_MAINS_CNT.SAGS + 1) ∧ reports 0
        else sag t = false ∧ act t = act s)
    ∧ (q < 2 ^ 46 → sag s = true → if (pct + s.dev.get Reg.SENSE_MOD_CFG.HYST) * nom ≤ 100 * rms ∧ m.good ≠ 0
        then sag t = false ∧ t.dev.get (Reg.SENSE_MOD_VAL_n.LOW n) = 0 ∧ reports 1
        else sag t = true ∧ act t = act s ∧ (t.dev.modIn n).good = b2n (decide ((pct + s.dev.get Reg.SENSE_MOD_CFG.HYST) * nom ≤ 100 * rms)))
  (∀ (m : ModIn) (b : Bool), let i1 := (m.i1 + if b then 1 else 2 ^ 32 - 1) % 2 ^ 32
      let i2 := (m.i2 + i1) % 2 ^ 32
      (modBit m b).i1 = i1 ∧ (modBit m b).i2 = i2 ∧ (modBit m b).i3 = (m.i3 + i2) % 2 ^ 32)
  ∧ (∀ (s : State) (dt : Nat) (bits : List Bool), ready s 3 → bits.length = 64 * 2 ^ s.dev.get Reg.SENSE_MOD_CFG.DEC →
      let (x, m) := filtered s 3 bits
      Leaves (.modSample dt 3 bits) s ((s.now dt).modModIn 3 fun _ => { m with sum := m.sum + x, n := m.n + 1 }) fun t => t.dev.out = s.dev.out)
  ∧ (∀ (s : State) (dt n : Nat) (bits : List Bool), n < 3 → ready s n → bits.length = 64 * 2 ^ s.dev.get Reg.SENSE_MOD_CFG.DEC →
      let (x, m) := filtered s n bits
      let cross : Prop := m.neg ≠ decide (x < 0)
      let ends : Prop := cross ∧ m.armed = true ∧ 2000000000 ≤ (s.now dt).since m.halfAt * freq s
      let loud := decide (s.dev.get (Reg.SENSE_MOD_NOM_n.NOM n) < 8 * x.natAbs)
      (¬ ends → Leaves (.modSample dt n bits) s ((s.now dt).modModIn n fun _ => { m with
          neg := decide (x < 0), zeroAt := if m.neg = decide (x < 0) then m.zeroAt else (s.now dt).tb, rmsOk := m.neg != decide (x < 0) || m.rmsOk
          sumSq := m.sumSq + x.natAbs * x.natAbs, n := m.n + 1, armed := m.armed || loud }) fun t => t.dev.out = s.dev.out)
      ∧ (ends → s.dev.sense.next = [] → (s.dev.sense.policy.take 6).all (· ≤ 2) = true → Alters (.modSample dt n bits) s dt sense (block 6) fun t =>
          ended s t dt n (decide (0 ≤ x)) ∧ (t.dev.modIn n).sumSq = x.natAbs * x.natAbs ∧ (t.dev.modIn n).n = 1 ∧ (t.dev.modIn n).armed = loud)
      ∧ (∀ v, ends → s.dev.sense.next = [(0x60080, v)] → Does (.modSample dt n bits) s fun t => t.dev.sense.next = []
          ∧ t.dev.get Reg.SENSE_MOD_CFG.FREQ = bitsOf v 8 8 ∧ t.dev.get Reg.SENSE_MOD_CFG.SAG_PCT = bitsOf v 16 7))
  ∧ (∀ (s : State) (dt n : Nat), n < 3 → ready s n → s.dev.sense.next = [] → (s.dev.sense.policy.take 6).all (· ≤ 2) = true →
      5000000000 ≤ (s.now dt).since (s.dev.modIn n).halfAt * freq s →
    Alters (.halfCycleTimeout dt n) s dt sense (block 6) fun t => ended s t dt n false
      ∧ (t.dev.modIn n).sumSq = 0 ∧ (t.dev.modIn n).n = 0 ∧ (t.dev.modIn n).armed = false)

/-- The mean of a millisecond of TB is shown; the first one below DC_LOW_PCT makes the bus low and the first one at or above DC_LOW_PCT + HYST ends it, each with its event and the action that follows. 4,096 equal bits, the lost AUX PLL or no zero crossing for four half-cycles make an input faulty; it clears after 1 ms of valid bits. A condition present for RT_MAX without a break adds ESCALATE: the action in force is the strongest entry, posted as escalated, and due at Linen's next compute instant where the web moves. Some of it is the model's choice: log entry 107. -/
def Obligations.BusMeanFaultsAndEscalation : Prop :=
  let sense (d : Dev) : Dev := { d with sense := Dev.reset.sense }
  let act (s : State) : Nat := s.dev.get Reg.SENSE_MAINS_STAT.ACTION
  let follows (t : State) : Prop := act t = t.dev.mainsAction
  let cyc (s : State) : Nat := s.dev.get Reg.SENSE_MAINS_CYC.CYC
  let lasts (s : State) : Nat := leAt s.dev.sense.policy 14 2 * 1000000
  let small (s : State) : Prop := (s.dev.sense.policy.take 6).all (· ≤ 2) = true ∧ s.dev.sense.mods.length = 4
  (∀ (s : State) (dt : Nat), small s → s.dev.mode ≠ .off → s.dev.modEnabled 3 = true → (s.dev.modIn 3).n ≠ 0 → (s.dev.modIn 3).fault = none →
      (s.now dt).tb / 1000000 ≠ s.dev.sense.dcAt / 1000000 → s.dev.sense.next = [] →
      let mean : Int := (s.dev.modIn 3).sum / ((s.dev.modIn 3).n : Int)
      let nom : Int := s.dev.get (Reg.SENSE_MOD_NOM_n.NOM 3)
      let low : Int := s.dev.get Reg.SENSE_MOD_DC.DC_LOW_PCT
      let was := s.dev.get Reg.SENSE_MAINS_STAT.DC_LOW
      let reports (t : State) (kind : Nat) : Prop := follows t ∧ (act t = act s → Tells (s.now dt) t 0x6021 [fieldOf 32 (mean * 1000 / max 1 nom), cyc s, act t, kind])
      Alters (.dcBusMean dt) s dt sense (block 6) fun t => t.dev.get (Reg.SENSE_MOD_VAL_n.VAL 3) = fieldOf 24 mean ∧ (t.dev.modIn 3).sum = 0
        ∧ (t.dev.modIn 3).n = 0 ∧ t.dev.sense.dcAt = (s.now dt).tb ∧ (∀ k, k ≠ 3 → t.dev.modIn k = s.dev.modIn k)
        ∧ (was = 0 → 100 * mean < low * nom → t.dev.get Reg.SENSE_MAINS_STAT.DC_LOW = 1 ∧ reports t 0)
        ∧ (was = 1 → (low + (s.dev.get Reg.SENSE_MOD_CFG.HYST : Nat)) * nom ≤ 100 * mean → t.dev.get Reg.SENSE_MAINS_STAT.DC_LOW = 0 ∧ reports t 1)
        ∧ ((was = 0 ∧ low * nom ≤ 100 * mean ∨ was = 1 ∧ 100 * mean < (low + (s.dev.get Reg.SENSE_MOD_CFG.HYST : Nat)) * nom) →
            t.dev.get Reg.SENSE_MAINS_STAT.DC_LOW = was ∧ act t = act s ∧ t.dev.out = s.dev.out))
  ∧ (∀ (s : State) (dt n : Nat), small s → n < 4 → s.dev.mode ≠ .off → s.dev.modEnabled n = true → (s.dev.modIn n).fault = none →
      let m := s.dev.modIn n
      let aux := s.dev.on Reg.SENSE_CLK_STAT.LOCK_AUX
      let silent : Prop := n < 3 ∧ m.rmsOk = true ∧ 4000000000 ≤ (s.now dt).since m.zeroAt * 2 * s.dev.get Reg.SENSE_MOD_CFG.FREQ
      (∀ c, c = 0 ∧ 4096 ≤ m.run ∨ c = 1 ∧ m.run < 4096 ∧ aux = false ∨ c = 2 ∧ m.run < 4096 ∧ aux = true ∧ silent →
        Alters (.modFault dt n) s dt sense (block 6) fun t => t.dev.modIn n = { m with fault := some c, validAt := (s.now dt).tb }
          ∧ t.dev.get (Reg.SENSE_MOD_VAL_n.FAULT n) = 1 ∧ follows t ∧ Tells (s.now dt) t 0x6023 [n, c, 0])
      ∧ (m.run < 4096 → aux = true → ¬ silent → Idles (.modFault dt n) s dt))
  ∧ (∀ (s : State) (dt c : Nat) (bits : List Bool), small s → s.dev.mode ≠ .off → s.dev.modEnabled 3 = true →
      s.dev.on Reg.SENSE_CLK_STAT.LOCK_AUX = true → bits.length = 64 * 2 ^ s.dev.get Reg.SENSE_MOD_CFG.DEC → (s.dev.modIn 3).fault = some c → c ≤ 1 →
      (bits.foldl modBit (s.dev.modIn 3)).run < 4096 → 1000000 ≤ (s.now dt).since (s.dev.modIn 3).validAt →
    Alters (.modSample dt 3 bits) s dt sense (block 6) fun t => (t.dev.modIn 3).fault = none ∧ t.dev.get (Reg.SENSE_MOD_VAL_n.FAULT 3) = 0
      ∧ follows t ∧ Tells (s.now dt) t 0x6023 [3, c, 1])
  ∧ (∀ (s : State) (dt c at_ : Nat), small s → s.dev.on Reg.SENSE_MAINS_STAT.ESCALATED = false → c ∈ s.dev.mainsConditions →
      s.dev.sense.since.find? (fun x => x.1 == c) = some (c, at_) → lasts s ≤ (s.now dt).since at_ →
    Alters (.rideThroughEscalate dt) s dt sense (block 6) fun t => t.dev.on Reg.SENSE_MAINS_STAT.ESCALATED = true ∧ follows t
      ∧ s.dev.sense.policy.getD 4 0 ≤ act t
      ∧ (s.dev.sense.policy.getD 4 0 ≠ 0 → Tells (s.now dt) t 0x6022
          [act t, min 0xFFFFFFFF ((match s.dev.linen.rideCap with | some (k, _) => k | none => s.dev.linen.v) / 2 ^ 24), cyc s, 1])
      ∧ (act s < act t → s.dev.active = true → s.dev.mode.printing = true → s.dev.follower = false → s.dev.webMoves = true → t.dev.sense.rideDue = act t))
  ∧ (∀ (s : State) (dt : Nat), (∀ x ∈ s.dev.sense.since, (s.now dt).since x.2 < lasts s) → Idles (.rideThroughEscalate dt) s dt)

/-! ## The monitor and JTAG -/

/-- A live session on UART_0, or the mailbox with this command as its first line: help, ver, state, st, temp, rec, lane, mem and rd answer with what R480 lists and then OK, and touch nothing but the session. A wrong count of arguments, or one that is no number, is ERR 3, as is a count or port out of range; a misaligned rd is ERR 6 and posted, and any rd is ERR 6 while the lost CORE PLL keeps BAR0 from answering. A line that is too long or unreadable is ERR 1, one with an unknown first token ERR 2. In SETUP and SAFE a character written with GO joins the mailbox's input while it has room; a read takes the next output character. Some of it is the model's choice: log entries 114 and 115. -/
def Obligations.MonitorPrintsWhatItIsAsked : Prop :=
  let hide (d : Dev) : Dev := { d with svc := { d.svc with inq := [], outq := [], baudAt := none, uart := Dev.reset.svc.uart, mbox := Dev.reset.svc.mbox } }
  let asks (s : State) (m : Nat) (name : String) (args : List (Option Nat)) : Prop := s.dev.monAlive m = true ∧ (m = 0 ∨ (s.dev.mailTake name args).isSome = true)
  let text (r : MonResp) : List Nat := (Config.monitorText r).map (· % 256)
  let answers (s t : State) (m : Nat) (rs : List MonResp) : Prop :=
    (m = 0 → t.dev.out = s.dev.out ++ rs.map .monitor) ∧ (m = 1 → t.dev.out = s.dev.out ∧ t.dev.svc.outq = s.dev.svc.outq ++ rs.flatMap text)
  let replies (i : Instr) (s : State) (dt m : Nat) (name : String) (args : List (Option Nat)) (rs : List MonResp) : Prop := asks s m name args →
    Alters i s dt hide noRegs fun t => answers s t m rs ∧ (t.dev.session m).lastAt = (s.now dt).tb ∧ (m = 0 → t.dev.svc.baudAt = none)
      ∧ (m = 1 → some t.dev.svc.inq = (s.dev.mailTake name args).map (·.svc.inq))
  let port (d : Dev) (p : Nat) : Nat × List Nat := (p, [0x04, 0x10, 0x14, 0x18, 0x1C].map fun o => d.wordAt (0x80000 + 64 * p + o))
  (∀ (s : State) (dt m : Nat), let d := s.now dt
      replies (.monHelp dt m []) s dt m "help" [] [.help, .ok]
      ∧ replies (.monVer dt m []) s dt m "ver" [] [.ver (d.get Reg.GLB_ID.PART) (d.get Reg.GLB_ID.STEPPING) (d.shown Reg.GLB_ID.GRADE)
          (if d.svc.verified then some (d.get Reg.SVC_FW_VER.VERSION, d.get Reg.SVC_BOOT.SLOT, d.get Reg.SVC_BOOT.ROLLBACK) else none), .ok]
      ∧ replies (.monState dt m []) s dt m "state" [] [.state (d.wordAt 4) (d.get2 Reg.GLB_FATAL_LOC_LO.LOC_LO Reg.GLB_FATAL_LOC_HI.LOC_HI), .ok]
      ∧ replies (.monSt dt m []) s dt m "st" [] [.selftest (d.get Reg.SVC_ST.STAGE) (d.get Reg.SVC_ST.FAILED)
          (d.get2 Reg.SVC_ST_LOC_LO.LOC_LO Reg.SVC_ST_LOC_HI.LOC_HI) d.svc.durations, .ok]
      ∧ replies (.monTemp dt m []) s dt m "temp" [] [.temp ((List.range 17).map fun n => d.wordAt (0x60010 + 4 * n))
          (d.get Reg.SENSE_THERM_STAT.LEVEL) (d.wordAt 0x60070), .ok]
      ∧ replies (.monMem dt m []) s dt m "mem" [] [.mem ([Reg.MEM_REPAIR.EFUSE, Reg.MEM_CE_CNT.SRAM, Reg.MEM_UE_CNT.NEW, Reg.MEM_DRAM_STAT.HOT].map
          fun f => d.wordAt f.off), .ok]
      ∧ replies (.monLane dt m []) s dt m "lane" [] [.lane ((List.range 20).map (port d)), .ok]
      ∧ (∀ p, replies (.monLane dt m [some p]) s dt m "lane" [some p] (if p < 20 then [.lane [port d p], .ok] else [.err 3]))
      ∧ (∀ n, replies (.monRec dt m [some n]) s dt m "rec" [some n] (if 1 ≤ n ∧ n ≤ 64 then [.records (d.recd.newest.take n), .ok] else [.err 3])))
  ∧ (∀ (s : State) (dt m : Nat), asks s m "rec" [] → ∃ n, 1 ≤ n ∧ n ≤ 64 ∧ Alters (.monRec dt m []) s dt hide noRegs fun t =>
      answers s t m [.records (s.dev.recd.newest.take n), .ok])
  ∧ (∀ (s : State) (dt m off n : Nat), off % 4 = 0 → 1 ≤ n → n ≤ 64 → off + 4 * n ≤ 0x100000 → (off + 4 * n ≤ 0xF0024 ∨ 0xF0024 < off) →
      s.dev.bar0Dead = false → asks s m "rd" [some off, some n] → Alters (.monRd dt m [some off, some n]) s dt hide noRegs fun t => ∃ ws, ws.length = n
        ∧ answers s t m [.words off ws, .ok] ∧ (m = 0 → ∀ i, i < n → ¬ (block 2 (off + 4 * i) = true ∧ (off + 4 * i) % 32 = 0x18) → ws.getD i 0 = ((s.now dt).readReg (off + 4 * i)).1))
  ∧ (∀ (s : State) (dt m off n : Nat),
      (n < 1 ∨ 64 < n ∨ 0x100000 < off + 4 * n → replies (.monRd dt m [some off, some n]) s dt m "rd" [some off, some n] [.err 3])
      ∧ (1 ≤ n → n ≤ 64 → off + 4 * n ≤ 0x100000 → off % 4 ≠ 0 → s.dev.bar0Dead = false → asks s m "rd" [some off, some n] →
        Alters (.monRd dt m [some off, some n]) s dt hide noRegs fun t => Tells (s.now dt) t 0x0005 [off, 4, 0]
          ∧ (m = 0 → t.dev.out.getLast? = some (.monitor (.err 6))) ∧ (m = 1 → t.dev.svc.outq = s.dev.svc.outq ++ text (.err 6)))
      ∧ (1 ≤ n → n ≤ 64 → off + 4 * n ≤ 0x100000 → s.dev.bar0Dead = true → replies (.monRd dt m [some off, some n]) s dt m "rd" [some off, some n] [.err 6]))
  ∧ (∀ (s : State) (dt m : Nat) (args : List (Option Nat)) (ok : Bool),
      ∀ x ∈ [(Instr.monHelp dt m args, "help", 0, 0), (.monVer dt m args, "ver", 0, 0), (.monState dt m args, "state", 0, 0), (.monSt dt m args, "st", 0, 0),
          (.monTemp dt m args, "temp", 0, 0), (.monRd dt m args, "rd", 1, 2), (.monRec dt m args, "rec", 0, 1), (.monLane dt m args, "lane", 0, 1),
          (.monMem dt m args, "mem", 0, 0), (.monBaud dt m args, "baud", 1, 1), (.monLock dt m args, "lock", 0, 0), (.monWr dt m args ok, "wr", 2, 2),
          (.monSafe dt m args, "safe", 0, 0), (.monAck dt m args ok, "ack", 1, 1), (.monReboot dt m args, "reboot", 0, 0)],
        args.length < x.2.2.1 ∨ x.2.2.2 < args.length ∨ none ∈ args → replies x.1 s dt m x.2.1 args [.err 3])
  ∧ (∀ (s : State) (dt : Nat) (line : List Nat), s.dev.monAlive 0 = true →
      let known := monNames.any fun k => (tokens line).head? == some (chars k)
      Alters (.monitorBadLine dt 0 line) s dt hide noRegs fun t => t.dev.out = s.dev.out ++
        (if readable line = false then [.monitor (.err 1)] else if (tokens line).isEmpty || known then [] else [.monitor (.err 2)]))
  ∧ (∀ (s : State) (dt : Nat) (line rest : List Nat), s.dev.monAlive 1 = true → readable line = true → tokens line ≠ [] →
      (∀ k ∈ monNames, (tokens line).head? ≠ some (chars k)) → firstLine (s.dev.svc.inq.dropWhile fun c => c == 13 || c == 10) = some (line, rest) →
    Alters (.monitorBadLine dt 1 line) s dt hide noRegs fun t => t.dev.svc.inq = rest ∧ answers s t 1 [.err 2])
  ∧ (∀ (s : State) (dt value : Nat), let own (o : Nat) : Bool := decide (o / 4 = 0xF0020 / 4)
      (s.dev.mode = .setup ∨ s.dev.mode = .safe → bitOf value 8 = true → s.dev.svc.skip = false →
        Alters (.mailboxChar dt value) s dt hide own fun t => t.dev.out = s.dev.out ∧ t.dev.svc.outq = s.dev.svc.outq
          ∧ t.dev.svc.inq = if s.dev.svc.inq.length < 128 then s.dev.svc.inq ++ [value % 256] else s.dev.svc.inq)
      ∧ (s.dev.mode.printing = true → Idles (.mailboxChar dt value) s dt)
      ∧ (s.dev.mode.served = true ∨ s.dev.mode = .safe →
        Leaves (.mailboxRead dt) s { s.now dt with svc := { s.dev.svc with outq := s.dev.svc.outq.drop 1 } } fun t => t.dev.out = s.dev.out))

/-- Outside RUN and HOLD, with firmware, a key and no lockout, `unlock` gives a free challenge, recorded; the CRC-32C of challenge and key unlocks the session; any other answer counts as wrong and the third starts the lockout. In RUN and HOLD and by the boot ROM it is ERR 5; with K = 0 and in a lockout ERR 4. Results are posted. `lock`, ten minutes without a line and a break lock the session; 60 s end the lockout. `baud` sets a listed rate and 10 s without a valid line set it back; so does a break, which resets the UART domain. Some of it is the model's choice: log entry 115. -/
def Obligations.MonitorUnlocksAndLocks : Prop :=
  let hide (d : Dev) : Dev := { d with svc := { d.svc with
    inq := [], outq := [], baudAt := none, uart := Dev.reset.svc.uart, mbox := Dev.reset.svc.mbox, wrong := 0, lockoutAt := 0 } }
  let own (o : Nat) : Bool := decide (o / 4 = Reg.SVC_MON.BAUD.off / 4)
  let asks (s : State) (m : Nat) (name : String) (args : List (Option Nat)) : Prop := s.dev.monAlive m = true ∧ (m = 0 ∨ (s.dev.mailTake name args).isSome = true)
  let text (r : MonResp) : List Nat := (Config.monitorText r).map (· % 256)
  let ends (s t : State) (m : Nat) (r : MonResp) : Prop :=
    (m = 0 → t.dev.out.getLast? = some (.monitor r)) ∧ (m = 1 → t.dev.svc.outq = s.dev.svc.outq ++ text r)
  let may (s : State) : Prop := s.dev.mode ≠ .run ∧ s.dev.mode ≠ .hold ∧ s.dev.svc.verified = true
  let free (s : State) : Prop := may s ∧ s.dev.svc.key ≠ 0 ∧ s.dev.on Reg.SVC_MON.LOCKOUT = false
  (∀ (s : State) (dt m : Nat), asks s m "unlock" [] →
      (free s → Alters (.unlockChallenge dt m) s dt hide noRegs fun t => ∃ c, c < 2 ^ 32 ∧ (t.dev.session m).challenge = some c
        ∧ (m = 0 → t.dev.out.reverse.take 2 = [.monitor .ok, .monitor (.challenge c)])
        ∧ (m = 1 → t.dev.svc.outq = s.dev.svc.outq ++ text (.challenge c) ++ text .ok)
        ∧ (s.dev.svc.filled = true → s.dev.on Reg.REC_STAT.FIRST_FULL = true → ∃ r, t.dev.recd.newest.head? = some r ∧ r.head? = some 3
          ∧ r[8]? = some m ∧ r.drop 12 = leBytes 4 c))
      ∧ (¬ may s → Alters (.unlockChallenge dt m) s dt hide noRegs fun t => ends s t m (.err 5))
      ∧ (may s → ¬ free s → Alters (.unlockChallenge dt m) s dt hide noRegs fun t => ends s t m (.err 4)
        ∧ Tells (s.now dt) t 0xF003 [m, if s.dev.svc.key = 0 then 1 else 2]))
  ∧ (∀ (s : State) (dt m a : Nat), asks s m "unlock" [some a] →
      let right : Prop := ∃ c, (s.dev.session m).challenge = some c ∧ a = crc32c (leBytes 4 c ++ leBytes 4 s.dev.svc.key)
      (free s → right → Alters (.unlockAnswer dt m [some a]) s dt hide own fun t => t.dev.unlocked m = true ∧ (t.dev.session m).challenge = none
        ∧ t.dev.unlocked (1 - m) = s.dev.unlocked (1 - m) ∧ t.dev.svc.wrong = 0 ∧ ends s t m .ok ∧ Tells (s.now dt) t 0xF003 [m, 0])
      ∧ (free s → ¬ right → Alters (.unlockAnswer dt m [some a]) s dt hide own fun t => t.dev.unlocked m = s.dev.unlocked m
        ∧ (t.dev.session m).challenge = none ∧ t.dev.get Reg.SVC_MON.FAILS = min 65535 (s.dev.get Reg.SVC_MON.FAILS + 1) ∧ ends s t m (.err 4)
        ∧ Tells (s.now dt) t 0xF003 [m, 1]
        ∧ (s.dev.svc.wrong < 2 → t.dev.svc.wrong = s.dev.svc.wrong + 1 ∧ t.dev.on Reg.SVC_MON.LOCKOUT = false)
        ∧ (2 ≤ s.dev.svc.wrong → t.dev.svc.wrong = 0 ∧ t.dev.on Reg.SVC_MON.LOCKOUT = true ∧ t.dev.svc.lockoutAt = (s.now dt).tb))
      ∧ (¬ may s → Alters (.unlockAnswer dt m [some a]) s dt hide noRegs fun t => ends s t m (.err 5)))
  ∧ (∀ (s : State) (dt m : Nat),
      (asks s m "lock" [] → Alters (.monLock dt m []) s dt hide own fun t => t.dev.unlocked m = false ∧ t.dev.unlocked (1 - m) = s.dev.unlocked (1 - m)
        ∧ ends s t m .ok ∧ (s.dev.unlocked m = true → Tells (s.now dt) t 0xF003 [m, 3]))
      ∧ (m < 2 → 600000000000 ≤ (s.now dt).since (s.dev.session m).lastAt → Alters (.sessionIdleTimeout dt m) s dt id own fun t => t.dev.unlocked m = false
        ∧ t.dev.unlocked (1 - m) = s.dev.unlocked (1 - m) ∧ (s.dev.unlocked m = true → Tells (s.now dt) t 0xF003 [m, 3]))
      ∧ ((s.now dt).since (s.dev.session m).lastAt < 600000000000 → Idles (.sessionIdleTimeout dt m) s dt)
      ∧ (60000000000 ≤ (s.now dt).since s.dev.svc.lockoutAt → Alters (.lockoutEnd dt) s dt id own fun t => t.dev.on Reg.SVC_MON.LOCKOUT = false
        ∧ t.dev.out = s.dev.out ∧ t.dev.get Reg.SVC_MON.FAILS = s.dev.get Reg.SVC_MON.FAILS)
      ∧ ((s.now dt).since s.dev.svc.lockoutAt < 60000000000 → Idles (.lockoutEnd dt) s dt))
  ∧ (∀ (s : State) (dt m rate : Nat), asks s m "baud" [some rate] →
      (∀ i, [115200, 230400, 460800, 921600, 1500000, 3000000][i]? = some rate → Alters (.monBaud dt m [some rate]) s dt hide own fun t =>
        t.dev.get Reg.SVC_MON.BAUD = i ∧ t.dev.svc.baudAt = some (s.now dt).tb ∧ ends s t m .ok)
      ∧ (rate ∉ [115200, 230400, 460800, 921600, 1500000, 3000000] → Alters (.monBaud dt m [some rate]) s dt hide noRegs fun t => ends s t m (.err 3)))
  ∧ (∀ (s : State) (dt at_ : Nat), s.dev.svc.baudAt = some at_ →
      (10000000000 ≤ (s.now dt).since at_ →
        Leaves (.baudRevert dt) s { (s.now dt).put Reg.SVC_MON.BAUD 0 with svc := { s.dev.svc with baudAt := none } } fun t => t.dev.out = s.dev.out)
      ∧ ((s.now dt).since at_ < 10000000000 → Idles (.baudRevert dt) s dt))
  ∧ (∀ (s : State) (dt : Nat), s.dev.mode ≠ .off → s.dev.on Reg.SENSE_CLK_STAT.LOCK_AUX = true →
    Alters (.uartBreak dt) s dt hide (fun o => own o || decide (o / 4 = (Reg.SENSE_XING_n.COUNT 15).off / 4)) fun t => t.dev.get Reg.SVC_MON.BAUD = 0
      ∧ t.dev.svc.baudAt = none ∧ t.dev.unlocked 0 = false ∧ t.dev.unlocked 1 = s.dev.unlocked 1
      ∧ t.dev.get (Reg.SENSE_XING_n.COUNT 15) = min 65535 (s.dev.get (Reg.SENSE_XING_n.COUNT 15) + 1) ∧ ∃ w, w < 256 ∧ Tells (s.now dt) t 0x6041 [15, 0, w])

/-- Served by the boot ROM a command marked U is ERR 5, in a locked session ERR 4, and nothing else changes. In an unlocked session, safe enters SAFE with cause 6; ack clears PEND as the write of SENSE_SHUT_ACK does; wr of an offset or value out of range is ERR 3, of a misaligned one ERR 6 and posted, of a word that BAR0 refuses ERR 6, else OK, and it writes the recorder cursor as the host would; reboot is taken in SETUP and SAFE and is ERR 5 elsewhere. 100 ms after it the device is in cold reset: jobs and rings are gone, and PEND, the key and what MRAM keeps stand. Some of it is the model's choice: log entry 115. -/
def Obligations.UnlockedCommandsAct : Prop :=
  let hide (d : Dev) : Dev := { d with svc := { d.svc with
    inq := [], outq := [], baudAt := none, uart := Dev.reset.svc.uart, mbox := Dev.reset.svc.mbox, rebootAt := none } }
  let asks (s : State) (m : Nat) (name : String) (args : List (Option Nat)) : Prop := s.dev.monAlive m = true ∧ (m = 0 ∨ (s.dev.mailTake name args).isSome = true)
  let ends (s t : State) (m : Nat) (r : MonResp) : Prop := (m = 0 → t.dev.out.getLast? = some (.monitor r))
    ∧ (m = 1 → t.dev.svc.outq = s.dev.svc.outq ++ (Config.monitorText r).map (· % 256))
  let opened (s : State) (m : Nat) : Prop := s.dev.svc.verified = true ∧ s.dev.unlocked m = true
  (∀ (s : State) (dt m a b : Nat) (ok : Bool),
      ∀ x ∈ [(Instr.monWr dt m [some a, some b] ok, "wr", [some a, some b]), (.monSafe dt m [], "safe", []), (.monAck dt m [some a] ok, "ack", [some a]),
          (.monReboot dt m [], "reboot", [])], asks s m x.2.1 x.2.2 → ¬ opened s m →
        Alters x.1 s dt hide noRegs fun t => ends s t m (.err (if s.dev.svc.verified then 4 else 5)))
  ∧ (∀ (s : State) (dt m : Nat), asks s m "safe" [] → opened s m → s.dev.mode.served = true → s.dev.bar0Dead = false →
    Does (.monSafe dt m []) s fun t => t.dev.mode = .safe ∧ t.dev.get Reg.GLB_STATE.SAFE_CAUSE = causeForce ∧ ends s t m .ok)
  ∧ (∀ (s : State) (dt m key : Nat) (r : ShutRec), asks s m "ack" [some key] → opened s m → s.dev.mode = .safe ∨ s.dev.mode = .setup →
      s.dev.shutRecord = some r → key < 65536 → key = r.seq % 65536 → s.dev.bar0Dead = false →
      (∀ n, n < 16 → (s.dev.sensor n).broken = false → s.dev.reading n < 4 * (s.dev.get Reg.SENSE_THERM_CFG.THR : Nat) - 40) →
      (s.dev.sensor 16).broken = false → s.dev.reading 16 < 4 * (s.dev.get Reg.SENSE_THERM_CFG.STACK_THR : Nat) - 40 →
    Alters (.monAck dt m [some key] true) s dt (fun d => { hide d with sense := Dev.reset.sense }) (fun o => block 6 o || block 0xD o) fun t =>
      t.dev.get Reg.SENSE_SHUT.PEND = 0 ∧ t.dev.shutRecord = some { r with ack := true, seq := (r.seq + 1) % 2 ^ 32 } ∧ ends s t m .ok)
  ∧ (∀ (s : State) (dt m off v : Nat) (ok : Bool), asks s m "wr" [some off, some v] → opened s m →
      (0x100000 ≤ off ∨ 2 ^ 32 ≤ v → Alters (.monWr dt m [some off, some v] ok) s dt hide noRegs fun t => ends s t m (.err 3))
      ∧ (off < 0x100000 → v < 2 ^ 32 → off % 4 ≠ 0 → Alters (.monWr dt m [some off, some v] ok) s dt hide noRegs fun t =>
          Tells (s.now dt) t 0x0005 [off, 4, 1] ∧ ends s t m (.err 6))
      ∧ (off < 0x100000 → v < 2 ^ 32 → off % 4 = 0 → (∃ f, regAt off = some f) → m = 0 → s.dev.bar0Dead = false → Does (.monWr dt m [some off, some v] ok) s fun t =>
          (s.dev.mode = .safe → ends s t m (if off ∈ [8, 0xE0000, 0xE0004, 0x60074, 0xF0020] then .ok else .err 6))
          ∧ (s.dev.mode.printing = true → off ∉ [8, 0xE0000] → (∀ f, regAt off = some f → ∀ g ∈ f.fields, g.acc ≠ .w1c) → ends s t m (.err 6)))
      ∧ (off = 0xE0000 → v < 2 ^ 32 → s.dev.mode.served = true ∨ s.dev.mode = .safe → (s.dev.clk.asyncHold = false) →
        Alters (.monWr dt m [some off, some v] ok) s dt hide (fun o => decide (o / 4 = off / 4)) fun t => ends s t m .ok
          ∧ t.dev.get Reg.REC_CURSOR.OFFSET = bitsOf v Reg.REC_CURSOR.OFFSET.lo Reg.REC_CURSOR.OFFSET.w
          ∧ t.dev.get Reg.REC_CURSOR.SPACE = bitsOf v Reg.REC_CURSOR.SPACE.lo Reg.REC_CURSOR.SPACE.w))
  ∧ (∀ (s : State) (dt m : Nat), asks s m "reboot" [] → opened s m → Alters (.monReboot dt m []) s dt hide noRegs fun t =>
      if s.dev.mode = .setup ∨ s.dev.mode = .safe then t.dev.svc.rebootAt = some (s.now dt).tb ∧ ends s t m .ok
      else t.dev.svc.rebootAt = s.dev.svc.rebootAt ∧ ends s t m (.err 5))
  ∧ (∀ (s : State) (dt at_ : Nat), s.dev.svc.rebootAt = some at_ →
      (100000000 ≤ (s.now dt).since at_ → Does (.rebootDelay dt) s fun t => t.dev.mode = .off ∧ t.dev.tb = 0 ∧ t.dev.jobs = []
        ∧ t.dev.host = Dev.reset.host ∧ t.dev.get Reg.SENSE_SHUT.PEND = s.dev.get Reg.SENSE_SHUT.PEND % 2 ∧ t.dev.svc.key = s.dev.svc.key
        ∧ t.dev.gz.mram = s.dev.gz.mram ∧ t.dev.sense.shut = s.dev.sense.shut ∧ t.dev.ecc.field = s.dev.ecc.field ∧ t.dev.clk.ringHold = none)
      ∧ ((s.now dt).since at_ < 100000000 → Idles (.rebootDelay dt) s dt))

/-- TAP reset and IDCODE select IDCODE, and IDCODE reads 0x1026_225F; SAMPLE/PRELOAD selects itself; BYPASS and every private code select BYPASS; none of them changes anything else, but that the outputs which HIGHZ left high-impedance, RING_HOLD among them, are driven again. EXTEST, CLAMP and HIGHZ in SETUP, READY, RUN or HOLD enter SAFE with cause 6 and then take effect; in SAFE and SELFTEST they only take effect; HIGHZ leaves RING_HOLD high-impedance. That TAP reset selects IDCODE is the model's choice (IEEE 1149.1, log entry 14). -/
def Obligations.JtagInstructionsLoad : Prop :=
  let hold (s : State) (i : TapInstr) : Option Bool := if i = .highz then none else if s.dev.svc.tap = .highz then some false else s.dev.clk.ringHold
  let sent (s : State) (i : TapInstr) : List Output := if hold s i = s.dev.clk.ringHold then [] else [.ringHold (hold s i)]
  let tap (s : State) (dt : Nat) (i : TapInstr) : Dev :=
    { s.now dt with clk := { s.dev.clk with ringHold := hold s i }, svc := { s.dev.svc with tap := i } }
  (∀ (s : State) (dt code : Nat), s.dev.mode ≠ .off →
    Leaves (.tapReset dt) s (tap s dt .idcode) (fun t => t.dev.out = s.dev.out ++ sent s .idcode)
    ∧ Leaves (.tapIdcode dt) s (tap s dt .idcode) (fun t => t.dev.out = s.dev.out ++ sent s .idcode ++ [.tap 0x1026225F])
    ∧ Leaves (.tapSamplePreload dt) s (tap s dt .samplePreload) (fun t => t.dev.out = s.dev.out ++ sent s .samplePreload)
    ∧ Leaves (.tapBypass dt) s (tap s dt .bypass) (fun t => t.dev.out = s.dev.out ++ sent s .bypass)
    ∧ Leaves (.tapPrivateInstruction dt code) s (tap s dt .bypass) (fun t => t.dev.out = s.dev.out ++ sent s .bypass))
  ∧ (∀ (s : State) (dt : Nat), ∀ x ∈ [(Instr.tapExtest dt, TapInstr.extest), (.tapClamp dt, .clamp), (.tapHighz dt, .highz)],
      (s.dev.mode.served = true → Does x.1 s fun t => t.dev.svc.tap = x.2 ∧ t.dev.mode = .safe ∧ t.dev.get Reg.GLB_STATE.SAFE_CAUSE = causeForce
        ∧ t.dev.clk.ringHold = (if x.2 = .highz then none else some false) ∧ t.dev.jobs = s.dev.jobs)
      ∧ (s.dev.mode = .safe ∨ s.dev.mode = .selftest → Leaves x.1 s (tap s dt x.2) fun t => t.dev.out = s.dev.out ++ sent s x.2))
  ∧ (∀ (s : State) (dt : Nat), s.dev.mode = .off → ∀ x ∈ [Instr.tapReset dt, .tapIdcode dt, .tapExtest dt, .tapClamp dt, .tapHighz dt],
      Does x s fun t => t.dev = { s.dev with tb := 0 })
end

