-- ==== Sys2Proof/Laws/Maps.lean ====
section
/-! SUPPORT. Laws of the sparse maps: what a read gives after a write or a removal. -/
namespace Sys2Proof.Machine

@[simp] theorem kvGet_kvPut_self {α : Type} (l : List (Nat × α)) (k : Nat) (v : α) : kvGet (kvPut l k v) k = some v := by
  induction l with
  | nil => simp [kvPut, kvGet]
  | cons x t ih =>
    obtain ⟨a, y⟩ := x
    unfold kvPut
    split
    · simp [kvGet]
    · split
      · simp [kvGet]
      · next h1 h2 => simp [kvGet, Ne.symm h2, ih]

theorem kvGet_kvPut_of_ne {α : Type} (l : List (Nat × α)) {k j : Nat} (v : α) (h : k ≠ j) :
    kvGet (kvPut l k v) j = kvGet l j := by
  induction l with
  | nil => simp [kvPut, kvGet, h]
  | cons x t ih =>
    obtain ⟨a, y⟩ := x
    unfold kvPut
    split
    · simp [kvGet, h]
    · split
      · next h1 h2 => subst h2; simp [kvGet, h]
      · simp [kvGet, ih]

@[simp] theorem kvGet_kvDel_self {α : Type} (l : List (Nat × α)) (k : Nat) : kvGet (kvDel l k) k = none := by
  induction l with
  | nil => simp [kvDel, kvGet]
  | cons x t ih =>
    obtain ⟨a, y⟩ := x
    unfold kvDel
    split
    · exact ih
    · next h => simp [kvGet, h, ih]

theorem kvGet_kvDel_of_ne {α : Type} (l : List (Nat × α)) {k j : Nat} (h : k ≠ j) : kvGet (kvDel l k) j = kvGet l j := by
  induction l with
  | nil => simp [kvDel, kvGet]
  | cons x t ih =>
    obtain ⟨a, y⟩ := x
    unfold kvDel
    split
    · next h' => subst h'; simp [kvGet, h, ih]
    · simp [kvGet, ih]

end Sys2Proof.Machine
end

