-- ==== Sys2Proof/Laws/State.lean ====
section
/-! SUPPORT. What an update of the device leaves of its fields: one lemma per field per update, and what a register field reads after a
write. -/
namespace Sys2Proof.Machine

/-! ## Register fields -/

/-- A field reads what was written into it, within its width. -/
@[simp] theorem Dev.get_put_self (d : Dev) (f : Fld) (v : Nat) : (d.put f v).get f = v % 2 ^ f.w := by
  unfold Dev.put Dev.get
  dsimp only
  split
  · next h => simp [h]
  · simp

/-- Another field reads as before. -/
theorem Dev.get_put_of_ne (d : Dev) {f g : Fld} (v : Nat) (h : f.key ≠ g.key) : (d.put f v).get g = d.get g := by
  unfold Dev.put Dev.get
  dsimp only
  split
  · rw [kvGet_kvDel_of_ne _ h]
  · rw [kvGet_kvPut_of_ne _ _ h]

/-! ## A register write -/

@[simp] theorem Dev.put_tb (d : Dev) (f : Fld) (v : Nat) : (d.put f v).tb = d.tb := rfl
@[simp] theorem Dev.put_mode (d : Dev) (f : Fld) (v : Nat) : (d.put f v).mode = d.mode := rfl
@[simp] theorem Dev.put_duplex (d : Dev) (f : Fld) (v : Nat) : (d.put f v).duplex = d.duplex := rfl
@[simp] theorem Dev.put_free (d : Dev) (f : Fld) (v : Nat) : (d.put f v).free = d.free := rfl
@[simp] theorem Dev.put_out (d : Dev) (f : Fld) (v : Nat) : (d.put f v).out = d.out := rfl
@[simp] theorem Dev.put_host (d : Dev) (f : Fld) (v : Nat) : (d.put f v).host = d.host := rfl
@[simp] theorem Dev.put_jobs (d : Dev) (f : Fld) (v : Nat) : (d.put f v).jobs = d.jobs := rfl
@[simp] theorem Dev.put_pos (d : Dev) (f : Fld) (v : Nat) : (d.put f v).pos = d.pos := rfl
@[simp] theorem Dev.put_chk (d : Dev) (f : Fld) (v : Nat) : (d.put f v).chk = d.chk := rfl
@[simp] theorem Dev.put_recd (d : Dev) (f : Fld) (v : Nat) : (d.put f v).recd = d.recd := rfl
@[simp] theorem Dev.put_linen (d : Dev) (f : Fld) (v : Nat) : (d.put f v).linen = d.linen := rfl
@[simp] theorem Dev.put_dma (d : Dev) (f : Fld) (v : Nat) : (d.put f v).dma = d.dma := rfl
@[simp] theorem Dev.put_cal (d : Dev) (f : Fld) (v : Nat) : (d.put f v).cal = d.cal := rfl
@[simp] theorem Dev.put_dmk (d : Dev) (f : Fld) (v : Nat) : (d.put f v).dmk = d.dmk := rfl
@[simp] theorem Dev.put_twl (d : Dev) (f : Fld) (v : Nat) : (d.put f v).twl = d.twl := rfl
@[simp] theorem Dev.put_gz (d : Dev) (f : Fld) (v : Nat) : (d.put f v).gz = d.gz := rfl
@[simp] theorem Dev.put_lane (d : Dev) (f : Fld) (v : Nat) : (d.put f v).lane = d.lane := rfl
@[simp] theorem Dev.put_link (d : Dev) (f : Fld) (v : Nat) : (d.put f v).link = d.link := rfl
@[simp] theorem Dev.put_time (d : Dev) (f : Fld) (v : Nat) : (d.put f v).time = d.time := rfl
@[simp] theorem Dev.put_net (d : Dev) (f : Fld) (v : Nat) : (d.put f v).net = d.net := rfl
@[simp] theorem Dev.put_ecc (d : Dev) (f : Fld) (v : Nat) : (d.put f v).ecc = d.ecc := rfl
@[simp] theorem Dev.put_clk (d : Dev) (f : Fld) (v : Nat) : (d.put f v).clk = d.clk := rfl
@[simp] theorem Dev.put_sense (d : Dev) (f : Fld) (v : Nat) : (d.put f v).sense = d.sense := rfl
@[simp] theorem Dev.put_svc (d : Dev) (f : Fld) (v : Nat) : (d.put f v).svc = d.svc := rfl

/-! ## An output -/

@[simp] theorem Dev.send_tb (d : Dev) (o : Output) : (d.send o).tb = d.tb := rfl
@[simp] theorem Dev.send_mode (d : Dev) (o : Output) : (d.send o).mode = d.mode := rfl
@[simp] theorem Dev.send_duplex (d : Dev) (o : Output) : (d.send o).duplex = d.duplex := rfl
@[simp] theorem Dev.send_regs (d : Dev) (o : Output) : (d.send o).regs = d.regs := rfl
@[simp] theorem Dev.send_free (d : Dev) (o : Output) : (d.send o).free = d.free := rfl
@[simp] theorem Dev.send_host (d : Dev) (o : Output) : (d.send o).host = d.host := rfl
@[simp] theorem Dev.send_jobs (d : Dev) (o : Output) : (d.send o).jobs = d.jobs := rfl
@[simp] theorem Dev.send_pos (d : Dev) (o : Output) : (d.send o).pos = d.pos := rfl
@[simp] theorem Dev.send_chk (d : Dev) (o : Output) : (d.send o).chk = d.chk := rfl
@[simp] theorem Dev.send_recd (d : Dev) (o : Output) : (d.send o).recd = d.recd := rfl
@[simp] theorem Dev.send_linen (d : Dev) (o : Output) : (d.send o).linen = d.linen := rfl
@[simp] theorem Dev.send_dma (d : Dev) (o : Output) : (d.send o).dma = d.dma := rfl
@[simp] theorem Dev.send_cal (d : Dev) (o : Output) : (d.send o).cal = d.cal := rfl
@[simp] theorem Dev.send_dmk (d : Dev) (o : Output) : (d.send o).dmk = d.dmk := rfl
@[simp] theorem Dev.send_twl (d : Dev) (o : Output) : (d.send o).twl = d.twl := rfl
@[simp] theorem Dev.send_gz (d : Dev) (o : Output) : (d.send o).gz = d.gz := rfl
@[simp] theorem Dev.send_lane (d : Dev) (o : Output) : (d.send o).lane = d.lane := rfl
@[simp] theorem Dev.send_link (d : Dev) (o : Output) : (d.send o).link = d.link := rfl
@[simp] theorem Dev.send_time (d : Dev) (o : Output) : (d.send o).time = d.time := rfl
@[simp] theorem Dev.send_net (d : Dev) (o : Output) : (d.send o).net = d.net := rfl
@[simp] theorem Dev.send_ecc (d : Dev) (o : Output) : (d.send o).ecc = d.ecc := rfl
@[simp] theorem Dev.send_clk (d : Dev) (o : Output) : (d.send o).clk = d.clk := rfl
@[simp] theorem Dev.send_sense (d : Dev) (o : Output) : (d.send o).sense = d.sense := rfl
@[simp] theorem Dev.send_svc (d : Dev) (o : Output) : (d.send o).svc = d.svc := rfl
@[simp] theorem Dev.get_send (d : Dev) (o : Output) (g : Fld) : (d.send o).get g = d.get g := rfl

/-! ## Time -/

@[simp] theorem Dev.tick_mode (d : Dev) (n : Nat) : (d.tick n).mode = d.mode := rfl
@[simp] theorem Dev.tick_duplex (d : Dev) (n : Nat) : (d.tick n).duplex = d.duplex := rfl
@[simp] theorem Dev.tick_regs (d : Dev) (n : Nat) : (d.tick n).regs = d.regs := rfl
@[simp] theorem Dev.tick_free (d : Dev) (n : Nat) : (d.tick n).free = d.free := rfl
@[simp] theorem Dev.tick_out (d : Dev) (n : Nat) : (d.tick n).out = d.out := rfl
@[simp] theorem Dev.tick_host (d : Dev) (n : Nat) : (d.tick n).host = d.host := rfl
@[simp] theorem Dev.tick_jobs (d : Dev) (n : Nat) : (d.tick n).jobs = d.jobs := rfl
@[simp] theorem Dev.tick_pos (d : Dev) (n : Nat) : (d.tick n).pos = d.pos := rfl
@[simp] theorem Dev.tick_chk (d : Dev) (n : Nat) : (d.tick n).chk = d.chk := rfl
@[simp] theorem Dev.tick_recd (d : Dev) (n : Nat) : (d.tick n).recd = d.recd := rfl
@[simp] theorem Dev.tick_linen (d : Dev) (n : Nat) : (d.tick n).linen = d.linen := rfl
@[simp] theorem Dev.tick_dma (d : Dev) (n : Nat) : (d.tick n).dma = d.dma := rfl
@[simp] theorem Dev.tick_cal (d : Dev) (n : Nat) : (d.tick n).cal = d.cal := rfl
@[simp] theorem Dev.tick_dmk (d : Dev) (n : Nat) : (d.tick n).dmk = d.dmk := rfl
@[simp] theorem Dev.tick_twl (d : Dev) (n : Nat) : (d.tick n).twl = d.twl := rfl
@[simp] theorem Dev.tick_gz (d : Dev) (n : Nat) : (d.tick n).gz = d.gz := rfl
@[simp] theorem Dev.tick_lane (d : Dev) (n : Nat) : (d.tick n).lane = d.lane := rfl
@[simp] theorem Dev.tick_link (d : Dev) (n : Nat) : (d.tick n).link = d.link := rfl
@[simp] theorem Dev.tick_time (d : Dev) (n : Nat) : (d.tick n).time = d.time := rfl
@[simp] theorem Dev.tick_net (d : Dev) (n : Nat) : (d.tick n).net = d.net := rfl
@[simp] theorem Dev.tick_ecc (d : Dev) (n : Nat) : (d.tick n).ecc = d.ecc := rfl
@[simp] theorem Dev.tick_clk (d : Dev) (n : Nat) : (d.tick n).clk = d.clk := rfl
@[simp] theorem Dev.tick_sense (d : Dev) (n : Nat) : (d.tick n).sense = d.sense := rfl
@[simp] theorem Dev.tick_svc (d : Dev) (n : Nat) : (d.tick n).svc = d.svc := rfl
@[simp] theorem Dev.get_tick (d : Dev) (n : Nat) (g : Fld) : (d.tick n).get g = d.get g := rfl

@[simp] theorem Dev.out_send (d : Dev) (o : Output) : (d.send o).out = d.out ++ [o] := rfl
@[simp] theorem Dev.tb_tick (d : Dev) (n : Nat) : (d.tick n).tb = tbPlus d.tb n := rfl

end Sys2Proof.Machine
end

