-- ==== Sys2Proof/Laws/Same.lean ====
section
/-! SUPPORT. Reporting leaves everything else as it was: posting an event, recording, capturing and completing touch only what
`Dev.face` leaves out. -/
namespace Sys2Proof.Machine

namespace Dev.Same

theorem refl (d : Dev) : d.Same d := ⟨rfl, fun _ _ => rfl⟩
theorem symm {d e : Dev} (h : d.Same e) : e.Same d := ⟨h.1.symm, fun k hk => (h.2 k hk).symm⟩
theorem trans {a b c : Dev} (h : a.Same b) (g : b.Same c) : a.Same c := ⟨h.1.trans g.1, fun k hk => (h.2 k hk).trans (g.2 k hk)⟩

/-- Equal registers and equal faces. -/
theorem of_face {d e : Dev} (h : d.face = e.face) (r : d.regs = e.regs) : d.Same e := ⟨h, fun k _ => by rw [r]⟩

end Dev.Same

theorem kvGet_put_of_ne (d : Dev) (f : Fld) (v k : Nat) (h : f.key ≠ k) : kvGet (d.put f v).regs k = kvGet d.regs k := by
  unfold Dev.put
  dsimp only
  split
  · exact kvGet_kvDel_of_ne _ h
  · exact kvGet_kvPut_of_ne _ _ h

/-- A write of a field that reporting moves. -/
theorem same_put (d : Dev) (f : Fld) (v : Nat) (h : f.key ∈ reportKeys) : (d.put f v).Same d :=
  ⟨rfl, fun k hk => kvGet_put_of_ne d f v k (fun e => hk (e ▸ h))⟩

theorem same_bump (d : Dev) (f : Fld) (h : f.key ∈ reportKeys) : (d.bump f).Same d := same_put d f _ h
theorem same_wrap (d : Dev) (f : Fld) (h : f.key ∈ reportKeys) : (d.wrap f).Same d := same_put d f _ h

/-- Writing the same field of two devices that agree. -/
theorem Dev.Same.put {d e : Dev} (h : d.Same e) (f : Fld) (v : Nat) : (d.put f v).Same (e.put f v) := by
  refine ⟨?_, fun k hk => ?_⟩
  · have := h.1
    simpa [Dev.face, Dev.put] using this
  · by_cases c : f.key = k
    · subst c
      unfold Dev.put
      dsimp only
      split
      · simp
      · simp
    · rw [kvGet_put_of_ne d f v k c, kvGet_put_of_ne e f v k c]; exact h.2 k hk

/-- A field that reporting leaves reads alike. -/
theorem Dev.Same.get {d e : Dev} (h : d.Same e) (f : Fld) (n : f.key ∉ reportKeys) : d.get f = e.get f := by
  unfold Dev.get
  rw [h.2 _ n]

/-! ## The parts that stand -/

theorem Dev.Same.mode {d e : Dev} (h : d.Same e) : d.mode = e.mode := (congrArg Dev.mode h.1 :)
theorem Dev.Same.duplex {d e : Dev} (h : d.Same e) : d.duplex = e.duplex := (congrArg Dev.duplex h.1 :)
theorem Dev.Same.jobs {d e : Dev} (h : d.Same e) : d.jobs = e.jobs := (congrArg Dev.jobs h.1 :)
theorem Dev.Same.pos {d e : Dev} (h : d.Same e) : d.pos = e.pos := (congrArg Dev.pos h.1 :)
theorem Dev.Same.chk {d e : Dev} (h : d.Same e) : d.chk = e.chk := (congrArg Dev.chk h.1 :)
theorem Dev.Same.dma {d e : Dev} (h : d.Same e) : d.dma = e.dma := (congrArg Dev.dma h.1 :)
theorem Dev.Same.cal {d e : Dev} (h : d.Same e) : d.cal = e.cal := (congrArg Dev.cal h.1 :)
theorem Dev.Same.dmk {d e : Dev} (h : d.Same e) : d.dmk = e.dmk := (congrArg Dev.dmk h.1 :)
theorem Dev.Same.twl {d e : Dev} (h : d.Same e) : d.twl = e.twl := (congrArg Dev.twl h.1 :)
theorem Dev.Same.gz {d e : Dev} (h : d.Same e) : d.gz = e.gz := (congrArg Dev.gz h.1 :)
/-- Every lane port but the ring's is as before. -/
theorem Dev.Same.port {d e : Dev} (h : d.Same e) {p : Nat} (n : p ≠ 18) (m : p ≠ 19) : d.port p = e.port p := by
  have := congrArg (fun x : Dev => x.lane.ports.getD p Port.start) h.1
  simpa [Dev.face, ringHide, Dev.port, n, m, List.getD_eq_getElem?_getD] using this
theorem Dev.Same.link {d e : Dev} (h : d.Same e) : d.link = e.link := (congrArg Dev.link h.1 :)
theorem Dev.Same.time {d e : Dev} (h : d.Same e) : d.time = e.time := (congrArg Dev.time h.1 :)
theorem Dev.Same.ecc {d e : Dev} (h : d.Same e) : d.ecc = e.ecc := (congrArg Dev.ecc h.1 :)
theorem Dev.Same.clk {d e : Dev} (h : d.Same e) : d.clk = e.clk := (congrArg Dev.clk h.1 :)
theorem Dev.Same.sense {d e : Dev} (h : d.Same e) : d.sense = e.sense := (congrArg Dev.sense h.1 :)
theorem Dev.Same.svc {d e : Dev} (h : d.Same e) : d.svc = e.svc := (congrArg Dev.svc h.1 :)

theorem same_send (d : Dev) (o : Output) : (d.send o).Same d := ⟨rfl, fun _ _ => rfl⟩
theorem same_tick (d : Dev) (n : Nat) : (d.tick n).Same d := ⟨rfl, fun _ _ => rfl⟩
theorem same_modRing (d : Dev) (n : Nat) (f : RingSt → RingSt) : (d.modRing n f).Same d := ⟨rfl, fun _ _ => rfl⟩

end Sys2Proof.Machine
end

