-- ==== Sys2Proof/Laws/Quiet.lean ====
section
/-! SUPPORT. Every reporting operation is quiet: it leaves all but what reporting touches, and outputs only grow. One lemma per
operation. -/
namespace Sys2Proof.Machine

/-- From `d` to `e` only reporting happened. -/
def Quiet (d e : Dev) : Prop := e.Same d ∧ d.out <+: e.out

theorem Quiet.refl (d : Dev) : Quiet d d := ⟨.refl d, List.prefix_refl _⟩
theorem Quiet.trans {a b c : Dev} (h : Quiet a b) (g : Quiet b c) : Quiet a c := ⟨g.1.trans h.1, h.2.trans g.2⟩

/-- Equal faces, registers and outputs. -/
theorem Quiet.of_face {d e : Dev} (h : e.face = d.face) (r : e.regs = d.regs) (o : e.out = d.out) : Quiet d e :=
  ⟨.of_face h r, o ▸ List.prefix_refl _⟩

theorem quiet_put (d : Dev) (f : Fld) (v : Nat) (h : f.key ∈ reportKeys) : Quiet d (d.put f v) := ⟨same_put d f v h, List.prefix_refl _⟩
theorem quiet_bump (d : Dev) (f : Fld) (h : f.key ∈ reportKeys) : Quiet d (d.bump f) := quiet_put d f _ h
theorem quiet_wrap (d : Dev) (f : Fld) (h : f.key ∈ reportKeys) : Quiet d (d.wrap f) := quiet_put d f _ h
theorem Quiet.put {d e : Dev} (q : Quiet d e) (f : Fld) (v : Nat) (h : f.key ∈ reportKeys) : Quiet d (e.put f v) := q.trans (quiet_put _ _ _ h)
theorem Quiet.bump {d e : Dev} (q : Quiet d e) (f : Fld) (h : f.key ∈ reportKeys) : Quiet d (e.bump f) := q.trans (quiet_bump _ _ h)
theorem Quiet.wrap {d e : Dev} (q : Quiet d e) (f : Fld) (h : f.key ∈ reportKeys) : Quiet d (e.wrap f) := q.trans (quiet_wrap _ _ h)
theorem quiet_send (d : Dev) (o : Output) : Quiet d (d.send o) := ⟨same_send d o, ⟨[o], rfl⟩⟩
theorem quiet_modRing (d : Dev) (n : Nat) (f : RingSt → RingSt) : Quiet d (d.modRing n f) := .of_face rfl rfl rfl

theorem cons_key_mem {n : Nat} (h : n < 32) : (Reg.HOST_RING_CONS_n.CONS n).key ∈ reportKeys := by
  unfold reportKeys
  simp only [List.mem_append, List.mem_map, List.mem_range]
  exact .inl (.inl (.inr ⟨n, h, rfl⟩))

theorem errors_key_mem {n : Nat} (h : n < 32) : (Reg.HOST_RING_STAT_n.ERRORS n).key ∈ reportKeys := by
  unfold reportKeys
  simp only [List.mem_append, List.mem_map, List.mem_range]
  exact .inl (.inr ⟨n, h, rfl⟩)

theorem bytes_key_mem {n : Nat} (h : n < 16) : (Reg.DMA_CH_BYTES_n.BYTES n).key ∈ reportKeys := by
  unfold reportKeys
  simp only [List.mem_append, List.mem_map, List.mem_range]
  exact .inr ⟨n, h, rfl⟩

theorem channelOf_lt (d : Dev) (n : Nat) : d.channelOf n < 16 := by
  unfold Dev.channelOf
  split <;> omega

theorem quiet_moved (d : Dev) {ch : Nat} (b : Nat) (h : ch < 16) : Quiet d (d.moved ch b) := quiet_put _ _ _ (bytes_key_mem h)
theorem quiet_movedRing (d : Dev) (n b : Nat) : Quiet d (d.movedRing n b) := quiet_moved _ _ (channelOf_lt d n)

theorem quiet_peak (d : Dev) (n : Nat) : Quiet d (d.peak n) := by
  unfold Dev.peak
  split
  · exact quiet_put _ _ _ (by decide)
  · exact .refl d

theorem quiet_reads (d : Dev) (ch addr len : Nat) : Quiet d (d.reads ch addr len) := by
  unfold Dev.reads
  extract_lets bs d1
  have h1 : Quiet d d1 := ⟨.of_face rfl rfl, List.prefix_append _ _⟩
  clear_value d1
  exact h1.trans (quiet_peak _ _)

theorem quiet_advance (d : Dev) {n : Nat} (h : n < 32) : Quiet d (d.advance n) := by
  unfold Dev.advance
  extract_lets d1
  have h1 : Quiet d d1 := quiet_reads _ _ _ _
  clear_value d1
  exact ((h1.put _ _ (cons_key_mem h)).trans (quiet_movedRing _ _ _)).trans (quiet_modRing _ _ _)

theorem quiet_raiseOn (d : Dev) (v ch : Nat) : Quiet d (d.raiseOn v ch) := by
  unfold Dev.raiseOn
  split
  · exact quiet_send _ _
  · exact .of_face rfl rfl rfl

theorem quiet_raiseVec (d : Dev) (v : Nat) : Quiet d (d.raiseVec v) := quiet_raiseOn _ _ _

theorem quiet_sendPending (d : Dev) : Quiet d d.sendPending := by
  unfold Dev.sendPending
  generalize List.range 32 = l
  induction l generalizing d with
  | nil => exact .refl d
  | cons v t ih =>
    rw [List.foldl_cons]
    refine .trans ?_ (ih _)
    split
    · exact (Quiet.of_face rfl rfl rfl).trans (quiet_raiseVec _ _)
    · exact .refl d

theorem quiet_signalRing (d : Dev) (n : Nat) : Quiet d (d.signalRing n) := by
  unfold Dev.signalRing
  exact (Quiet.of_face (d := d) rfl rfl rfl).trans (quiet_raiseOn _ _ _)

theorem quiet_noteCompletion (d : Dev) (n : Nat) (b : Bool) : Quiet d (d.noteCompletion n b) := by
  unfold Dev.noteCompletion
  dsimp only
  split
  · exact (quiet_modRing d _ _).trans (quiet_signalRing _ _)
  · exact quiet_modRing d _ _

/-! ## Writes to host memory -/

theorem grant_lt {f : Nat → Bool} {ch : Nat} (h : grant f = some ch) : ch < 16 := by
  have := List.mem_of_find?_eq_some h
  unfold grantOrder at this
  simp only [List.mem_flatMap, List.mem_filter, List.mem_range] at this
  obtain ⟨_, _, h, _⟩ := this
  exact h

theorem quiet_issueWr (d : Dev) {ch : Nat} (w : Wr) (h : ch < 16) : Quiet d (d.issueWr ch w) := by
  unfold Dev.issueWr
  extract_lets src d1 d2
  have h1 : Quiet d d1 := .of_face rfl rfl rfl
  clear_value d1
  have h2 : Quiet d d2 := (h1.trans (quiet_send _ _)).trans (quiet_moved _ _ h)
  clear_value d2
  split
  · exact h2.trans (quiet_noteCompletion _ _ _)
  · exact h2.trans (quiet_noteCompletion _ _ _)
  · exact h2

/-- What the arbiter grants touches nothing else. -/
theorem quiet_pump (n : Nat) (d : Dev) : Quiet d (Dev.pump n d) := by
  induction n generalizing d with
  | zero => exact .refl d
  | succ n ih =>
    unfold Dev.pump
    split
    · exact .refl d
    · next ch h =>
      split
      · exact .refl d
      · exact (quiet_issueWr d _ (grant_lt h)).trans (ih _)

theorem quiet_pushWrites (d : Dev) (ws : List Wr) : Quiet d (d.pushWrites ws) :=
  (Quiet.of_face (d := d) rfl rfl rfl).trans (quiet_pump _ _)

theorem quiet_writeBack (d : Dev) (ch ring idx addr : Nat) (fs : List (Nat × List Nat)) (w0 : Nat) (k : WrKind) :
    Quiet d (d.writeBack ch ring idx addr fs w0 k) := quiet_pushWrites _ _

/-! ## The recorder -/

theorem quiet_recLast (d : Dev) (r : List Nat) : Quiet d (d.recLast r) := by
  unfold Dev.recLast
  extract_lets head len rest src d1 d2 head1 src1 d3
  have h1 : Quiet d d2 := by
    simp only [d2]
    split
    · exact .refl d
    · have h0 : Quiet d d1 := .of_face rfl rfl rfl
      clear_value d1
      exact (h0.put _ _ (by decide)).wrap _ (by decide)
  clear_value d2
  have h2 : Quiet d d3 := h1.trans (.of_face rfl rfl rfl)
  clear_value d3
  split
  · exact (h2.put _ _ (by decide)).wrap _ (by decide)
  · exact h2.put _ _ (by decide)

theorem quiet_recFirst (d : Dev) (r : List Nat) : Quiet d (d.recFirst r) := by
  unfold Dev.recFirst
  split
  · exact .refl d
  · extract_lets head src d1
    have h1 : Quiet d d1 := .of_face rfl rfl rfl
    clear_value d1
    split
    · exact (h1.put _ _ (by decide)).put _ _ (by decide)
    · exact (Quiet.refl d).put _ _ (by decide)

theorem quiet_record (d : Dev) (type : Nat) (body : List Nat) : Quiet d (d.record type body) := by
  unfold Dev.record
  split
  · exact .refl d
  · extract_lets seq rec_ src d1
    have h1 : Quiet d d1 := .of_face rfl rfl rfl
    clear_value d1
    exact ((h1.trans (quiet_recFirst _ _)).trans (quiet_recLast _ _)).wrap _ (by decide)

theorem quiet_recordEvt (d : Dev) (e : Evt) (b : Bool) : Quiet d (d.recordEvt e b) := by
  unfold Dev.recordEvt
  split
  · exact quiet_record _ _ _
  · exact .refl d

/-! ## Messages and stops -/

/-- Of a ring port, only the transmitter changes. -/
theorem quiet_modPort (d : Dev) {p : Nat} (f : Port → Port) (h : p = 18 ∨ p = 19) (g : ∀ x, txHide (f x) = txHide x) :
    Quiet d (d.modPort p f) := by
  refine .of_face ?_ rfl rfl
  have : ringHide (modAt d.lane.ports p f) = ringHide d.lane.ports := by
    unfold ringHide modAt
    refine List.ext_getElem? fun i => ?_
    simp only [List.getElem?_mapIdx, List.getElem?_modify]
    by_cases c : p = i
    · subst c
      cases d.lane.ports[p]? <;> simp [h, g]
    · cases d.lane.ports[i]? <;> simp [c]
  unfold Dev.face Dev.modPort
  simp only [this]

theorem quiet_draw (d : Dev) (w : Nat) : Quiet d (d.draw w).2 := .of_face rfl rfl rfl

theorem quiet_transmit (d : Dev) {p : Nat} (x : TxStream) (h : p = 18 ∨ p = 19) : Quiet d (d.transmit p x) := by
  unfold Dev.transmit
  split
  · exact .refl d
  · refine .trans (quiet_modPort d _ h ?_) (quiet_send _ _)
    exact fun _ => rfl

theorem txIdle_key_mem {p : Nat} (h : p = 18 ∨ p = 19) : (Reg.LANE_PORT_STAT_p.TX_IDLE p).key ∈ reportKeys := by
  rcases h with rfl | rfl <;> decide

theorem quiet_wakeTx (d : Dev) {p : Nat} (h : p = 18 ∨ p = 19) : Quiet d (d.wakeTx p) := by
  unfold Dev.wakeTx
  split
  · refine .trans (.trans (quiet_put _ _ _ (txIdle_key_mem h)) (quiet_modPort _ _ h ?_)) (quiet_transmit _ _ h)
    exact fun _ => rfl
  · exact .refl d

theorem quiet_setQueue (d : Dev) (p : Nat) (q : List (Nat × List Nat)) : Quiet d (d.setQueue p q) := .of_face rfl rfl rfl
theorem quiet_setBusy (d : Dev) (p t : Nat) : Quiet d (d.setBusy p t) := .of_face rfl rfl rfl

theorem quiet_ringGo (d : Dev) {p : Nat} (a t : Nat) (w : List Nat) (h : p = 18 ∨ p = 19) : Quiet d (d.ringGo p a t w) := by
  have h1 : Quiet d (d.draw 15).2 := quiet_draw _ _
  unfold Dev.ringGo
  generalize d.draw 15 = r at h1
  obtain ⟨f, d1⟩ := r
  dsimp only at h1
  dsimp -zeta only
  extract_lets ws d2 d3
  have h2 : Quiet d d2 := by
    refine .trans (.trans h1 (quiet_modPort _ _ h ?_)) (quiet_send _ _)
    exact fun _ => rfl
  clear_value d2
  have h3 : Quiet d d3 := h2.trans (quiet_setBusy _ _ _)
  clear_value d3
  split
  · exact h3.trans (.of_face rfl rfl rfl)
  · exact h3

theorem quiet_ringDrainN (n : Nat) (d : Dev) {p : Nat} (h : p = 18 ∨ p = 19) : Quiet d (Dev.ringDrainN n d p) := by
  induction n generalizing d with
  | zero => exact .refl d
  | succ n ih =>
    unfold Dev.ringDrainN
    split
    · exact .refl d
    · split
      · exact ((quiet_setQueue _ _ _).trans (quiet_ringGo _ _ _ _ h)).trans (ih _)
      · exact .refl d

theorem quiet_ringDrain (d : Dev) {p : Nat} (h : p = 18 ∨ p = 19) : Quiet d (d.ringDrain p) := by
  unfold Dev.ringDrain
  split
  · exact quiet_ringDrainN _ _ h
  · exact quiet_setQueue _ _ _

theorem quiet_ringOut (d : Dev) {p : Nat} (w : List Nat) (h : p = 18 ∨ p = 19) : Quiet d (d.ringOut p w) := by
  unfold Dev.ringOut
  extract_lets d1 d2 free
  have h1 : Quiet d d1 := quiet_ringDrain _ h
  clear_value d1
  split
  · exact h1
  · have h2 : Quiet d d2 := h1.trans (quiet_wakeTx _ h)
    clear_value d2
    split
    · exact h2.trans (quiet_ringGo _ _ _ _ h)
    · exact h2.trans ((quiet_setBusy _ _ _).trans (quiet_setQueue _ _ _))

theorem quiet_ringSend (d : Dev) (type dst : Nat) (b : Bool) (w : List Nat) : Quiet d (d.ringSend type dst b w) := by
  unfold Dev.ringSend
  split
  · exact .refl d
  · extract_lets d1
    have h1 : Quiet d d1 := (quiet_ringOut _ _ (.inl rfl)).trans (quiet_ringOut _ _ (.inr rfl))
    clear_value d1
    exact h1.trans (.of_face rfl rfl rfl)

theorem quiet_sends {α : Type} (f : α → Output) (l : List α) (d : Dev) : Quiet d (l.foldl (fun d p => d.send (f p)) d) := by
  induction l generalizing d with
  | nil => exact .refl d
  | cons a t ih => exact (quiet_send d (f a)).trans (ih _)

theorem quiet_parts (type dst : Nat) (l : List (List Nat)) (d : Dev) :
    Quiet d (l.foldl (fun d part => d.ringSend type dst false part) d) := by
  induction l generalizing d with
  | nil => exact .refl d
  | cons a t ih => exact (quiet_ringSend d type dst false a).trans (ih _)

theorem quiet_partnerSend (d : Dev) (type tag line : Nat) (r : PartnerRec) : Quiet d (d.partnerSend type tag line r) := by
  unfold Dev.partnerSend
  by_cases c : (!d.duplexed) = true
  · rw [if_pos c]
    exact .refl d
  · rw [if_neg c]
    exact quiet_parts type d.partnerNode _ d

theorem quiet_stopReq (d : Dev) (q : Bool) (n : Nat) : Quiet d (d.stopReq q n) := by
  unfold Dev.stopReq
  split
  · exact quiet_ringSend _ _ _ _ _
  · exact .refl d

theorem quiet_mirror (d : Dev) (type tag line : Nat) (r : PartnerRec) : Quiet d (d.mirror type tag line r) := by
  unfold Dev.mirror
  split
  · exact quiet_partnerSend _ _ _ _ _
  · exact .refl d

theorem quiet_stopWeb (d : Dev) : Quiet d d.stopWeb := by
  unfold Dev.stopWeb
  split
  · exact quiet_stopReq _ _ _
  · split
    · exact .refl d
    · exact .of_face rfl rfl rfl

theorem quiet_quickStop (d : Dev) : Quiet d d.quickStop := by
  unfold Dev.quickStop
  dsimp only
  split
  · exact quiet_stopReq _ _ _
  · split <;> exact .of_face rfl rfl rfl

theorem quiet_policyStop (d : Dev) (a : Nat) : Quiet d (d.policyStop a) := by
  unfold Dev.policyStop
  split
  · exact .refl d
  · exact quiet_stopWeb d
  · exact quiet_quickStop d

/-! ## Events -/

theorem ringOfKind_lt {d : Dev} {k n : Nat} (h : d.ringOfKind k = some n) : n < 32 := by
  have := List.mem_of_find?_eq_some h
  simpa using this

theorem evRing_lt {d : Dev} {n : Nat} (h : d.evRing = some n) : n < 32 := by
  unfold Dev.evRing at h
  split at h
  · split at h
    · next m hm =>
      split at h
      · cases h; exact ringOfKind_lt hm
      · cases h
    · cases h
  · cases h

theorem evFree_lt {d : Dev} {n : Nat} (h : d.evFree = some n) : n < 32 := by
  unfold Dev.evFree at h
  split at h
  · next m hm =>
    split at h
    · cases h
    · cases h; exact evRing_lt hm
  · cases h

theorem quiet_takeEvt (d : Dev) {n : Nat} (h : n < 32) : Quiet d (d.takeEvt n) := by
  unfold Dev.takeEvt
  extract_lets idx d1 src
  have h1 : Quiet d d1 := (quiet_advance d h).trans (quiet_modRing _ _ _)
  clear_value d1
  exact h1.trans (.of_face rfl rfl rfl)

theorem quiet_writeEvt (d : Dev) {n : Nat} (e : Evt) (h : n < 32) : Quiet d (d.writeEvt n e) := by
  unfold Dev.writeEvt
  extract_lets idx irq at_ d1 ws
  have h1 : Quiet d d1 := (quiet_takeEvt d h).trans (quiet_send _ _)
  clear_value d1
  exact h1.trans (quiet_writeBack _ _ _ _ _ _ _ _)

theorem quiet_dropBadEvts (k : Nat) (d : Dev) : Quiet d (Dev.dropBadEvts k d) := by
  induction k generalizing d with
  | zero => exact .refl d
  | succ k ih =>
    unfold Dev.dropBadEvts
    split
    · exact .refl d
    · next n hn =>
      split
      · extract_lets idx at_ op d1
        have h1 : Quiet d d1 := ((quiet_takeEvt d (evRing_lt hn)).bump _ (errors_key_mem (evRing_lt hn))).trans (quiet_send _ _)
        clear_value d1
        exact (h1.trans (quiet_writeBack _ _ _ _ _ _ _ _)).trans (ih _)
      · exact .refl d

theorem quiet_newEvt (d : Dev) (code sev : Nat) (args : List Nat) (loc : Nat) (b : Bool) : Quiet d (d.newEvt code sev args loc b).2 :=
  .of_face rfl rfl rfl

theorem quiet_flushLost (d : Dev) {n : Nat} (h : n < 32) : Quiet d (d.flushLost n) := by
  unfold Dev.flushLost
  split
  · exact .refl d
  · refine .trans ?_ (quiet_writeEvt _ _ h)
    refine .trans ?_ (quiet_recordEvt _ _ _)
    exact .of_face rfl rfl rfl

theorem quiet_flushBehind (d : Dev) : Quiet d d.flushBehind := by
  unfold Dev.flushBehind
  split
  · exact .refl d
  · next n hn =>
    split
    · refine .trans ?_ (quiet_writeEvt _ _ (evFree_lt hn))
      refine .trans ?_ (quiet_recordEvt _ _ _)
      exact .of_face rfl rfl rfl
    · exact .refl d

theorem quiet_flushQueue (k : Nat) (d : Dev) : Quiet d (Dev.flushQueue k d) := by
  induction k generalizing d with
  | zero => exact .refl d
  | succ k ih =>
    unfold Dev.flushQueue
    split
    · next n e t hn hq =>
      refine Quiet.trans ?_ (ih _)
      refine Quiet.trans ?_ (quiet_writeEvt _ _ (evFree_lt hn))
      exact .of_face rfl rfl rfl
    · exact .refl d

theorem quiet_flushEvents (d : Dev) : Quiet d d.flushEvents := by
  unfold Dev.flushEvents
  extract_lets d1
  have h1 : Quiet d d1 := quiet_dropBadEvts _ _
  clear_value d1
  split
  · exact h1
  · next n hn => exact ((h1.trans (quiet_flushLost d1 (evFree_lt hn))).trans (quiet_flushBehind _)).trans (quiet_flushQueue _ _)

theorem quiet_holdEvt (d : Dev) (e : Evt) : Quiet d (d.holdEvt e) := by
  unfold Dev.holdEvt
  split
  · have h1 := quiet_recordEvt d e false
    generalize d.recordEvt e false = d1 at h1
    have h2 : ∀ q b, Quiet d { d1 with host := { d1.host with evQueue := q, behindDue := b } } := fun q b => h1.trans (.of_face rfl rfl rfl)
    dsimp only at h2 ⊢
    split
    · exact (h2 _ _).trans (quiet_stopWeb _)
    · exact h2 _ _
  · have h1 : Quiet d ((d.recordEvt e true).bump Reg.HOST_EVT_LOST.LOST) := (quiet_recordEvt d e true).bump _ (by decide)
    exact h1.trans (.of_face rfl rfl rfl)

theorem quiet_emit (d : Dev) (code sev : Nat) (args : List Nat) (loc : Nat) (b : Bool) : Quiet d (d.emit code sev args loc b) := by
  unfold Dev.emit
  split
  · exact .refl d
  · refine (quiet_flushEvents d).trans ((quiet_newEvt _ code sev args loc b).trans ?_)
    dsimp only
    split
    · next n hn _ => exact (quiet_recordEvt _ _ _).trans (quiet_writeEvt _ _ (evFree_lt hn))
    · exact quiet_holdEvt _ _

theorem quiet_firstFull {a d e : Dev} (h : Quiet a e) : Quiet a (d.firstFull e) := by
  unfold Dev.firstFull
  split
  · exact h.trans (quiet_emit _ _ _ _ _ _)
  · exact h

theorem quiet_postAt (d : Dev) (code sev : Nat) (args : List Nat) (loc : Nat) : Quiet d (d.postAt code sev args loc) := by
  unfold Dev.postAt
  dsimp only
  split
  · exact (quiet_firstFull (quiet_emit _ _ _ _ _ _)).trans (quiet_raiseVec _ _)
  · exact quiet_firstFull (quiet_emit _ _ _ _ _ _)

theorem quiet_post (d : Dev) (code sev : Nat) (args : List Nat) : Quiet d (d.post code sev args) := quiet_postAt _ _ _ _ _

theorem quiet_postVerdict (d : Dev) (code : Nat) (args : List Nat) (b : Bool) : Quiet d (d.postVerdict code args b) :=
  quiet_firstFull (quiet_emit _ _ _ _ _ _)

theorem quiet_recordNow (d : Dev) (type : Nat) (body : List Nat) : Quiet d (d.recordNow type body) := quiet_firstFull (quiet_record _ _ _)

/-! ## Capture -/

theorem quiet_capture (d : Dev) (type : Nat) (body : List Nat) : Quiet d (d.capture type body) := by
  unfold Dev.capture
  split
  · exact .refl d
  · extract_lets body1 rec_ src d1 kib d2 first g d3 d4 d5
    have h1 : Quiet d d1 := .of_face rfl rfl rfl
    clear_value d1
    have h2 : Quiet d d2 := h1.put _ _ (by decide)
    clear_value d2
    have h3 : Quiet d d3 := .of_face rfl rfl rfl
    clear_value d3
    have h4 : Quiet d d4 := h3.put _ _ (by decide)
    clear_value d4
    have h5 : Quiet d d5 := h4.bump _ (by decide)
    clear_value d5
    split
    · split
      · exact h2.put _ _ (by decide)
      · exact h2
    · split
      · split
        · exact h5.trans (quiet_stopWeb _)
        · exact h5
      · exact h4

theorem quiet_pwRecord (d : Dev) : Quiet d d.pwRecord := quiet_capture _ _ _

/-! ## Completions -/

theorem quiet_completeNow (d : Dev) (t : Ticket) (code detail sflags : Nat) (h : t.ring < 32) :
    Quiet d (d.completeNow t code detail sflags) := by
  unfold Dev.completeNow
  extract_lets flags src d1 d2 d3 d4 src2 d5
  have h1 : Quiet d d1 := .of_face rfl rfl rfl
  clear_value d1
  have h2 : Quiet d d2 := by
    simp only [d2]
    split
    · exact h1
    · exact h1.bump _ (errors_key_mem h)
  clear_value d2
  have h3 : Quiet d d3 := h2.trans (quiet_send _ _)
  clear_value d3
  have h4 : Quiet d d4 := h3.trans (quiet_writeBack _ _ _ _ _ _ _ _)
  clear_value d4
  have h5 : Quiet d d5 := by
    simp only [d5]
    split
    · exact h4.trans (.of_face rfl rfl rfl)
    · exact h4
  clear_value d5
  split
  · exact h5
  · exact h5.trans (quiet_capture _ _ _)

theorem quiet_completeF (d : Dev) (t : Ticket) (code detail sflags : Nat) (h : t.ring < 32) :
    Quiet d (d.completeF t code detail sflags) := by
  unfold Dev.completeF
  split
  · split
    · exact (quiet_completeNow _ _ _ _ _ h).trans (quiet_partnerSend _ _ _ _ _)
    · split
      · refine .trans ?_ (quiet_completeNow _ _ _ _ _ h)
        exact .of_face rfl rfl rfl
      · exact .of_face rfl rfl rfl
  · exact quiet_completeNow _ _ _ _ _ h

theorem quiet_complete (d : Dev) (t : Ticket) (code detail : Nat) (h : t.ring < 32) : Quiet d (d.complete t code detail) :=
  quiet_completeF _ _ _ _ _ h

theorem quiet_completeBuf (d : Dev) {ring : Nat} (idx op : Nat) (irq : Bool) (code detail : Nat) (words : List Nat) (h : ring < 32) :
    Quiet d (d.completeBuf ring idx op irq code detail words) := by
  unfold Dev.completeBuf
  extract_lets seq d1 d2 d3
  have h1 : Quiet d d1 := quiet_modRing _ _ _
  clear_value d1
  have h2 : Quiet d d2 := by
    simp only [d2]
    split
    · exact h1
    · exact h1.bump _ (errors_key_mem h)
  clear_value d2
  exact (h2.trans (quiet_send _ _)).trans (quiet_writeBack _ _ _ _ _ _ _ _)

end Sys2Proof.Machine
end

