-- ==== Sys2Proof/Laws/Step.lean ====
section
/-! SUPPORT. What a step leaves around the effect of its command; taking a descriptor; what completing and posting send. -/
namespace Sys2Proof.Machine

theorem modeEdge_refl (m : Mode) : modeEdge m m = true := by cases m <;> rfl

theorem quiet_settle {b a : Dev} {dt : Nat} (hv : a.on Reg.POS_STATUS.VALID = true → b.on Reg.POS_STATUS.VALID = true)
    (hm : modeEdge b.mode a.mode = true) : Quiet a (b.settle dt a) := by
  unfold Dev.settle
  extract_lets a1 src a2
  have h1 : Quiet a a1 ∧ a1.on Reg.POS_STATUS.VALID = a.on Reg.POS_STATUS.VALID ∧ a1.mode = a.mode := by
    simp only [a1]
    split
    · refine ⟨quiet_pwRecord a, ?_, ?_⟩
      · unfold Dev.on
        rw [(quiet_pwRecord a).1.get _ (by decide)]
      · exact (quiet_pwRecord a).1.mode
    · exact ⟨.refl a, rfl, rfl⟩
  clear_value a1
  have h2 : Quiet a a2 ∧ a2.mode = a.mode := by
    simp only [a2]
    rw [h1.2.1, if_neg]
    · exact ⟨h1.1, h1.2.2⟩
    · intro h
      simp only [Bool.and_eq_true, Bool.not_eq_true'] at h
      rw [hv h.1] at h
      exact Bool.noConfusion h.2
  clear_value a2
  rw [h2.2, hm]
  refine h2.1.trans ⟨⟨?_, fun _ _ => rfl⟩, List.prefix_refl _⟩
  simp [Dev.face, h2.2]

/-! ## Leaves -/

theorem Dev.Same.on {d e : Dev} (h : d.Same e) (f : Fld) (n : f.key ∉ reportKeys) : d.on f = e.on f := by
  unfold Dev.on; rw [h.get f n]

/-- A command that acts on the device alone leaves what its effect leaves. -/
theorem act_leaves {s : State} {dt : Nat} {f : Dev → Dev} {d : Dev} {P : State → Prop} {i : Instr} (hi : exec i s = s.act dt f)
    (h : (f (s.dev.tick dt)).Same d) (hv : d.on Reg.POS_STATUS.VALID = true → s.dev.on Reg.POS_STATUS.VALID = true)
    (hm : modeEdge s.dev.mode d.mode = true) (hp : ∀ t : State, t.dev = s.dev.settle dt (f (s.dev.tick dt)) → P t) :
    Leaves i s d P := by
  refine ⟨_, hi, rfl, rfl, ?_, hp _ rfl⟩
  refine (quiet_settle ?_ ?_).1.trans h
  · rw [h.on _ (by decide)]; exact hv
  · rw [h.mode]; exact hm

/-- What has been sent stays sent. -/
theorem mem_drop_of_prefix {α : Type} {a b : List α} {n : Nat} {x : α} (h : a <+: b) (m : x ∈ a.drop n) : x ∈ b.drop n := by
  obtain ⟨c, rfl⟩ := h
  rw [List.drop_append]
  exact List.mem_append_left _ m

/-! ## Taking a descriptor -/

theorem find_some_of_any {l : List OpRow} {p : OpRow → Bool} {c : Nat} (u : ∀ a ∈ l, ∀ b ∈ l, a.code = b.code → a = b)
    (h : l.any (fun r => r.code == c && p r) = true) : ∃ r, l.find? (fun r => r.code == c) = some r ∧ p r = true := by
  rw [List.any_eq_true] at h
  obtain ⟨r, hr, hp⟩ := h
  rw [Bool.and_eq_true] at hp
  cases hf : l.find? (fun r => r.code == c) with
  | none => exact absurd hp.1 (by simpa using List.find?_eq_none.mp hf r hr)
  | some q =>
    have hq := List.find?_some hf
    refine ⟨q, rfl, ?_⟩
    rw [u q (List.mem_of_find?_eq_some hf) r hr ((by simpa using hq : q.code = c).trans (by simpa using hp.1 : r.code = c).symm)]
    exact hp.2

theorem opTable_inj : ∀ a ∈ opTable, ∀ b ∈ opTable, a.code = b.code → a = b := by decide

theorem quiet_taking (d : Dev) {ring : Nat} (fence : Bool) (h : ring < 32) : Quiet d (d.taking ring fence) := by
  unfold Dev.taking
  extract_lets turn d1 src
  have h1 : Quiet d d1 := (quiet_advance d h).trans (quiet_modRing _ _ _)
  clear_value d1
  exact h1.trans (.of_face rfl rfl rfl)

/-- A descriptor whose opcode, ring, state, role, reserved bits and address are right passes the checks after the sequence. -/
theorem takeChecked_go {e : Dev} {t : Ticket} {x : Desc} {row : OpRow} {kind : Nat} (hk : row.kinds.contains kind = true)
    (hs : row.states.contains e.mode = true) (hf : (e.follower && (x.op == 0x08 || x.op == 0x09 || x.op == 0x0A)) = false)
    (hr : reservedWord x.op x = none) (ha : (usesAddr x.op && decide (x.addr % 8 ≠ 0)) = false) :
    Dev.takeChecked e t x (some row) kind = .go (e.modRing t.ring fun r => { r with expSeq := some ((x.seq + 1) % 65536) }) t := by
  unfold Dev.takeChecked
  have e1 : (e.modRing t.ring fun r => { r with expSeq := some ((x.seq + 1) % 65536) }).mode = e.mode := rfl
  have e2 : (e.modRing t.ring fun r => { r with expSeq := some ((x.seq + 1) % 65536) }).follower = e.follower := rfl
  simp only [hk, e1, e2, hs, hf, hr, ha, Bool.not_true, Bool.false_or, Bool.false_eq_true, if_false]

/-- An accepted descriptor goes on to its own checks. -/
theorem take_of_accepts {d : Dev} {ring : Nat} {x : Desc} {op : Nat} (h : d.accepts ring x op = true) :
    d.take ring x op = .go (d.taken ring x) (d.ticketOf ring x) ∧ ring < 32 ∧ x.op = op := by
  unfold Dev.accepts at h
  simp only [Bool.and_eq_true, Bool.not_eq_true', decide_eq_true_eq, beq_iff_eq, Bool.or_eq_true] at h
  obtain ⟨⟨⟨⟨⟨⟨⟨⟨⟨⟨⟨hs, hr⟩, ho⟩, hl⟩, hop⟩, hf⟩, hturn⟩, hq⟩, ht⟩, hfo⟩, hres⟩, ha⟩ := h
  subst hop
  rw [show (opTable.any fun r => r.code == x.op && r.kinds.contains (d.get (Reg.HOST_RING_CFG_n.KIND ring)) && r.states.contains d.mode)
    = opTable.any fun r => r.code == x.op && (r.kinds.contains (d.get (Reg.HOST_RING_CFG_n.KIND ring)) && r.states.contains d.mode) by
      simp only [Bool.and_assoc]] at ht
  obtain ⟨row, hrow, hp⟩ := find_some_of_any opTable_inj ht
  rw [Bool.and_eq_true] at hp
  have hk : d.get (Reg.HOST_RING_CFG_n.KIND ring) ≤ 2 := by
    have : ∀ r ∈ opTable, ∀ k ∈ r.kinds, k ≤ 2 := by decide
    exact this row (List.mem_of_find?_eq_some hrow) _ (by simpa using hp.1)
  have haddr : (usesAddr x.op && decide (x.addr % 8 ≠ 0)) = false := by
    rcases ha with ha | ha
    · simp [ha]
    · simp [ha]
  refine ⟨?_, hl, rfl⟩
  unfold Dev.take Dev.taken
  have hk2 : decide (2 < d.get (Reg.HOST_RING_CFG_n.KIND ring)) = false := by simpa using hk
  have hl2 : decide (32 ≤ ring) = false := by simpa using hl
  simp only [hs, hr, ho, hl2, hk2, hf, hturn, bne_self_eq_false, Bool.not_true, Bool.false_or, Bool.false_and, Bool.false_eq_true, if_false]
  have hm : (d.taking ring x.fence).mode = d.mode := (quiet_taking d x.fence hl).1.mode
  have hadv : (d.taking ring x.fence).follower = d.follower := by
    have q := (quiet_taking d x.fence hl).1
    unfold Dev.follower
    rw [q.on _ (by decide), q.on _ (by decide)]
  change (match (d.ringSt ring).expSeq with | some e => _ | none => _) = _
  rw [hrow]
  generalize d.taking ring x.fence = D at hm hadv
  have key := takeChecked_go (e := { D with host := { D.host with taken := D.host.taken ++ [d.ticketOf ring x] } }) (t := d.ticketOf ring x)
    (x := x) hp.1 (by rw [← hp.2]; exact congrArg row.states.contains hm) (by rw [← hfo, ← hadv]; rfl) (Option.isNone_iff_eq_none.mp hres) haddr
  split
  · next e he =>
    rcases hq with hq | hq
    · rw [hq] at he; cases he
    · rw [hq] at he; cases he
      rw [if_neg (fun h => h rfl)]
      exact key
  · exact key

theorem quiet_taken (d : Dev) (x : Desc) {ring : Nat} (h : ring < 32) : Quiet d (d.taken ring x) := by
  unfold Dev.taken
  extract_lets d1 src
  have h1 : Quiet d d1 := quiet_taking d _ h
  clear_value d1
  refine .trans (h1.trans ?_) (quiet_modRing _ _ _)
  exact .of_face rfl rfl rfl

/-- An accepted PARAM goes to its own checks. -/
theorem onParam_of_accepts {d : Dev} {ring : Nat} {x : Desc} {id : Nat} {states : List Mode} {tag0 : Bool}
    (h : d.acceptsParam ring x id states tag0 = true) {mine : Nat → Bool} (hm : mine id = true) (f : Dev → Ticket → Dev) :
    d.onParam ring x mine states tag0 f = f (d.taken ring x) (d.ticketOf ring x) ∧ ring < 32 ∧ x.op = 0x0F := by
  unfold Dev.acceptsParam at h
  simp only [Bool.and_eq_true, Bool.not_eq_true', decide_eq_true_eq, beq_iff_eq, Bool.or_eq_true] at h
  obtain ⟨⟨⟨⟨ha, hid⟩, hst⟩, htag⟩, hlive⟩ := h
  obtain ⟨hto, hl, hop⟩ := take_of_accepts ha
  refine ⟨?_, hl, hop⟩
  have q := (quiet_taken d x hl).1
  unfold Dev.onParam
  have hmode : (d.taken ring x).mode = d.mode := q.mode
  have hjob : (d.taken ring x).job? = d.job? := by unfold Dev.job?; rw [show (d.taken ring x).jobs = d.jobs from q.jobs]
  have htake : d.takeParam ring x mine states tag0 = .go (d.taken ring x) (d.ticketOf ring x) := by
    unfold Dev.takeParam
    rw [hid, hm, hto]
    simp only [Bool.not_true, Bool.and_false, Bool.false_and, Bool.false_eq_true, if_false, hmode, hst, hjob, hop]
    rcases htag with h0 | h1
    · simp [h0]
    · have : (d.job? (x.f 5 0 8)).isNone = false := by
        cases hj : d.job? (x.f 5 0 8) <;> simp_all
      simp [h1.1, this]
  rw [htake]
  unfold Dev.onTake
  simp only []
  rw [show (d.taken ring x).live? = d.live? by unfold Dev.live?; rw [show (d.taken ring x).jobs = d.jobs from q.jobs]]
  split
  · next j hj =>
    rcases hlive with h0 | h1
    · rw [hj] at h0; cases h0
    · simp [h1]
  · rfl

/-! ## What completing sends -/

theorem out_completeNow (d : Dev) (t : Ticket) (code detail held : Nat) :
    ∃ stamp, Output.completion t.ring t.idx t.op t.seq code detail (held + d.govFlag t.op) stamp [] ∈
      (d.completeNow t code detail held).out.drop d.out.length := by
  unfold Dev.completeNow
  extract_lets sflags src d1 d2 d3 d4 src2 d5
  have h2 : d2.out = d.out := by simp only [d2]; split <;> rfl
  have h3 : d3.out = d.out ++ [.completion t.ring t.idx t.op t.seq code detail sflags d2.stamp []] := by rw [← h2]; rfl
  refine ⟨d2.stamp, ?_⟩
  generalize d2.stamp = st at h3 ⊢
  clear_value d3
  have h5 : Quiet d3 d5 := by
    have h4 : Quiet d3 d4 := quiet_writeBack _ _ _ _ _ _ _ _
    clear_value d4
    simp only [d5]
    split
    · exact h4.trans (.of_face rfl rfl rfl)
    · exact h4
  clear_value d5
  have h6 : Quiet d3 (if t.op = 0 then d5 else d5.capture 4 ([t.ring, t.op, code, t.tag] ++ leBytes 2 t.seq ++ leBytes 2 detail ++ leBytes 4 t.len ++ leBytes 4 t.crc ++ leBytes 4 t.ident)) := by
    split
    · exact h5
    · exact h5.trans (quiet_capture _ _ _)
  refine mem_drop_of_prefix h6.2 ?_
  rw [h3, List.drop_left]
  exact List.mem_singleton.mpr rfl

/-- The unit completes the ticket by itself. -/
theorem completeF_now (d : Dev) (t : Ticket) (code detail sflags : Nat) (h : (d.duplexed && t.shared) = false) :
    d.completeF t code detail sflags = d.completeNow t code detail sflags := by
  unfold Dev.completeF
  rw [h]
  rfl

end Sys2Proof.Machine
end

