-- ==== Sys2Proof/Laws/Events.lean ====
section
/-! SUPPORT. Where the Event ring has room and nothing waits, a posted event is sent with its code and arguments. -/
namespace Sys2Proof.Machine

theorem flushQueue_nil (k : Nat) (d : Dev) (h : d.host.evQueue = []) : Dev.flushQueue k d = d := by
  cases k with
  | zero => rfl
  | succ k =>
    unfold Dev.flushQueue
    rw [h]
    split
    · next h2 => cases h2
    · rfl

theorem flushEvents_listens {d : Dev} (h : d.listens = true) : d.flushEvents = d := by
  unfold Dev.listens at h
  simp only [Bool.and_eq_true, decide_eq_true_eq, Bool.not_eq_true', List.isEmpty_iff] at h
  obtain ⟨⟨⟨hf, hq⟩, hd⟩, hb⟩ := h
  have h1 : ∀ n, d.flushLost n = d := fun n => by unfold Dev.flushLost; rw [if_pos hd]
  have h2 : d.flushBehind = d := by
    unfold Dev.flushBehind
    split
    · rfl
    · rw [if_neg]; simp [hb]
  have h3 : Dev.dropBadEvts 65536 d = d := by
    unfold Dev.dropBadEvts
    obtain ⟨n, hn⟩ := Option.isSome_iff_exists.mp hf
    unfold Dev.evFree at hn
    split at hn
    · next m hm =>
      split at hn
      · cases hn
      · next hb =>
        rw [hm]
        dsimp only
        split
        · next hb2 => rw [hb2] at hb; exact absurd rfl hb
        · rfl
    · cases hn
  unfold Dev.flushEvents
  rw [h3]
  dsimp only
  split
  · rfl
  · rw [h1, h2, flushQueue_nil _ _ hq]

/-- The event is sent. -/
theorem out_emit {d : Dev} (h : d.listens = true) (code sev : Nat) (args : List Nat) (loc : Nat) (b : Bool)
    (hs : ¬(d.mode = .safe ∧ !safeEvent code)) :
    ∃ idx e, Output.event idx e ∈ (d.emit code sev args loc b).out.drop d.out.length ∧ e.code = code ∧ e.args = args := by
  unfold Dev.emit
  rw [if_neg hs, flushEvents_listens h]
  unfold Dev.listens at h
  simp only [Bool.and_eq_true, decide_eq_true_eq, Bool.not_eq_true', List.isEmpty_iff] at h
  obtain ⟨⟨⟨hf, hq⟩, _⟩, _⟩ := h
  obtain ⟨n, hn⟩ := Option.isSome_iff_exists.mp hf
  have e1 : (d.newEvt code sev args loc b).2.evFree = d.evFree := rfl
  have e2 : (d.newEvt code sev args loc b).2.host.evQueue = [] := hq
  dsimp only
  rw [e1, hn, e2]
  dsimp only
  generalize hE : (d.newEvt code sev args loc b).1 = e
  have hc : e.code = code ∧ e.args = args := by rw [← hE]; exact ⟨rfl, rfl⟩
  have q1 := quiet_recordEvt (d.newEvt code sev args loc b).2 e false
  generalize (d.newEvt code sev args loc b).2.recordEvt e false = d1 at q1
  have q2 : d.out <+: d1.out := q1.2
  unfold Dev.writeEvt
  refine ⟨d1.get (Reg.HOST_RING_CONS_n.CONS n), e, ?_, hc⟩
  have q3 : Quiet d1 (d1.takeEvt n) := quiet_takeEvt d1 (evFree_lt hn)
  dsimp only
  generalize d1.takeEvt n = d2 at q3
  refine mem_drop_of_prefix (quiet_writeBack _ _ _ _ _ _ _ _).2 ?_
  obtain ⟨l, hl'⟩ := q2.trans q3.2
  rw [Dev.out_send, ← hl', List.append_assoc, List.drop_left]
  simp

theorem out_postAt {d : Dev} (h : d.listens = true) (code sev : Nat) (args : List Nat) (loc : Nat)
    (hs : ¬(d.mode = .safe ∧ !safeEvent code)) :
    ∃ idx e, Output.event idx e ∈ (d.postAt code sev args loc).out.drop d.out.length ∧ e.code = code ∧ e.args = args := by
  obtain ⟨idx, e, hm, hc⟩ := out_emit h code sev args loc false hs
  refine ⟨idx, e, mem_drop_of_prefix ?_ hm, hc⟩
  unfold Dev.postAt
  dsimp only
  have q : Quiet (d.emit code sev args loc false) (d.firstFull (d.emit code sev args loc false)) := quiet_firstFull (.refl _)
  split
  · exact (q.trans (quiet_raiseVec _ _)).2
  · exact q.2

theorem out_post {d : Dev} (h : d.listens = true) (code sev : Nat) (args : List Nat) (hs : ¬(d.mode = .safe ∧ !safeEvent code)) :
    ∃ idx e, Output.event idx e ∈ (d.post code sev args).out.drop d.out.length ∧ e.code = code ∧ e.args = args :=
  out_postAt h code sev args 0 hs

/-- Whether the Event ring has room and nothing waits depends on a few parts only. -/
theorem listens_congr {d e : Dev} (m : e.mode = d.mode) (h : e.host = d.host) (hd : e.dma = d.dma)
    (k : ∀ n, n < 32 → (e.get (Reg.HOST_RING_CFG_n.EN n) = d.get (Reg.HOST_RING_CFG_n.EN n) ∧ e.get (Reg.HOST_RING_CFG_n.KIND n) = d.get (Reg.HOST_RING_CFG_n.KIND n)
      ∧ e.get (Reg.HOST_RING_STAT_n.STOPPED n) = d.get (Reg.HOST_RING_STAT_n.STOPPED n) ∧ e.get (Reg.HOST_RING_CONS_n.CONS n) = d.get (Reg.HOST_RING_CONS_n.CONS n)
      ∧ e.get (Reg.HOST_RING_CONS_n.PROD n) = d.get (Reg.HOST_RING_CONS_n.PROD n))) : e.listens = d.listens := by
  have r : e.ringOfKind 3 = d.ringOfKind 3 := by
    unfold Dev.ringOfKind Dev.on
    have : ∀ n ∈ List.range 32, (decide (e.get (Reg.HOST_RING_CFG_n.EN n) ≠ 0) && decide (e.get (Reg.HOST_RING_CFG_n.KIND n) = 3))
        = (decide (d.get (Reg.HOST_RING_CFG_n.EN n) ≠ 0) && decide (d.get (Reg.HOST_RING_CFG_n.KIND n) = 3)) := by
      intro n hn
      rw [(k n (List.mem_range.mp hn)).1, (k n (List.mem_range.mp hn)).2.1]
    generalize List.range 32 = l at this
    induction l with
    | nil => rfl
    | cons a t ih =>
      rw [List.find?_cons, List.find?_cons, this a (List.mem_cons_self ..), ih fun n hn => this n (List.mem_cons_of_mem _ hn)]
  have g : ∀ n, n < 32 → e.ringReady n = d.ringReady n := by
    intro n hn
    obtain ⟨k1, k2, k3, k4, k5⟩ := k n hn
    have c : e.channelOf n = d.channelOf n := by unfold Dev.channelOf; rw [k2]
    have f : ∀ ch, e.tagsOf ch = d.tagsOf ch := fun ch => by unfold Dev.tagsOf Dev.chan; rw [h, hd]
    have f2 : e.tagsOf = d.tagsOf := funext f
    unfold Dev.ringReady Dev.on Dev.published Dev.ringSt Dev.chCanRead Dev.freeTags Dev.canRequest Dev.chFailing Dev.chan
    rw [k1, k3, k4, k5, c, f2, h, hd]
  have ev : e.evRing = d.evRing := by
    unfold Dev.evRing
    rw [m, r]
    split
    · cases hk : d.ringOfKind 3 with
      | none => rfl
      | some n => dsimp only; rw [g n (ringOfKind_lt hk)]
    · rfl
  have f : e.evFree = d.evFree := by
    unfold Dev.evFree
    rw [ev]
    cases hk : d.evRing with
    | none => rfl
    | some n =>
      have hb : e.evHeadBad n = d.evHeadBad n := by
        unfold Dev.evHeadBad Dev.evHead
        rw [h, (k n (evRing_lt hk)).2.2.2.1]
      dsimp only
      rw [hb]
  unfold Dev.listens
  rw [f, h]

end Sys2Proof.Machine
end

