-- ==== Sys2Proof/Laws/Mem.lean ====
section
/-! SUPPORT. Laws of device memory: a byte read after a write, and the canonical form kept by every write. -/
namespace Sys2Proof.Machine

/-- The canonical form says: no listed byte is 0 and addresses rise from `lo`. -/
theorem memWf_cons (a : Nat) (v : Byte) (t : List Host.Cell) :
    memWf ((a, v) :: t) = true ↔ v ≠ 0 ∧ (∀ c, t.head? = some c → a < c.1) ∧ memWf t = true := by
  cases t with
  | nil => simp [memWf]
  | cons c t => obtain ⟨b, w⟩ := c; simp [memWf, Bool.and_eq_true, and_assoc]

theorem memByte_of_lt {t : List Host.Cell} (h : memWf t = true) {k : Nat} (l : ∀ c, t.head? = some c → k < c.1) : memByte t k = 0 := by
  induction t with
  | nil => rfl
  | cons c t ih =>
    obtain ⟨a, v⟩ := c
    have ha : k < a := l _ rfl
    unfold memByte
    rw [if_neg (by omega)]
    have hw := (memWf_cons a v t).mp h
    exact ih hw.2.2 fun c hc => Nat.lt_trans ha (hw.2.1 c hc)

/-- The head of the list after a write is the old head or the address written. -/
theorem memPutByte_head {t : List Host.Cell} {k a : Nat} {v : Byte} (w : memWf t = true) (l : ∀ c, t.head? = some c → a < c.1) (hk : a < k) :
    ∀ c, (memPutByte t k v).head? = some c → a < c.1 := by
  cases t with
  | nil =>
    intro c hc
    unfold memPutByte at hc
    split at hc
    · cases hc
    · simp only [List.head?_cons, Option.some.injEq] at hc; rw [← hc]; exact hk
  | cons b t =>
    obtain ⟨b, x⟩ := b
    have hb : a < b := l _ rfl
    have hw := (memWf_cons b x t).mp w
    intro c hc
    unfold memPutByte at hc
    split at hc
    · split at hc
      · simp only [List.head?_cons, Option.some.injEq] at hc; rw [← hc]; exact hb
      · simp only [List.head?_cons, Option.some.injEq] at hc; rw [← hc]; exact hk
    · split at hc
      · split at hc
        · exact Nat.lt_trans hb (hw.2.1 c hc)
        · simp only [List.head?_cons, Option.some.injEq] at hc; rw [← hc]; exact hk
      · simp only [List.head?_cons, Option.some.injEq] at hc; rw [← hc]; exact hb

theorem memWf_memPutByte {m : List Host.Cell} (h : memWf m = true) (k : Nat) (v : Byte) : memWf (memPutByte m k v) = true := by
  induction m with
  | nil =>
    unfold memPutByte
    split
    · rfl
    · next hv => simpa [memWf] using hv
  | cons c t ih =>
    obtain ⟨a, x⟩ := c
    have hw := (memWf_cons a x t).mp h
    unfold memPutByte
    split
    · next hlt =>
      split
      · exact h
      · next hv =>
        rw [memWf_cons]
        refine ⟨hv, ?_, h⟩
        intro c hc
        simp only [List.head?_cons, Option.some.injEq] at hc
        rw [← hc]; exact hlt
    · split
      · next heq =>
        split
        · exact hw.2.2
        · next hv => subst heq; rw [memWf_cons]; exact ⟨hv, hw.2.1, hw.2.2⟩
      · next h1 h2 =>
        rw [memWf_cons]
        exact ⟨hw.1, memPutByte_head hw.2.2 hw.2.1 (by omega), ih hw.2.2⟩

theorem memWf_memPut {m : List Host.Cell} (h : memWf m = true) (a : Nat) (bs : List Byte) : memWf (memPut m a bs) = true := by
  induction bs generalizing m a with
  | nil => exact h
  | cons b t ih => exact ih (memWf_memPutByte h a b) (a + 1)

/-- Writes of save slots that are open keep the canonical form. -/
theorem State.memWf_stored {s : State} (h : memWf s.mem = true) : memWf s.stored = true := by
  unfold State.stored
  generalize s.dev.cal.stores = l
  generalize s.mem = m at h
  induction l generalizing m with
  | nil => exact h
  | cons x l ih => exact ih _ (memWf_memPut h _ _)

/-- A command that may touch device memory keeps the canonical form where what it does keeps it. -/
theorem State.memWf_actMem {s t : State} {dt : Nat} {f : Dev → List Host.Cell → Dev × List Host.Cell} (h : memWf s.mem = true)
    (k : ∀ d m, memWf m = true → memWf (f d m).2 = true) (e : s.actMem dt f = .next t) : memWf t.mem = true := by
  cases e
  exact k _ _ (State.memWf_stored h)

/-- A byte reads what was stored in it. -/
theorem memByte_memPutByte_self {m : List Host.Cell} (h : memWf m = true) (k : Nat) (v : Byte) : memByte (memPutByte m k v) k = v := by
  induction m with
  | nil =>
    unfold memPutByte
    split
    · next hv => rw [hv]; rfl
    · simp [memByte]
  | cons c t ih =>
    obtain ⟨a, x⟩ := c
    have hw := (memWf_cons a x t).mp h
    unfold memPutByte
    split
    · next hlt =>
      split
      · next hv =>
        rw [hv]
        exact memByte_of_lt h fun c hc => by
          simp only [List.head?_cons, Option.some.injEq] at hc
          rw [← hc]; exact hlt
      · simp [memByte]
    · split
      · next heq =>
        subst heq
        split
        · next hv => rw [hv]; exact memByte_of_lt hw.2.2 hw.2.1
        · simp [memByte]
      · next h1 h2 =>
        unfold memByte
        rw [if_neg (Ne.symm h2)]
        exact ih hw.2.2

/-- Every other byte reads as before. -/
theorem memByte_memPutByte_of_ne (m : List Host.Cell) {k j : Nat} (v : Byte) (h : k ≠ j) : memByte (memPutByte m k v) j = memByte m j := by
  induction m with
  | nil =>
    unfold memPutByte
    split
    · rfl
    · simp [memByte, h]
  | cons c t ih =>
    obtain ⟨a, x⟩ := c
    unfold memPutByte
    split
    · split
      · rfl
      · simp [memByte, h]
    · split
      · next heq =>
        subst heq
        split
        · simp [memByte, h]
        · simp [memByte, h]
      · simp [memByte, ih]

/-- Bytes outside a stored range read as before. -/
theorem memByte_memPut_outside (m : List Host.Cell) (a : Nat) (bs : List Byte) {j : Nat} (h : j < a ∨ a + bs.length ≤ j) :
    memByte (memPut m a bs) j = memByte m j := by
  induction bs generalizing m a with
  | nil => rfl
  | cons b t ih =>
    unfold memPut
    simp only [List.length_cons] at h
    rw [ih _ _ (by omega), memByte_memPutByte_of_ne m b (by omega)]

/-- A stored range reads back. -/
theorem memByte_memPut_inside {m : List Host.Cell} (h : memWf m = true) (a : Nat) (bs : List Byte) {i : Nat} (hi : i < bs.length) :
    memByte (memPut m a bs) (a + i) = bs[i] := by
  induction bs generalizing m a i with
  | nil => cases hi
  | cons b t ih =>
    unfold memPut
    cases i with
    | zero =>
      rw [memByte_memPut_outside _ _ _ (by omega)]
      exact memByte_memPutByte_self h a b
    | succ i =>
      have := ih (memWf_memPutByte h a b) (a + 1) (i := i) (by simpa using hi)
      rw [show a + (i + 1) = a + 1 + i by omega, this]
      rfl

end Sys2Proof.Machine
end

