-- ==== Sys2Proof/Tests/Slice0.lean ====
section
/-! SUPPORT. Tests: the well-formedness check refuses ill-formed terms; worked examples of the spec; and for every obligation with
hypotheses a state and operands that meet them, clause by clause. -/
namespace Sys2Proof.Machine
set_option Elab.async false

/-! ## Small states -/

/-- A device in a state, past self-test, changed by `f`. -/
def inMode (m : Mode) (f : Dev → Dev) : State :=
  { State.reset with dev := f { Dev.reset with mode := m, svc := { Dev.reset.svc with
    pllsLocked := true, filled := true, up := true, verified := true, configOk := true } } }

/-- Ring `n` of a kind is enabled, with one descriptor published. -/
def withRing (n kind : Nat) (d : Dev) : Dev :=
  ((d.put (Reg.HOST_RING_CFG_n.EN n) 1).put (Reg.HOST_RING_CFG_n.KIND n) kind).put (Reg.HOST_RING_CONS_n.PROD n) 1

/-- A descriptor owned by the device: its opcode, SEQ 0, and its words from word 1. -/
def desc (op : Nat) (ws : List Nat) : Desc := ⟨(((0x80000000 + op * 2 ^ 24) :: ws).map (BitVec.ofNat 32) ++ List.replicate 16 0).take 16⟩

/-- A PARAM by its ID, VALUE words and TAG. -/
def param (id : Nat) (vs : List Nat) (tag : Nat) : Desc := desc 0x0F ([0, 0, 0, id, tag] ++ vs)

/-- Put register fields. -/
def puts (l : List (Fld × Nat)) (d : Dev) : Dev := l.foldl (fun d x => d.put x.1 x.2) d

/-! ## Well-formedness -/

/-- A time step that does not fit TB. -/
theorem test_wf_refuses_long_step : (Instr.goReady (2 ^ 64) 1).wellFormed = false := by decide +kernel

/-- A descriptor of 15 words. -/
theorem test_wf_refuses_short_descriptor : (Instr.nop 0 0 ⟨List.replicate 15 0⟩).wellFormed = false := by decide +kernel

theorem test_wf_accepts : (Instr.nop 5 0 (desc 0 [])).wellFormed = true := by decide +kernel

/-! ## Witnesses: what the hypotheses of the obligations ask for is met -/

theorem witness_EmptyQueueCountsOneNanosecond : State.reset.pending = [] := rfl

theorem witness_EveryChangeOfStateIsAllowed : ∃ t, exec (.powerOnReset 1) State.reset = .next t := ⟨_, rfl⟩

theorem witness_TimeBaseCountsWhateverTheCommand : ∃ t, exec (.safeStatus 7) (inMode .safe id) = .next t := ⟨_, rfl⟩

theorem witness_DeviceMemoryChangesOnlyByTransfersAndTheFill : ∃ t, exec (.memoryFillDone 1 true true 5 0 [] []) State.reset = .next t := ⟨_, rfl⟩

theorem witness_MemoryStaysCanonicalInEveryStep : State.reset.MemOk ∧ ∃ t, step State.reset = .next t := ⟨rfl, _, rfl⟩

theorem witness_ForceSafeActsAlone :
    (bitOf 7 2 = true ∧ bitOf 7 0 = true ∧ bitOf 7 1 = true) ∧ (bitOf 3 2 = false ∧ bitOf 3 0 = true ∧ bitOf 3 1 = true) := by decide +kernel

theorem witness_StateRequestsInOtherStatesAreRefused :
    (bitOf 1 2 = false ∧ bitOf 1 0 = true ∧ bitOf 1 1 = false ∧ (inMode .hold id).dev.mode ≠ .setup)
    ∧ (bitOf 2 2 = false ∧ bitOf 2 0 = false ∧ bitOf 2 1 = true ∧ ¬((inMode .setup id).dev.mode = .ready ∧ (inMode .setup id).dev.jobs = [])) := by
  decide +kernel

/-- A set-up check in progress on registers at reset: no Event ring is enabled. -/
def wCheck : State := inMode .setup fun d => { d with svc := { d.svc with checking := true } }

theorem witness_EntryToSafe :
    (bitOf 4 2 = true ∧ State.reset.dev.mode ≠ .off ∧ State.reset.dev.mode ≠ .safe ∧ (inMode .selftest id).dev.svc.filled = true)
    ∧ (inMode .setup id).dev.mode.served = true ∧ (inMode .hold id).dev.mode = .hold
    ∧ ((inMode .ready id).dev.mode ≠ .run ∧ (inMode .ready id).dev.mode ≠ .hold)
    ∧ ((inMode .run (withRing 31 3)).dev.mode.served = true ∧ (inMode .run (withRing 31 3)).dev.on (Reg.HOST_RING_CFG_n.EN 31) = true)
    ∧ (∀ n < 32, State.reset.dev.on (Reg.HOST_RING_CFG_n.EN n) = false) := by decide +kernel

theorem witness_ResetsOfTheWholeDevice :
    State.reset.dev.mode ≠ .off ∧ (inMode .off id).dev.mode = .off ∧ (1000 ≤ 1000 ∧ 99 < 100) := by decide +kernel

def wStage (k : Nat) : State := { State.reset with dev := Dev.reset.put Reg.SVC_ST.STAGE k }

/-- A header whose MAGIC and HDR_VER are valid. -/
def wHeader : List Byte := ((leBytes 4 0x4D495953 ++ leBytes 2 1) ++ List.replicate 506 0).map (BitVec.ofNat 8)

theorem witness_SelftestStages :
    (State.reset.dev.mode = .selftest ∧ State.reset.dev.svc.pllsLocked = false ∧ (State.reset.now 1000000).since State.reset.dev.clk.relockAt ≤ 1000000
      ∧ 10000000 ≤ (State.reset.now 10000000).since State.reset.dev.clk.relockAt)
    ∧ ((wStage 2).dev.mode = .selftest ∧ (wStage 2).dev.get Reg.SVC_ST.STAGE = 2) ∧ (wStage 4).dev.get Reg.SVC_ST.STAGE = 4
    ∧ ((wStage 6).dev.get Reg.SVC_ST.STAGE = 6 ∧ (wStage 6).dev.svc.forceHeld = false
      ∧ candidateOf (natBytes wHeader) (natBytes []) = some 0) := by decide +kernel

/-- SHA-256 of "abc" (FIPS 180-4, example). -/
theorem test_sha256_abc : sha256 [0x61, 0x62, 0x63] = 0xba7816bf8f01cfea414140de5dae2223b00361a396177a9cb410ff61f20015ad := by decide +kernel

/-- Registers with which the set-up check passes: one ring of each kind that must be there, the web encoder, a MAC address. -/
def wPass (d : Dev) : Dev :=
  puts [(Reg.POS_ENC_CFG_n.EN 0, 1), (Reg.TIME_PORT_MAC_LO_p.MAC_LO 0, 1)] ([(0, 0), (1, 1), (2, 2), (3, 3)].foldl (fun d (n, k) => withRing n k d) d)

theorem witness_BetweenSetupAndReady :
    ((inMode .setup id).dev.mode = .setup ∧ bitOf 1 0 = true ∧ bitOf 1 1 = false ∧ bitOf 1 2 = false)
    ∧ (wCheck.dev.svc.checking = true
      ∧ ({ wCheck.now 5 with svc := { wCheck.dev.svc with checking := false } } : Dev).setupFails = some (Reg.HOST_RING_CFG_n.KIND 31 : Fld))
    ∧ (({ wPass (wCheck.now 5) with svc := { wCheck.dev.svc with checking := false } } : Dev).setupFails = none
      ∧ (inMode .setup fun _ => wPass wCheck.dev).now 5 = wPass (wCheck.now 5))
    ∧ ((inMode .ready id).dev.mode = .ready ∧ (inMode .ready id).dev.jobs = [] ∧ bitOf 2 0 = false ∧ bitOf 2 1 = true ∧ bitOf 2 2 = false) := by
  decide +kernel

/-- An image of 4,096 zero bytes signed under the private key 1: the header without the hash and the signature, and the whole header. -/
def wHash : Nat := 0xad7facb2586fc6e966c004d7d1d16b024f5805ff7cb47c7a85dabd8b48892ca7
def wSigned : List Nat :=
  leBytes 4 0x4D495953 ++ leBytes 2 1 ++ [0, 0] ++ leBytes 4 4096 ++ leBytes 4 7 ++ leBytes 2 63 ++ leBytes 2 0xB0 ++ List.replicate 12 0
    ++ beBytes 32 p256G.1 ++ beBytes 32 p256G.2 ++ beBytes 32 wHash
def wSig : Nat := 0xd20973423eaa2b3bc5c1d0dbe95df3210d00f86604ffed8c7863c4af2b57fad9
def wImage : List Nat := wSigned ++ beBytes 32 p256G.1 ++ beBytes 32 wSig ++ List.replicate 320 0
def wBytes (l : List Nat) : List Byte := l.map (BitVec.ofNat 8)

theorem wPayload_hash : sha256 (List.replicate 4096 0) = wHash := by decide +kernel

theorem wImage_signed : ecdsaOk p256G (sha256 wSigned) p256G.1 wSig = true := by decide +kernel

theorem wImage_key : sha256 ((wImage.drop 32).take 64) = 0xd875db7def232236aec738c6b0bb3e80142f5d0fd8f4df24fed6eef5cbb50d9f := by decide +kernel

/-- Where the fuses hold the hash of this key in slot 0 and do not revoke it, the image passes every check: the fuses are opaque. -/
theorem wImage_passes (k : Config.efuseKeyHash 0 = 0xd875db7def232236aec738c6b0bb3e80142f5d0fd8f4df24fed6eef5cbb50d9f)
    (r : bitOf Config.efuseRevoked 0 = false) : imageFault wImage (List.replicate 4096 0) = none := by
  have f : Config.efuseFloor % 64 ≤ 63 := by omega
  have a : decide (sha256 ((wImage.drop 32).take 64) = Config.efuseKeyHash (leAt wImage 6 1)) = true := by
    rw [wImage_key, show leAt wImage 6 1 = 0 from by decide +kernel, k]; simp
  have b : decide (sha256 (List.replicate 4096 0) = ofBe ((wImage.drop 96).take 32)) = true := by
    rw [wPayload_hash]; decide +kernel
  have c : ecdsaOk (ofBe ((wImage.drop 32).take 32), ofBe ((wImage.drop 64).take 32)) (sha256 (wImage.take 128)) (ofBe ((wImage.drop 128).take 32))
      (ofBe ((wImage.drop 160).take 32)) = true := by
    rw [show (ofBe ((wImage.drop 32).take 32), ofBe ((wImage.drop 64).take 32)) = p256G from by decide +kernel,
      show wImage.take 128 = wSigned from by decide +kernel, show ofBe ((wImage.drop 128).take 32) = p256G.1 from by decide +kernel,
      show ofBe ((wImage.drop 160).take 32) = wSig from by decide +kernel]
    exact wImage_signed
  have g : (decide (leAt wImage 6 1 ≤ 3) && !bitOf Config.efuseRevoked (leAt wImage 6 1)) = true := by
    rw [show leAt wImage 6 1 = 0 from by decide +kernel, r]; rfl
  have h : (decide (leAt wImage 16 2 ≤ 63) && decide (Config.efuseFloor % 64 ≤ leAt wImage 16 2)) = true := by
    rw [show leAt wImage 16 2 = 63 from by decide +kernel]; simp [f]
  have l : (decide (4096 ≤ leAt wImage 8 4) && decide (leAt wImage 8 4 ≤ 8384512) && decide (leAt wImage 8 4 % 4096 = 0)
      && decide ((List.replicate 4096 0).length = leAt wImage 8 4)) = true := by
    rw [List.length_replicate]; decide +kernel
  unfold imageFault
  dsimp only
  rw [a, b, c, g, h, l, show decide (leAt wImage 0 4 = 0x4D495953) = true from by decide +kernel,
    show decide (leAt wImage 4 2 = 1) = true from by decide +kernel, show zeroBytes wImage 7 1 = true from by decide +kernel,
    show decide (leAt wImage 18 2 = 0x00B0) = true from by decide +kernel,
    show zeroBytes wImage 24 8 = true from by decide +kernel, show zeroBytes wImage 192 320 = true from by decide +kernel]
  rfl

/-- An IMAGE_WRITE of that image to slot 1. -/
def wWrite : Desc := param 0xF001 [0, 0, 4608, 1] 0

theorem witness_BootAndFirmware :
    ({ wStage 8 with dev := { (wStage 8).dev with svc := { (wStage 8).dev.svc with candidate := some 1 } } } : State).dev.svc.candidate = some 1
    ∧ ((wStage 8).dev.get Reg.SVC_ST.STAGE = 8 ∧ (wStage 8).dev.svc.fallback = none ∧ (wBytes wImage).length = 512
      ∧ natBytes (wBytes wImage) = wImage ∧ imageFault (natBytes (wBytes (List.replicate 512 0))) (natBytes []) = some 0)
    ∧ ((inMode .selftest fun d => d.put Reg.SVC_ST.STAGE 9).dev.get Reg.SVC_ST.STAGE = 9
      ∧ (inMode .selftest fun d => d.put Reg.SVC_ST.STAGE 9).dev.svc.verified = true
      ∧ (inMode .selftest fun d => d.put Reg.SVC_ST.STAGE 9).dev.on Reg.SENSE_SHUT.PEND = false
      ∧ (inMode .selftest fun d => d.put Reg.SENSE_SHUT.PEND 1).dev.on Reg.SENSE_SHUT.PEND = true)
    ∧ ((inMode .safe id).dev.mode = .safe ∧ 1000000000 ≤ ((inMode .safe id).now 1000000000).since (inMode .safe id).dev.svc.safePost)
    ∧ (((inMode .setup (withRing 0 0)).now 5).acceptsParam 0 wWrite 0xF001 [.setup] true = true
      ∧ valueExtra wWrite [0xFFFFFFFF, 0xFFFFFFFF, 0xFFFFFFFF, 1] = none ∧ (wWrite.w 6 + 2 ^ 32 * wWrite.w 7) % 4096 = 0 ∧ 4608 ≤ wWrite.w 8
      ∧ wWrite.w 8 ≤ 8385024 ∧ wWrite.w 8 % 4096 = 512 ∧ wWrite.w 9 % 2 ≠ (inMode .setup (withRing 0 0)).dev.get Reg.SVC_BOOT.SLOT
      ∧ (wBytes (wImage ++ List.replicate 4096 0)).length = wWrite.w 8 ∧ (inMode .setup (withRing 0 0)).dev.svc.image = none
      ∧ (natBytes (wBytes (wImage ++ List.replicate 4096 0))).take 512 = wImage
      ∧ (natBytes (wBytes (wImage ++ List.replicate 4096 0))).drop 512 = List.replicate 4096 0)
    ∧ (((inMode .setup (withRing 0 0)).now 5).acceptsParam 0 (param 0xF002 [77, 0, 0, 0] 0) 0xF002 [.setup] true = true
      ∧ valueExtra (param 0xF002 [77, 0, 0, 0] 0) [0xFFFFFFFF, 0, 0, 0] = none) := by
  decide +kernel

theorem witness_BootAndFirmware_done :
    (⟨⟨0, 0, 0x0F, 0, 0, 0, 0, 0, 0⟩, 1⟩ : ImageJob).ticket.ring < 32 ∧ (⟨⟨0, 0, 0x0F, 0, 0, 0, 0, 0, 0⟩, 1⟩ : ImageJob).ticket.op = 0x0F := by
  decide

/-! ### The host side and the DMA engine -/

/-- Command ring 0 with a descriptor. -/
def wCmd (m : Mode) (f : Dev → Dev) : State := inMode m fun d => f (withRing 0 0 d)

/-- A doorbell read is outstanding, sent at TB 0. -/
def wBusy : State := inMode .setup fun d => { d with host := { d.host with dbBusy := true } }

/-- Command ring 0 and Content ring 1 both have a descriptor; by the second state ring 1 has been served since the last doorbell read. -/
def wRings (turn : Nat) : State := inMode .setup fun d => { withRing 1 1 (withRing 0 0 d) with host := { d.host with turn := turn } }

theorem witness_DoorbellLineReads :
    (((inMode .ready id).now 10000000).polls = true
      ∧ (inMode .ready id).dev.get Reg.HOST_DB_POLL.POLL * 500 ≤ ((inMode .ready id).now 10000000).since (inMode .ready id).dev.host.dbLast
      ∧ (inMode .ready id).dev.host.dbBusy = false)
    ∧ (wBusy.dev.mode.served = true ∧ wBusy.dev.host.dbBusy = true ∧ (wBytes (List.replicate 64 1)).length = 64
      ∧ (wBusy.now 10000000).polls = true ∧ wBusy.dev.host.dbLim ≤ (wBusy.now 50000).since wBusy.dev.host.dbAt)
    ∧ ((wRings 2).dev.inTurn 0 (desc 0 []).fence = false ∧ ((wRings 0).now 5).accepts 1 (desc 0 []) 0x00 = true ∧ (wRings 0).dev.newWork 1 = true
      ∧ (desc 0 []).fence = false ∧ ((wRings 0).dev.ringSt 1).loose = false) := by decide +kernel

/-- Ring 5 of kind 1 has stopped; ring 3 has a completion not signalled. -/
def wStopped : State := wCmd .ready fun d => (puts [(Reg.HOST_RING_STAT_n.STOPPED 5, 1), (Reg.HOST_RING_COAL_n.COAL_US 3, 1)] (withRing 5 1 d)).modRing 3 fun r => { r with unsig := 1 }

/-- A message of vector 3 pends; vector 0 is not masked. -/
def wPend : State := inMode .ready fun d => { d with host := { d.host with msixPend := 8, msixMask := 0xFFFFFFFE } }

def wRingReset : Desc := desc 0x10 [0, 0, 0, 5, 9]

theorem witness_InterruptsAndRingRestarts :
    ((wCmd .hold id).now 5).accepts 0 (desc 0 []) 0x00 = true
    ∧ (bitOf 0 0 = false ∧ bitOf wPend.dev.host.msixPend 3 = true ∧ wPend.dev.canRequest = true
      ∧ wPend.dev.chStopped (wPend.dev.vecChannel 3) = false ∧ wPend.dev.svc.configOk = true)
    ∧ (wStopped.dev.vecOpen (wStopped.dev.get (Reg.HOST_RING_CFG_n.VEC 3)) (wStopped.dev.channelOf 3) = false
      ∧ wPend.dev.vecOpen 0 3 = true)
    ∧ (wStopped.dev.get (Reg.HOST_RING_COAL_n.COAL_US 3) ≠ 0 ∧ (wStopped.dev.ringSt 3).unsig ≠ 0
      ∧ wStopped.dev.get (Reg.HOST_RING_COAL_n.COAL_US 3) * 1000 ≤ (wStopped.now 1000).since (wStopped.dev.ringSt 3).oldest)
    ∧ ((wStopped.now 5).accepts 0 wRingReset 0x10 = true ∧ wStopped.dev.on (Reg.HOST_RING_CFG_n.EN (wRingReset.f 4 0 5)) = true
      ∧ wStopped.dev.get (Reg.HOST_RING_CFG_n.KIND (wRingReset.f 4 0 5)) ≠ 0 ∧ wStopped.dev.on (Reg.HOST_RING_STAT_n.STOPPED (wRingReset.f 4 0 5)) = true)
    ∧ (bitOf 1 0 = true ∧ (wCmd .hold (·.put (Reg.HOST_RING_STAT_n.STOPPED 0) 1)).dev.on (Reg.HOST_RING_STAT_n.STOPPED 0) = true
      ∧ (wCmd .hold id).dev.mode.served = true ∧ (wCmd .hold id).dev.get (Reg.HOST_RING_CFG_n.KIND 0) = 0 ∧ (wCmd .hold id).dev.mode ≠ .run) := by decide +kernel

/-- A list on channel 13 whose program reads 8 bytes from host memory to address 0x40, at its read, and at its store. -/
def wRun (got : Bool) : XferRun :=
  ⟨none, 0, 0, some [0, 0, 0, 0x40, 0, 0, 0, 8], 1, if got then [] else [⟨0, 0, 8, 0, 50000⟩], if got then [(0, [1, 2, 3, 4, 5, 6, 7, 8])] else [],
    got, false, none⟩
def wXfer (got : Bool) : State := inMode .ready fun d => d.modChan 13 fun c => { c with run := some (wRun got), expired := 1 }
/-- The fields of a transfer descriptor have been written and wait for their response; its word 0 comes next. -/
def wWr (sent last : Bool) : Wr := ⟨13, 0, 0, 0x1000, [0, 0, 0, 0], false, if last then .last false else .fields, sent⟩
def wWrites : State := inMode .ready fun d => { d with host := { d.host with writes := [wWr true false, wWr false true] } }

theorem witness_TransferListsRun_order :
    (wWrites.dev.mode.served = true ∧ wWrites.dev.canRequest = true ∧ wWrites.dev.chStopped 13 = false
      ∧ wWrites.dev.host.writes.filter (fun x => x.ch == 13) = [wWr true false, wWr false true] ∧ (wWr true false).sent = true
      ∧ (wWr false true).sent = false ∧ (wWr false true).kind = .last false ∧ (wWr true false).kind.isData = false
      ∧ (∀ c < 16, wWrites.dev.writeReady c = false))
    ∧ nextWr 13 true [wWr false false, wWr false true] = some (wWr false false) ∧ grant (fun c => c == 0 || c == 13) = some 0 := by decide +kernel

def wList : Desc := param 0x2001 [0x1000, 0, 1, 0] 0

theorem witness_TransferListsRun :
    (((wCmd .ready id).now 5).acceptsParam 0 wList 0x2001 allServed true = true ∧ valueExtra wList [0xFFFFFFFF, 0xFFFFFFFF, 1, 0] = none
      ∧ atFrame wList = false ∧ wList.w 6 % 64 = 0 ∧ (wCmd .ready id).dev.dma.chans.length = 16
      ∧ ((wCmd .ready id).dev.chan (13 + wList.f 8 0 1)).run = none ∧ ((wCmd .ready id).dev.chan (13 + wList.f 8 0 1)).stale = []
      ∧ (wCmd .ready id).dev.chFailing (13 + wList.f 8 0 1) = false ∧ (wCmd .ready id).dev.freeTags (13 + wList.f 8 0 1) ≠ 0)
    ∧ ((wXfer false).dev.mode.served = true ∧ (wXfer false).dev.dma.chans.length = 16 ∧ ((wXfer false).dev.chan 13).stale = []
      ∧ ((wXfer false).dev.chan 13).run = some (wRun false) ∧ (wRun false).open_.find? (fun b => b.k == 0) = some ⟨0, 0, 8, 0, 50000⟩
      ∧ (wRun false).words = some [0, 0, 0, 0x40, 0, 0, 0, 8] ∧ xferOut [0, 0, 0, 0x40, 0, 0, 0, 8] = false ∧ (wRun false).storing = false
      ∧ (wBytes [1, 2, 3, 4, 5, 6, 7, 8]).length = 8 ∧ (wRun false).words.all (fun w => !xferOut w) = true
      ∧ (50000 ≤ ((wXfer false).now 50000).since 0 ∧ (wRun false).open_ = [⟨0, 0, 8, 0, 50000⟩] ∧ (wXfer false).dev.host.writes = []) ∧ ((wXfer false).dev.chan 13).expired ≠ 0)
    ∧ (memWf (wXfer true).mem = true ∧ (wXfer true).dev.mode.served = true ∧ ((wXfer true).dev.chan 13).run = some (wRun true) ∧ (wRun true).storing = true
      ∧ (wXfer true).dev.host.writes = [] ∧ (wRun true).backing = none
      ∧ ((wRun true).got.map fun g => (g.1, g.2.length)).Pairwise (fun a b => a.1 * 8 + a.2 ≤ b.1 * 8 ∨ b.1 * 8 + b.2 ≤ a.1 * 8)) := by
  decide +kernel

/-! ### Register writes and jobs -/

theorem witness_RegisterWritesInSetup :
    ((inMode .setup id).dev.mode = .setup ∧ (inMode .setup id).dev.svc.checking = false ∧ (inMode .setup id).dev.clk.asyncHold = false
      ∧ (regAt 0xFFFFC).isSome = false ∧ (regAt 0x60000).isSome = true ∧ ownRow 0x60000 = false
      ∧ [0x70000, 0x70004, 0x40030, 0x40040, 0x40050, 0x60080, 0x90804].contains 0x60000 = false)
    ∧ ((inMode .safe id).dev.mode ≠ .off ∧ ¬(4 = 4 ∧ 2 % 4 = 0) ∧ readOk 12 8 = false ∧ readOk 8 8 = true
      ∧ (inMode .setup id).dev.bar0Dead = false ∧ (inMode .setup fun d => { d with clk := { d.clk with asyncHold := true } }).dev.bar0Dead = true
      ∧ (inMode .setup id).dev.svc.configOk = true ∧ (inMode .setup id).dev.configWord 2 0 = some 0x02621F3C ∧ State.reset.dev.svc.configOk = false)
    ∧ (∀ n < 16, 0x60000 ≠ (Reg.LINK_CFG_n.EN n).off) ∧ bitOf 1 (Reg.LINK_CFG_n.EN 2).lo = true := by decide +kernel

theorem witness_LockedWrites :
    (inMode .hold id).dev.mode.printing = true ∧ (inMode .hold id).dev.clk.asyncHold = false ∧ ownRow 0x60000 = false
    ∧ (regAt 0x60000).map (fun r => (r.fields.any fun f => f.acc == .lk) && (r.fields.all fun f => f.acc == .lk || f.acc == .ro)) = some true := by
  decide +kernel

/-- A job of one channel at one bit, 16 lines a frame, its records on ring 2. -/
def wJob (tag : Nat) (p : JobPhase) : Job := ⟨tag, p, 1, 0, 2, 16, 0, 1, 1, 0, 0, 0, 0, 0, none, none, 0, 0, 0, [], 0⟩

/-- Command ring 0 with a descriptor, Record ring 2, and jobs. -/
def wJobs (m : Mode) (js : List Job) : State := wCmd m fun d => { withRing 2 2 d with jobs := js }

def wOpen : Desc := desc 0x01 [0, 0, 0, 3 + 2 * 65536, 16, 0, 0, 0, 0, 0, 0, 0]
def wSplice : Desc := desc 0x05 [0, 0, 0, 4096, 0, 2]
def wClose (tag frame : Nat) : Desc := desc 0x06 [0, 0, 0, tag, frame]
def wWait : State := { wJobs .run [wJob 1 .live] with dev := { (wJobs .run [wJob 1 .live]).dev with twl := { Dev.reset.twl with pending := 1 } } }
def wMove : State := { wJobs .run [wJob 7 .opened] with dev := { (wJobs .run [wJob 7 .opened]).dev with linen := { Dev.reset.linen with v := 1 } } }
def wTwo : State := wJobs .run [wJob 1 .live, wJob 2 .staged]

theorem witness_JobsOpenSpliceAndClose :
    (((wJobs .ready []).now 5).accepts 0 wOpen 0x01 = true ∧ (wJobs .ready []).dev.jobOpenCheck wOpen = none
      ∧ (wJobs .ready []).dev.live?.isSome = false ∧ ((wJobs .ready []).dev.duplexed && (wJobs .ready []).dev.duplex == .syncing) = false)
    ∧ ((wWait.now 5).accepts 0 wOpen 0x01 = true ∧ wWait.dev.live?.isSome = true ∧ wWait.dev.jobOpenCheck wOpen = none ∧ wWait.dev.twl.pending ≠ 0)
    ∧ ((wTwo.now 5).accepts 0 wSplice 0x05 = true ∧ wTwo.dev.alone = true ∧ wTwo.dev.on Reg.REC_RPL_CFG.EN = false ∧ wTwo.dev.live? = some (wJob 1 .live)
      ∧ wTwo.dev.job? (wSplice.f 6 0 8) = some (wJob 2 .staged) ∧ (wTwo.dev.jobs.any fun o => o.spliceAt.isSome) = false
      ∧ fieldOf 48 (((wSplice.w 4 + 2 ^ 32 * wSplice.f 5 0 16 : Nat) : Int) - 0) % (256 * (wJob 1 .live).repeat_) = 0
      ∧ fieldOf 48 (((wSplice.w 4 + 2 ^ 32 * wSplice.f 5 0 16 : Nat) : Int) - 0) / (256 * (wJob 1 .live).repeat_) ≠ 0
      ∧ wTwo.dev.dmk.front = none ∧ wTwo.dev.passed 4096 = false ∧ ((wTwo.now 5).schedule 0 ⟨4096, .splice 2, .line⟩).isSome = true)
    ∧ ((wMove.now 5).accepts 0 (wClose 7 0) 0x06 = true ∧ wMove.dev.alone = true ∧ wMove.dev.job? ((wClose 7 0).f 4 0 8) = some (wJob 7 .opened)
      ∧ wMove.dev.linen.v ≠ 0)
    ∧ (((wJobs .run [wJob 7 .ending]).now 5).accepts 0 (wClose 7 0) 0x06 = true
      ∧ (wJobs .run [wJob 7 .ending]).dev.job? ((wClose 7 0).f 4 0 8) = some (wJob 7 .ending))
    ∧ ((wTwo.now 5).accepts 0 (wClose 1 4) 0x06 = true ∧ (wClose 1 4).w 5 ≠ 0xFFFFFFFF ∧ wTwo.dev.passed ((wJob 1 .live).frameStart ((wClose 1 4).w 5 + 1)) = false
      ∧ (wJob 1 .live).frames = 0 ∧ (wJob 1 .live).endFrame = none) := by decide +kernel

/-- Content ring 1 with a descriptor, and job 1 open. -/
def wContent : State := inMode .ready fun d => { withRing 1 1 d with jobs := [wJob 1 .opened] }
def wEnd : List Nat := 4 :: List.replicate 15 0
def wPut : Desc := desc 0x20 [0, 0, 16, 1 + 256 * 9, 3]
def wTicket (op : Nat) : Ticket := ⟨0, 0, op, 0, 0, 1, 0, 0, 0⟩
def wStaging (begun : Bool) : State :=
  inMode .ready fun d => { d with jobs := [wJob 1 .opened], cal := { d.cal with staging := [⟨wTicket 0x04, 1, [0, 0, 0, 0], begun, []⟩] } }
/-- Stream 1 of job 1 is its END block alone, and context 0 decodes it. -/
def wEndBlock : List Nat := 4 :: (List.replicate 7 0 ++ leBytes 4 (endCheck 65537 0 crcStart 0) ++ List.replicate 4 0)
def wDecoding : State :=
  { wStaging true with dev := { (wStaging true).dev with cal := { (wStaging true).dev.cal with
    ctxs := .decode (Dec.start 65537) :: List.replicate 15 .free, streams := [⟨1, 1, [⟨wEndBlock, 1⟩], true⟩] } } }
/-- Its decode waits in save slot 3, whose state record has its check. -/
def wSaved : State :=
  { inMode .ready (fun d => { d with cal := { d.cal with saved := [⟨3, Dec.start 65537⟩] } }) with
    mem := memPut [] 0x3FFF700FC (wBytes (leBytes 4 1743147809)) }
def wComp : State := inMode .run fun d => { d with cal := { d.cal with comps := [⟨0, 1, 0, [1, 2], 0, 0, 2, [2, 1], 2, false, false, [], false⟩] } }

theorem witness_ContentIsStagedOnce :
    ((wContent.now 5).accepts 1 wPut 0x20 = true ∧ 16 ≤ wPut.len ∧ wPut.len ≤ 16777216 ∧ (wContent.dev.job? (wPut.f 4 0 8)).isSome = true
      ∧ wContent.dev.bufferFits (wPut.f 4 0 8) (wPut.f 4 8 16) (bitOf (wPut.w 5) 0) = true ∧ (wBytes wEnd).length = wPut.len
      ∧ headerWalk ((wBytes wEnd).length / 16 + 1) (natBytes (wBytes wEnd)) (bitOf (wPut.w 5) 1) = none
      ∧ wContent.dev.csPages + cdiv wPut.len 65536 ≤ wContent.dev.get Reg.PIPE_DMK_CS_SIZE.MIB * 16)
    ∧ (((wJobs .ready [wJob 7 .opened]).now 5).accepts 0 (desc 0x04 [0, 0, 0, 7]) 0x04 = true
      ∧ [5, 6, 7, 8].all (fun i => (desc 0x04 [0, 0, 0, 7]).w i == 0) = true
      ∧ (wJobs .ready [wJob 7 .opened]).dev.job? ((desc 0x04 [0, 0, 0, 7]).f 4 0 8) = some (wJob 7 .opened)
      ∧ ((wJobs .ready [wJob 7 .opened]).dev.cal.staging.any fun g => g.tag == 7) = false)
    ∧ (((wStaging false).dev.cal.staging.find? fun g => g.tag == 1) = some ⟨wTicket 0x04, 1, [0, 0, 0, 0], false, []⟩ ∧ (wStaging false).dev.mode.served = true
      ∧ ([0, 0, 0, 0].all fun w => (wStaging false).dev.waitMet w) = true ∧ ((wStaging false).dev.streamsOf 1).all (fun s => s.last) = true)
    ∧ ((wDecoding.dev.cal.staging.find? fun g => g.tag == 1) = some ⟨wTicket 0x04, 1, [0, 0, 0, 0], true, []⟩ ∧ wDecoding.dev.decodeHeld = false
      ∧ wDecoding.dev.ctx 0 = .decode (Dec.start 65537) ∧ 65537 / 65536 = 1 ∧ (wDecoding.dev.decodeOut (Dec.start 65537)).isOk = true)
    ∧ (((wStaging true).dev.cal.staging.find? fun g => g.tag == 1) = some ⟨wTicket 0x04, 1, [0, 0, 0, 0], true, []⟩ ∧ (wStaging true).dev.alone = true
      ∧ (wStaging true).dev.decodeHeld = false ∧ ((wStaging true).dev.cal.saved.any fun v => v.dec.ident / 65536 == 1) = false
      ∧ ((wStaging true).dev.cal.saved != [] && (wStaging true).dev.unstarted.any fun i => i / 65536 == 1) = false ∧ (wStaging true).dev.job? 1 = some (wJob 1 .opened)
      ∧ (wStaging true).dev.stageFailures 1 ((((wStaging true).dev.streamsOf 1).filter (·.last)).map fun z =>
        (z.id, (wStaging true).dev.stagedOf 1 z.id ((wStaging true).dev.decodeStream ⟨wTicket 0x04, 1, [0, 0, 0, 0], true, []⟩ (65536 + z.id)))) = []
      ∧ ((wStaging true).dev.twlOf (wJob 1 .opened)).lacks 1 = none)
    ∧ (wSaved.dev.cal.saved = [⟨3, Dec.start 65537⟩] ∧ wSaved.dev.cal.ctxs.length = 16 ∧ wSaved.dev.ctx 15 = .free ∧ wSaved.dev.decodeHeld = false
      ∧ wSaved.dev.isBad (wSaved.dev.slotDatum 3) = false)
    ∧ ((wComp.dev.comp? 1).any (fun c => c.block != [] && !c.ended && decide (wComp.dev.get Reg.PIPE_CAL_CFG.FLUSH_US * 1000 ≤ (wComp.now 100000000).since c.firstAt)) = true
      ∧ 1 ≠ capDest ∧ (wComp.dev.openBuf? (wComp.dev.get (Reg.CAM_CFG_n.IMG_RING 1))).isNone = true) := by decide +kernel

/-! ### Tables -/

/-- A TABLE_LOAD of data to a kind, an instance, a job and an offset, with its CRC. -/
def load (kind inst tag ofs : Nat) (bs : List Nat) : Desc := desc 0x03 [0, 0, bs.length, kind + 256 * inst + 65536 * tag, ofs, crc32c bs]

def zeros (n : Nat) : List Nat := List.replicate n 0

def wKnots : List Nat := leBytes 8 0 ++ leBytes 2 4095 ++ leBytes 6 7
def wMatrix : Matrix := ⟨1, 1, 0, 0, [5]⟩

theorem witness_JobTablesAreLoaded :
    let s := wJobs .run [wJob 7 .opened]
    let arrives (kind ofs : Nat) (bs : List Nat) : Bool :=
      s.dev.jobLoads (load kind 0 7 ofs bs) (wJob 7 .opened) && (s.now 5).tableArrives 0 (load kind 0 7 ofs bs) kind (wBytes bs)
    (arrives 2 4092 (zeros 8) = true ∧ 4092 + 8 / 2 ≤ 4096)
    ∧ (arrives 2 0x80000000 wKnots = true ∧ knotBad (natBytes (wBytes wKnots)) = none ∧ wKnots.length = 16)
    ∧ (arrives 3 0 (matrixBytes wMatrix) = true ∧ natBytes (wBytes (matrixBytes wMatrix)) = matrixBytes wMatrix ∧ wMatrix.entries.length = wMatrix.mw * wMatrix.mh
      ∧ ∀ e ∈ wMatrix.entries, e < 61440)
    ∧ (arrives 4 14 (zeros 64) = true ∧ ((List.range 1).all fun i => (rampBad (wJob 7 .opened).levels (14 + i) (((natBytes (wBytes (zeros 64))).drop (64 * i)).take 64)).isNone
        && leAt (natBytes (wBytes (zeros 64))) (64 * i + 60) 4 == 0) = true)
    ∧ (arrives 5 0 (zeros 40) = true ∧ kernelBad 1 (natBytes (wBytes (zeros 40))) = none)
    ∧ (arrives 6 0 (zeros 64) = true ∧ levelsBad (wJob 7 .opened).levels (natBytes (wBytes (zeros 64))) = none) := by
  decide +kernel

/-- A layout of width 8 with one blank vector layer; a glyph set of one blank glyph, none mapped; a record without fields. -/
def wLayout : List Nat := leBytes 4 8 ++ [1, 0] ++ zeros 58 ++ [1] ++ zeros 63
def wGlyphs : List Nat := [1, 0, 1] ++ zeros 13 ++ List.replicate 512 255 ++ zeros 16 ++ zeros 8
def wRecords : State := inMode .run fun d => { withRing 2 2 d with jobs := [wJob 7 .staged], dmk := { d.dmk with layouts := [⟨7, 1, wLayout⟩] } }
def wLay : Desc := desc 0x02 [0, 0, 128, 7 + 256, crc32c wLayout]
def wRec : Desc := desc 0x28 [0, 0, 2, 7 + 256, 0, crc32c [0, 0]]

/-- A CRC goes on from where it stands. -/
theorem crcRun_append (c : CrcCode) (r : Nat) (a b : List Nat) : crcRun c r (a ++ b) = crcRun c (crcRun c r a) b := by
  simp [crcRun, List.foldl_append]

theorem crc_zeros_512 : crc32c (zeros 512) = 821882304 := by
  have a : zeros 512 = zeros 128 ++ (zeros 128 ++ (zeros 128 ++ zeros 128)) := by decide +kernel
  unfold crc32c
  rw [a, crcRun_append, crcRun_append, crcRun_append,
    show crcRun (crcCode 0) (crcCode 0).init (zeros 128) = 4158167844 from by decide +kernel,
    show crcRun (crcCode 0) 4158167844 (zeros 128) = 1200442991 from by decide +kernel,
    show crcRun (crcCode 0) 1200442991 (zeros 128) = 1158271177 from by decide +kernel,
    show crcRun (crcCode 0) 1158271177 (zeros 128) = 3473084991 from by decide +kernel]
  decide +kernel

/-- The state record in the slot of `wSaved` has its check. -/
theorem witness_ContentIsStagedOnce_record :
    recordOk (natBytes (memGet wSaved.stored (wSaved.dev.slotAddr 3 + 0x10000) 256)) = true := by
  have m : natBytes (memGet wSaved.stored (wSaved.dev.slotAddr 3 + 0x10000) 256) = zeros 252 ++ leBytes 4 1743147809 := by decide +kernel
  have a : (zeros 252 ++ leBytes 4 1743147809).take 252 = zeros 128 ++ zeros 124 := by decide +kernel
  unfold recordOk crc32c
  rw [m, a, crcRun_append, show crcRun (crcCode 0) (crcCode 0).init (zeros 128) = 4158167844 from by decide +kernel]
  decide +kernel

theorem crc_zeros_576 : crc32c (zeros 576) = 3326497684 := by
  have a : zeros 576 = zeros 128 ++ (zeros 128 ++ (zeros 128 ++ (zeros 128 ++ zeros 64))) := by decide +kernel
  unfold crc32c
  rw [a, crcRun_append, crcRun_append, crcRun_append, crcRun_append,
    show crcRun (crcCode 0) (crcCode 0).init (zeros 128) = 4158167844 from by decide +kernel,
    show crcRun (crcCode 0) 4158167844 (zeros 128) = 1200442991 from by decide +kernel,
    show crcRun (crcCode 0) 1200442991 (zeros 128) = 1158271177 from by decide +kernel,
    show crcRun (crcCode 0) 1158271177 (zeros 128) = 3473084991 from by decide +kernel,
    show crcRun (crcCode 0) 3473084991 (zeros 64) = 968469611 from by decide +kernel]
  decide +kernel

theorem crc_wGlyphs : crc32c wGlyphs = 694923352 := by
  have a : wGlyphs = (1 :: 0 :: 1 :: zeros 13) ++ (List.replicate 128 255 ++ (List.replicate 128 255 ++ (List.replicate 128 255 ++ (List.replicate 128 255 ++ zeros 24)))) := by
    decide +kernel
  unfold crc32c
  rw [a, crcRun_append, crcRun_append, crcRun_append, crcRun_append, crcRun_append,
    show crcRun (crcCode 0) (crcCode 0).init (1 :: 0 :: 1 :: zeros 13) = 461651373 from by decide +kernel,
    show crcRun (crcCode 0) 461651373 (List.replicate 128 255) = 687143725 from by decide +kernel,
    show crcRun (crcCode 0) 687143725 (List.replicate 128 255) = 1402399912 from by decide +kernel,
    show crcRun (crcCode 0) 1402399912 (List.replicate 128 255) = 1915443471 from by decide +kernel,
    show crcRun (crcCode 0) 1915443471 (List.replicate 128 255) = 1324636196 from by decide +kernel,
    show crcRun (crcCode 0) 1324636196 (zeros 24) = 3600043943 from by decide +kernel]
  decide +kernel

/-- A TABLE_LOAD whose CRC is given. -/
def loadCrc (kind inst tag ofs len crc : Nat) : Desc := desc 0x03 [0, 0, len, kind + 256 * inst + 65536 * tag, ofs, crc]

/-- Data whose CRC is known arrive. -/
theorem arrives_of (d : Dev) (kind inst tag ofs crc : Nat) (bs : List Nat) (n : natBytes (wBytes bs) = bs) (c : crc32c bs = crc)
    (h : (d.accepts 0 (loadCrc kind inst tag ofs bs.length crc) 0x03 && (tlKind (loadCrc kind inst tag ofs bs.length crc) == kind)
      && decide ((loadCrc kind inst tag ofs bs.length crc).len % 8 = 0) && decide (8 ≤ (loadCrc kind inst tag ofs bs.length crc).len)
      && decide ((loadCrc kind inst tag ofs bs.length crc).len ≤ 16777216) && (bs.length == (loadCrc kind inst tag ofs bs.length crc).len)
      && (crc == (loadCrc kind inst tag ofs bs.length crc).w 6)) = true) :
    d.tableArrives 0 (loadCrc kind inst tag ofs bs.length crc) kind (wBytes bs) = true := by
  unfold Dev.tableArrives
  rw [n, c, show (wBytes bs).length = bs.length from List.length_map _]
  exact h

theorem witness_LayoutsGlyphsAndRecordsAreLoaded :
    (((wJobs .ready [wJob 7 .opened]).now 5).accepts 0 wLay 0x02 = true ∧ (wJobs .ready [wJob 7 .opened]).dev.job? (wLay.f 4 0 8) = some (wJob 7 .opened)
      ∧ (wBytes wLayout).length = wLay.len ∧ crc32c (natBytes (wBytes wLayout)) = wLay.w 5
      ∧ (wJobs .ready [wJob 7 .opened]).dev.layoutFault (wJob 7 .opened) (natBytes (wBytes wLayout)) = none)
    ∧ ((wRecords.now 5).accepts 2 wRec 0x28 = true ∧ wRecords.dev.dmk.records.length < 2048 ∧ wRecords.dev.job? (wRec.f 4 0 8) = some (wJob 7 .staged)
      ∧ wRecords.dev.alone = true ∧ wRecords.dev.layout? (wRec.f 4 0 8) (wRec.f 4 8 4) = some ⟨7, 1, wLayout⟩ ∧ wRec.w 5 = (wJob 7 .staged).nextRecord
      ∧ (wBytes [0, 0]).length = wRec.len ∧ crc32c (natBytes (wBytes [0, 0])) = wRec.w 6
      ∧ recordBad (wJob 7 .staged) wLayout ((wRecords.dev.glyphs? 7).map (·.bytes)) (natBytes (wBytes [0, 0])) = none) := by
  decide +kernel

theorem witness_LayoutsGlyphsAndRecordsAreLoaded_glyphs :
    ((wJobs .ready [wJob 7 .opened]).now 5).tableArrives 0 (loadCrc 0x0A 0 7 0 wGlyphs.length 694923352) 0x0A (wBytes wGlyphs) = true
      ∧ glyphsBad (natBytes (wBytes wGlyphs)) = none :=
  ⟨arrives_of _ _ _ _ _ _ _ (by decide +kernel) crc_wGlyphs (by decide +kernel), by decide +kernel⟩

/-- A nozzle table and stitch set of which no entry is in use, all entries 0, break no rule. -/
theorem nozzlesBad_unused (d : Dev) (nz : List (Nat × Nat)) (st : List (Nat × Stitch)) (u : ∀ i, d.entryUsed st i = false)
    (z : ∀ i, (kvGet nz i).getD 0 = 0) : d.nozzlesBad nz st = none := by
  simp [Dev.nozzlesBad, Dev.entryBad, u, z]

/-- A live job, a nozzle table of width 0. -/
def wNarrow : State := wCmd .run fun d => { d.put Reg.PIPE_GZ_NTW.NT_W 0 with jobs := [wJob 7 .live] }

theorem entryUsed_narrow (st : List (Nat × Stitch)) (h : ∀ x ∈ st, x.2.type ≠ 1) (i : Nat) : wNarrow.dev.entryUsed st i = false := by
  unfold Dev.entryUsed
  split
  · have w : wNarrow.dev.ntW = 0 := by decide +kernel
    simp [w]
  · dsimp only
    split
    · rename_i x e
      have : ∀ l : List (Nat × Stitch), kvGet l (shadowOf i).1 = some x → ∃ k, (k, x) ∈ l := by
        intro l; induction l with
        | nil => intro h; simp [kvGet] at h
        | cons p t ih =>
          intro h
          unfold kvGet at h
          split at h
          · cases h; exact ⟨_, List.mem_cons_self⟩
          · obtain ⟨k, m⟩ := ih h; exact ⟨k, List.mem_cons_of_mem _ m⟩
      obtain ⟨k, m⟩ := this st e
      simp [h _ m]
    · rfl

theorem witness_DeviceTablesAreLoaded_nozzles :
    wNarrow.dev.live?.isSome = true ∧ (wNarrow.now 5).tableArrives 0 (load 1 0 0 264191 (zeros 8)) 1 (wBytes (zeros 8)) = true
    ∧ wNarrow.dev.nozzlesBad ((List.range 1).foldl (fun (b : GzBank) i => b.setEntry (264191 + i) (leAt (natBytes (wBytes (zeros 8))) (8 * i) 8))
        (wNarrow.dev.gzIdle 0)).nozzles wNarrow.dev.nextStitches.stitches = none := by
  refine ⟨by decide +kernel, by decide +kernel, nozzlesBad_unused _ _ _ (entryUsed_narrow _ (by decide +kernel)) ?_⟩
  have e : ((List.range 1).foldl (fun (b : GzBank) i => b.setEntry (264191 + i) (leAt (natBytes (wBytes (zeros 8))) (8 * i) 8)) (wNarrow.dev.gzIdle 0)).nozzles = [] := by
    decide +kernel
  intro i
  rw [e]
  rfl

theorem witness_DeviceTablesAreLoaded_stitches :
    (wNarrow.now 5).tableArrives 0 (loadCrc 7 15 0 0 (zeros 576).length 3326497684) 7 (wBytes (zeros 576)) = true
    ∧ wNarrow.dev.stitchBad 15 (natBytes (wBytes (zeros 576))) (wNarrow.dev.gzIdle 1).stitches = none
    ∧ wNarrow.dev.nozzlesBad wNarrow.dev.nextNozzles.nozzles (kvPut (wNarrow.dev.gzIdle 1).stitches 15 (stitchOf (natBytes (wBytes (zeros 576))))) = none := by
  refine ⟨arrives_of _ _ _ _ _ _ _ (by decide +kernel) crc_zeros_576 (by decide +kernel), by decide +kernel, nozzlesBad_unused _ _ _ (entryUsed_narrow _ (by decide +kernel)) ?_⟩
  intro i
  rw [show wNarrow.dev.nextNozzles.nozzles = [] from by decide +kernel]
  rfl

theorem witness_DeviceTablesAreLoaded_align :
    (wNarrow.now 5).tableArrives 0 (loadCrc 11 0 0 0 (zeros 512).length 821882304) 11 (wBytes (zeros 512)) = true :=
  arrives_of _ _ _ _ _ _ _ (by decide +kernel) crc_zeros_512 (by decide +kernel)

def wCam : CamTable := ⟨false, false, 256, [0, -1]⟩
def wPolicy : List Nat := zeros 8 ++ [1] ++ zeros 5 ++ [1] ++ zeros 49

theorem witness_DeviceTablesAreLoaded :
    ((List.range 64).all fun n => alignRange (signedOf 32 (leAt (natBytes (wBytes (zeros 512))) (8 * n) 4)) (signedOf 16 (leAt (natBytes (wBytes (zeros 512))) (8 * n + 4) 2))
          && leAt (natBytes (wBytes (zeros 512))) (8 * n + 6) 2 == 0) = true
    ∧ ((wNarrow.now 5).tableArrives 0 (load 9 0x23 0 0 wPolicy) 9 (wBytes wPolicy) = true ∧ policyBad 0x23 (natBytes (wBytes wPolicy)) = none
      ∧ policyBad 0x20 (zeros 64) = none)
    ∧ (((wJobs .run [wJob 7 .live]).now 5).acceptsParam 0 (param 0xB3F0 [0, 0x218, 0, 0] 0) 0xB3F0 readyRunHold true = true
      ∧ valueExtra (param 0xB3F0 [0, 0x218, 0, 0] 0) [0x7FFFF, 0x7FF, 0x1FFFF, 0] = none
      ∧ (wJobs .run [wJob 7 .live]).dev.entryUsed (wJobs .run [wJob 7 .live]).dev.nextStitches.stitches 0 = true ∧ bitOf 0x218 9 = true ∧ bitOf 0x218 4 = true
      ∧ bitOf 0x218 3 = true)
    ∧ ((wNarrow.now 5).acceptsParam 0 (param 0xB310 [1000, 0, 0, 0] 0) 0xB310 allServed false = true ∧ gzRegOk 0xB0310 1000 = true ∧ gzRegOk 0xB0310 1001 = false)
    ∧ ((wNarrow.now 5).acceptsParam 0 (param 0xA080 [0x100, 0, 0, 0] 7) 0xA080 allServed false = true ∧ gzRegOk 0xA0080 0x100 = true)
    ∧ ((wNarrow.now 5).tableArrives 0 (load 8 15 0 0 (camTableBytes wCam)) 8 (wBytes (camTableBytes wCam)) = true ∧ wNarrow.dev.camInUse 15 = false
      ∧ natBytes (wBytes (camTableBytes wCam)) = camTableBytes wCam ∧ camBad (camTableBytes wCam) = false ∧ (camTableBytes wCam).length = 16 + 8 * wCam.ys.length
      ∧ ∀ y ∈ wCam.ys, -(2 ^ 63) ≤ y ∧ y < 2 ^ 63) := by decide +kernel

/-! ### The recorder, capture and replay -/

/-- The first area of the recorder is full; CEs of macro 7 have been counted. -/
def wFull : State := wCmd .hold fun d => { d.put Reg.REC_STAT.FIRST_FULL 1 with ecc := { d.ecc with ceCount := [(7, 3)] } }

theorem witness_RecorderCommands :
    ((wFull.now 5).acceptsParam 0 (param 0xE001 [1, 2, 3, 4] 0) 0xE001 allServed true = true ∧ wFull.dev.svc.filled = true
      ∧ wFull.dev.on Reg.REC_STAT.FIRST_FULL = true ∧ wFull.dev.get Reg.REC_LAST_HEAD.HEAD + 24 ≤ 0x100000)
    ∧ (wFull.dev.mode.served = true ∧ (inMode .safe id).dev.mode = .safe)
    ∧ (wFull.dev.mode ≠ .off ∧ 5472 ≤ 5472 ∧ 5487 < 5488)
    ∧ (wFull.dev.mode ≠ .off ∧ 7 < 5120 ∧ kvGet wFull.dev.ecc.ceCount 7 = some 3) := by decide +kernel

/-- Command ring 0, Capture ring 4, Image ring 5; a capture in a phase, its compressor with a block ready or not, its open descriptors. -/
def wCapture (m : Mode) (p : CapPhase) (js : List Job) (ready : List (List Nat × Bool × Bool)) (bufs : List OpenBuf) (f : Dev → Dev) : State :=
  wCmd m fun d => f { withRing 5 5 (withRing 4 4 d) with
    jobs := js
    recd := { d.recd with cap := p, capRing := 4 }
    cal := { d.cal with open_ := bufs, comps := [⟨0, capDest, 0, [], 0, 0, 0, [], 0, false, false, ready, false⟩] } }
def wBlock : List (List Nat × Bool × Bool) := [([1, 2], false, false)]
def wIdle (m : Mode) (js : List Job) (f : Dev → Dev) : State := wCmd m fun d => f { withRing 5 5 (withRing 4 4 d) with jobs := js }
def wCapOn : Desc := desc 0x0D [0, 0, 0, 0, 4]
def wCapBuf : Desc := desc 0x48 [0x10000, 0, 0x10000]
def wImgBuf : Desc := desc 0x50 [0x10000, 0, 0x10000]
def wFilled : OpenBuf := ⟨4, 0, 0x48, 0, 0x10000, 16, false, 0, false, none⟩
def wGo : Desc := param 0xE002 [0x80000000, 0, 0, 0] 0

theorem witness_CaptureStartsAndEnds :
    (((wIdle .run [wJob 1 .live] id).now 5).accepts 0 wCapOn 0x0D = true ∧ (wIdle .run [wJob 1 .live] id).dev.recd.cap = .idle
      ∧ (wIdle .run [wJob 1 .live] id).dev.on Reg.REC_RPL_CFG.EN = false
      ∧ (wIdle .run [wJob 1 .live] id).dev.on (Reg.HOST_RING_CFG_n.EN (wCapOn.f 5 0 5)) = true
      ∧ (wIdle .run [wJob 1 .live] id).dev.get (Reg.HOST_RING_CFG_n.KIND (wCapOn.f 5 0 5)) = 4
      ∧ (wIdle .run [wJob 1 .live] id).dev.live?.isSome = true ∧ (wIdle .ready [] id).dev.live? = none
      ∧ ((wIdle .ready [] id).now 5).accepts 0 wCapOn 0x0D = true ∧ (wIdle .ready [] id).dev.comp? capDest = none
      ∧ (wIdle .run [wJob 1 .live] id).dev.cal.ctxs.length = 16 ∧ (wIdle .run [wJob 1 .live] id).dev.ctx 15 = .free)
    ∧ (((wCapture .ready .running [] wBlock [] id).now 5).accepts 0 (desc 0x0E []) 0x0E = true
      ∧ (wCapture .ready .running [] wBlock [] id).dev.recd.cap = .running
      ∧ (wCapture .ready .running [] wBlock [] id).dev.comp? capDest = some ⟨0, capDest, 0, [], 0, 0, 0, [], 0, false, false, wBlock, false⟩
      ∧ ((wCapture .ready .running [] wBlock [] id).dev.openBuf? (wCapture .ready .running [] wBlock [] id).dev.recd.capRing).isNone = true)
    ∧ ((wIdle .ready [] id).dev.on Reg.REC_RPL_CFG.EN = false ∧ ((wIdle .ready [] id).now 5).bufArrives 4 wCapBuf 4 0x48 = true
      ∧ (wIdle .ready [] id).dev.comp? capDest = none)
    ∧ (((wIdle .ready [] id).now 5).bufArrives 5 wImgBuf 5 0x50 = true ∧ (wIdle .ready [] id).dev.comp? 0 = none ∧ (wIdle .ready [] id).dev.comp? 1 = none)
    ∧ (let s := wCapture .ready .running [] [] [wFilled] id;
      (s.dev.cal.open_.filter fun b => b.ring == s.dev.recd.capRing) = [wFilled] ∧ s.dev.recd.capRing < 32 ∧ (s.dev.comp? capDest).isSome = true
      ∧ wFilled.filled ≠ 0 ∧ wFilled.poison = false ∧ s.dev.get Reg.REC_CFG.DESC_MS * 1000000 ≤ (s.now (2 ^ 40)).since wFilled.firstAt
      ∧ s.dev.recd.cap = .running ∧ s.dev.recd.capBuf = [] ∧ wFilled.closed = none ∧ s.dev.bufWritten wFilled = true
      ∧ (wCapture .ready .running [] [] [wFilled] fun d => { d with
          host := { d.host with writes := [⟨8, 4, 0, 0, [], false, .data 0, true⟩] } }).dev.bufWritten wFilled = false
      ∧ ∀ c, s.dev.comp? capDest = some c → c.ready = [] ∧ c.ended = false)
    ∧ (let s := wIdle .ready [] (·.put Reg.REC_RPL_CFG.EN 1);
      s.dev.on Reg.REC_RPL_CFG.EN = true ∧ (s.now 5).acceptsParam 0 wGo 0xE002 [.ready] true = true ∧ bitsOf (wGo.w 6) 24 8 = 0x80
      ∧ wGo.w 8 < 65536 ∧ wGo.w 9 = 0) := by decide +kernel

theorem witness_CaptureRecordsAreTaken :
    (let s := wCapture .ready .running [] wBlock [] fun d => { d.put (Reg.LINK_CFG_n.EN 15) 1 with
      link := { d.link with links := modAt d.link.links 15 fun l => { l with status := [1] } } }
    s.dev.recd.cap = .running ∧ s.dev.comp? capDest = some ⟨0, capDest, 0, [], 0, 0, 0, [], 0, false, false, wBlock, false⟩ ∧ wBlock ≠ []
      ∧ (s.dev.openBuf? s.dev.recd.capRing).isNone = true ∧ s.dev.recd.gap = none ∧ s.dev.recd.capBytes + 56 ≤ 8388608
      ∧ 10000 ≤ (s.now 200000).since s.dev.recd.pwAt ∧ 15 < s.dev.link.links.length ∧ s.dev.on (Reg.LINK_CFG_n.EN 15) = true
      ∧ (s.dev.lk 15).status ≠ [] ∧ 200000 ≤ (s.now 200000).since (s.dev.recd.headAt.getD 15 0))
    ∧ (let s := wCapture .ready .running [] wBlock [] fun d => { d with recd := { d.recd with gap := some (3, 4, 5), capBytes := 4194304 } };
      s.dev.recd.cap = .running ∧ s.dev.recd.gap = some (3, 4, 5) ∧ s.dev.recd.capBytes ≤ 4194304
        ∧ (s.dev.openBuf? s.dev.recd.capRing).isNone = true ∧ (s.dev.comp? capDest).isSome = true) := by decide +kernel

/-! ### Linen and web position -/

def wGoMove : Desc := desc 0x08 [0, 0, 0, 4096, 0, 256, 16, 16, 0]
def wMoved (v : Nat) (f : Dev → Dev) : State :=
  wCmd .run fun d => f { withRing 2 2 d with jobs := [wJob 1 .live], linen := { d.linen with v := v, target := some 1 } }
/-- Registers as for `withRing`; the enabled axis 11, answering, DRV up, encoder 0 enabled. -/
def wAxis (v : Nat) (m : Mode) (f : Dev → Dev) : State :=
  wCmd m fun d => f { puts [(Reg.LINEN_AX_CFG_n.EN 11, 1), (Reg.LINEN_AX_CFG_n.ANS 11, 1), (Reg.LINEN_CFG.EN, 1), (Reg.TIME_PORT_CNT_p.LINK 0, 1)] d with
    jobs := [wJob 1 .live], linen := { d.linen with v := v } }
def wRest (m : Mode) (f : Dev → Dev) : State := wAxis 0 m fun d => f (d.put Reg.POS_STATUS.AT_REST 1)
/-- The answer of axis 11 with a fault, following error 5. -/
def wAnswer : List Nat := [1, 128, 11, 1, 0, 0, 0, 0] ++ leBytes 4 5
def wAnswerCrc : List Nat := wAnswer ++ leBytes 4 (crc32c ([0, 0, 0, 0] ++ [11, 0, 0, 0] ++ wAnswer))

theorem witness_MoveStopAndSetSpeed :
    (let s := wJobs .ready [wJob 7 .staged];
      (s.now 5).accepts 0 wGoMove 0x08 = true ∧ s.dev.moveCheck wGoMove = none ∧ s.dev.pos.cal = [] ∧ s.dev.on Reg.CHK_CFG.MARK_EN = false
      ∧ s.dev.jobs.all (fun j => j.lastFrame.isNone) = true ∧ s.dev.live? = none ∧ s.dev.nextStaged = some (wJob 7 .staged))
    ∧ (let s := wRest .ready fun d => d;
      (s.now 5).accepts 0 wGoMove 0x08 = true ∧ s.dev.moveCheck wGoMove = none ∧ s.dev.live?.isSome = true)
    ∧ (((wMoved 5 id).now 5).accepts 0 (desc 0x09 [0, 0, 0, 0]) 0x09 = true ∧ (wMoved 5 id).dev.active = true
      ∧ (desc 0x09 [0, 0, 0, 0]).w 4 ≤ aLim (wMoved 5 id).dev.live? * 16 ∧ (wMoved 5 id).dev.linen.v ≠ 0 ∧ (wMoved 5 id).dev.linen.stop = none)
    ∧ (let x := desc 0x0A [0, 0, 0, 300, 16, 0];
      ((wMoved 5 id).now 5).accepts 0 x 0x0A = true ∧ (wMoved 5 id).dev.linen.target.isSome = true
      ∧ x.w 4 ≤ (wMoved 5 id).dev.get Reg.LINEN_VMAX.VMAX * 256 ∧ x.w 5 ≤ aLim (wMoved 5 id).dev.live? * 16
      ∧ x.w 6 ≤ aLim (wMoved 5 id).dev.live? * 16) := by decide +kernel

/-- Where every link is as after reset, no frame waits. -/
theorem queues_empty (s : State) (h : s.dev.link.links = List.replicate 16 Link.reset) (n : Nat) : (s.dev.lk n).queue = [] := by
  unfold Dev.lk
  rw [h]
  by_cases k : n < 16
  · have a : ∀ m, m < 16 → ((List.replicate 16 Link.reset).getD m Link.reset).queue = [] := by decide +kernel
    exact a n k
  · simp [List.getD, k]; rfl

theorem witness_MoveStopAndSetSpeed_queues : ∀ n, ∀ w ∈ ((wJobs .ready [wJob 7 .staged]).dev.lk n).queue, ∃ seq, w = .cmd seq := by
  intro n w h
  rw [queues_empty _ (by decide +kernel)] at h
  cases h

theorem witness_ServoPeriods :
    (let s := wMoved 5 id;
      s.dev.linenRuns = true ∧ (s.now 2000000).servoPeriod ≠ s.dev.linen.cycle ∧ s.dev.isBad (· == Datum.linen) = false ∧ s.dev.linen.mirrored = none
      ∧ s.dev.linen.next = [] ∧ s.dev.linen.setters = [] ∧ s.dev.sense.rideDue = 0 ∧ s.dev.get Reg.SENSE_MAINS_STAT.ACTION = 0
      ∧ s.dev.linen.rideCap = none ∧ s.dev.on Reg.RING_CFG.EN = false ∧ s.dev.linen.stop = none ∧ s.dev.linen.target.isSome = true
      ∧ s.dev.linen.faults = 0)
    ∧ (wRest .ready id).dev.linenRuns = true ∧ ((wRest .ready id).now 2000000).servoPeriod ≠ (wRest .ready id).dev.linen.cycle
    ∧ (wRest .ready id).dev.linen.target = none
    ∧ (let s := wAxis 5 .run fun d => { d with linen := { d.linen with frame := some (zeros 24) } };
      s.dev.linen.frame = some (zeros 24) ∧ s.dev.active = true ∧ s.dev.linenRuns = true ∧ s.dev.on Reg.LINEN_CFG.EN = true
      ∧ s.dev.on (Reg.TIME_PORT_CNT_p.LINK 0) = true ∧ s.dev.linen.setters = []
      ∧ s.dev.linen.cycle * s.dev.servoT ≤ (s.now 5).readTime + s.dev.get Reg.LINEN_CFG.SP_LEAD * 1000) := by decide +kernel

theorem witness_DrivesAnswerAndAxesFollow :
    (let s := wAxis 5 .run id;
      let p := wBytes wAnswerCrc;
      s.dev.mode.served = true ∧ s.dev.on (Reg.TIME_PORT_CNT_p.LINK 0) = true ∧ 16 ≤ p.length ∧ leAt (natBytes p) 0 1 = 1
      ∧ leAt (natBytes p) 1 1 / 128 = 1 ∧ leAt (natBytes p) 2 1 = 11 ∧ leAt (natBytes p) 3 1 = 1 ∧ leAt (natBytes p) 8 4 = 5
      ∧ leAt (natBytes p) 12 4 = crc32c (((natBytes p).drop 4).take 4 ++ [11, 0, 0, 0] ++ (natBytes p).take 12)
      ∧ s.dev.on (Reg.LINEN_AX_CFG_n.EN 11) = true ∧ s.dev.on (Reg.LINEN_AX_CFG_n.ANS 11) = true ∧ s.dev.linen.v ≠ 0 ∧ bitOf 1 0 = true
      ∧ (s.dev.axis 11).faultEp = false ∧ s.dev.follower = false ∧ (∀ k, k ≤ 2 → s.dev.isSource k = true → s.dev.trkPort k ≠ 0)
      ∧ (wBytes []).length < 16)
    ∧ (let s := wAxis 5 .run (·.put (Reg.TIME_PORT_CNT_p.LINK 0) 0);
      s.dev.mode.served = true ∧ s.dev.linen.v ≠ 0 ∧ s.dev.on (Reg.TIME_PORT_CNT_p.LINK 0) = false)
    ∧ (let s := wAxis 5 .run fun d => { d with linen := { d.linen with axes := modAt d.linen.axes 11 fun a => { a with missed := 255 } } };
      s.dev.linenRuns = true ∧ s.dev.on (Reg.LINEN_AX_STAT_n.SILENT 11) = false ∧ s.dev.get (Reg.LINEN_AX_CFG_n.ANS_TMO 11) ≤ (s.dev.axis 11).missed
      ∧ s.dev.linen.policy.getD (4 * 11 + 1) 0 ≠ 0)
    ∧ (let s := wRest .hold id;
      let x := param 0x5002 [11, 0xFFFFFFFF, 3, 0] 0;
      (s.now 5).acceptsParam 0 x 0x5002 [.ready, .hold] true = true ∧ s.dev.follower = false ∧ s.dev.webAtRest = true ∧ x.w 6 < 12 ∧ x.w 8 ≠ 0 ∧ x.w 9 = 0
      ∧ s.dev.on (Reg.LINEN_AX_CFG_n.EN (x.w 6)) = true ∧ s.dev.linen.axes.length = 12)
    ∧ (let s := wRest .ready fun d => { d with linen := { d.linen with cams := [(15, ⟨false, false, 256, [0, -1]⟩)] } };
      (∀ x ∈ [param 0x5001 [11 + 16 * 15, 4096, 0, 0] 0, param 0x5001 [11 + 16 * 16, 4096, 0, 0] 0],
        (s.now 5).acceptsParam 0 x 0x5001 readyRunHold true = true ∧ valueExtra x [0x1FF, 0xFFFFFFFF, 0xFFFF, 0] = none ∧ x.f 6 0 4 < 12
        ∧ x.f 6 4 5 ≤ 16 ∧ s.dev.on (Reg.LINEN_AX_CFG_n.EN (x.f 6 0 4)) = true
        ∧ (x.f 6 4 5 < 16 → (kvGet s.dev.linen.cams (x.f 6 4 5)).isSome = true) ∧ s.dev.passed (x.w 7 + 2 ^ 32 * x.f 8 0 16) = false
        ∧ ((s.now 5).schedule 5 ⟨x.w 7 + 2 ^ 32 * x.f 8 0 16, .camStart (x.f 6 0 4) (x.f 6 4 5), .servo⟩).isSome = true))
    ∧ (let s := wRest .ready id;
      ∀ x ∈ [param 0x5010 [160000, 0, 0, 0] 0, param 0x5014 [16, 0, 0, 0] 0, param 0x5018 [4194303, 0, 0, 0] 0, param 0x501C [0, 0, 0, 0] 0],
        (s.now 5).acceptsParam 0 x (paramId x) readyRunHold true = true ∧ [0x5010, 0x5014, 0x5018, 0x501C].contains (paramId x) = true
        ∧ valueExtra x [0xFFFFFFFF, 0, 0, 0] = none ∧ s.dev.linenParamOk (paramId x % 4096) (x.w 6) = true) := by decide +kernel

/-- Encoders 0 and 3 are enabled; 0 is the web encoder. -/
def wEncoders (m : Mode) (f : Dev → Dev) : State :=
  wCmd m fun d => f { puts [(Reg.POS_ENC_CFG_n.EN 0, 1), (Reg.POS_ENC_CFG_n.EN 3, 1), (Reg.POS_IDX_PERIOD_n.PERIOD 3, 1000)] d with
    jobs := [wJob 1 .live]
    pos := { d.pos with encs := modAt d.pos.encs 3 fun e => { e with e := -16, ez := some 0 } } }

theorem witness_EncoderEdgesMovePw :
    (let s := wEncoders .run id;
      s.dev.get Reg.POS_CFG.WEB_ENC = 0 ∧ s.dev.encodersLive 0 = true ∧ s.dev.isWeb 0 = true ∧ s.dev.pos.encs.length = 4 ∧ s.dev.edgeDir 0 true = 1
      ∧ (s.dev.enc 0).zActive = false ∧ ((s.now 5000).countEdge 0 true 1 ((s.now 5000).tb - s.dev.filterNs 0)).2 = false ∧ s.dev.net.edge = none
      ∧ s.dev.net.sync = none ∧ s.dev.host.deferred = [] ∧ 0 < sign48 (sign48 ((s.dev.enc 0).e + 1) - s.dev.pos.eHw) ∧ s.dev.ratio = (s.dev.ratio.1, s.dev.ratio.2)
      ∧ s.dev.pos.n = s.dev.ratio.1 ∧ s.dev.pos.d = s.dev.ratio.2 ∧ s.dev.pos.cal = [] ∧ s.dev.on Reg.CHK_CFG.MARK_EN = false
      ∧ s.dev.jobs.all (fun j => j.lastFrame.isNone) = true ∧ s.dev.linksOn.all (fun m => !s.dev.on (Reg.LINK_STAT_n.SILENT m)) = true)
    ∧ (let s := inMode .run fun d => { d with host := { d.host with deferred := [(wTicket 0x0F, param 0xE001 [1] 1, 0)] } };
      s.dev.encodersLive (s.dev.get Reg.POS_CFG.WEB_ENC) = false ∧ s.dev.paramReached 0 = true ∧ paramId (param 0xE001 [1] 1) = 0xE001
      ∧ (wTicket 0x0F).op = 0x0F ∧ (wTicket 0x0F).ring < 32)
    ∧ (let s := wEncoders .run id;
      s.dev.encodersLive 3 = true ∧ s.dev.isWeb 3 = false ∧ s.dev.pos.encs.length = 4)
    ∧ (let s := wEncoders .run id;
      s.dev.get (Reg.POS_IDX_PERIOD_n.PERIOD 3) ≠ 0 ∧ (s.dev.enc 3).ez = some 0 ∧ (s.dev.enc 3).zLost = false ∧ -16 ≤ sign48 ((s.dev.enc 3).e - 0)
      ∧ sign48 ((s.dev.enc 3).e - 0) ≤ 16) := by decide +kernel

/-- Two samples one line apart in 1 ms, and an estimate of them: one line per ms. -/
def wSample : Sample := ⟨256, 0, 1, 1000000⟩
def wEst : Estimate := ⟨wSample, ⟨0, 0, 1, 0⟩, 256 * 2 ^ 160 / 1000000, 0⟩
def wEstimated (f : Dev → Dev) : State :=
  wCmd .run fun d => f { d.put Reg.POS_STATUS.VALID 1 with
    tb := 1000000, jobs := [wJob 1 .live], linen := { d.linen with v := 5 }, pos := { d.pos with pw := 256, hist := [wSample], est := some wEst } }

theorem witness_RestInputsAndScheduledOutputs :
    ((wEstimated id).dev.latest = some wSample
      ∧ (wEstimated id).dev.get Reg.POS_CFG.REST_MS * 1000000 < ((wEstimated id).now (2 ^ 40)).since wSample.t ∧ (wEstimated id).dev.linen.v ≠ 0)
    ∧ (let s := wEstimated fun d => { d with linen := { d.linen with v := 0, stop := some ⟨16, false, false, []⟩ } };
      s.dev.latest = some wSample ∧ s.dev.mode = .run ∧ s.dev.linen.v = 0 ∧ s.dev.linen.stop = some ⟨16, false, false, []⟩ ∧ s.dev.jobs ≠ []
      ∧ s.dev.recd.cap = .idle)
    ∧ ((wEstimated id).dev.pos.est = some wEst ∧ (expectedGap wEst).any (fun g => decide (3 * g < 2 * (((wEstimated id).now 2000000).since wEst.base.t * 65536))) = true)
    ∧ ((inMode .setup id).dev.mode.served = true ∧ (inMode .setup id).dev.get (Reg.POS_PSI_CFG_n.FUNC 7) = 0
      ∧ ((inMode .setup id).dev.psiAt 7).level ≠ (true != (inMode .setup id).dev.on (Reg.POS_PSI_CFG_n.POL 7)) ∧ ((inMode .setup id).dev.psiAt 7).stuck = false)
    ∧ (let s := inMode .setup fun d => { d.put (Reg.POS_PSI_CFG_n.WDOG 7) 1 with pos := { d.pos with psi := setAt d.pos.psi 7 ⟨true, 0, false⟩ } };
      s.dev.get (Reg.POS_PSI_CFG_n.WDOG 7) ≠ 0 ∧ (s.dev.psiAt 7).level = true ∧ (s.dev.psiAt 7).stuck = false
      ∧ s.dev.get (Reg.POS_PSI_CFG_n.WDOG 7) * 1000000 < (s.now 1000001).since (s.dev.psiAt 7).since)
    ∧ (let s := wRest .hold (puts [(Reg.POS_STATUS.REG_LOST, 1), (Reg.POS_FAULT.CAUSE, 2)]);
      (s.now 5).acceptsParam 0 (param 0x3001 [0, 0, 0, 0] 0) 0x3001 [.hold] true = true ∧ valueExtra (param 0x3001 [0, 0, 0, 0] 0) [0, 0, 0, 0] = none
      ∧ s.dev.webAtRest = true ∧ s.dev.get Reg.POS_FAULT.CAUSE ≠ 1)
    ∧ (let s := wCmd .ready id;
      let x := param 0x3002 [15 + 16, 4096, 0, 0] 0;
      (s.now 5).acceptsParam 0 x 0x3002 readyRunHold true = true ∧ bitOf (x.w 6) 6 = false ∧ valueExtra x [0x7F, 0xFFFFFFFF, 0xFFFF, 0] = none
      ∧ s.dev.psoTaken (x.f 6 0 4) = false ∧ s.dev.passed (pwAdd 0 (x.w 7 + 2 ^ 32 * x.f 8 0 16)) = false
      ∧ ((s.now 5).schedule 3 ⟨pwAdd 0 (x.w 7 + 2 ^ 32 * x.f 8 0 16), .pso (x.f 6 0 4) (bitOf (x.w 6) 4), if bitOf (x.w 6) 5 then .edge else .predict⟩).isSome = true)
    ∧ (let s := wEstimated fun d => { d with pos := { d.pos with cal := [(448, ⟨512, .pso 15 true, .predict⟩)] } };
      kvGet s.dev.pos.cal 448 = some ⟨512, .pso 15 true, .predict⟩ ∧ (s.now 2000000).reachedNow 512 = true ∧ s.dev.trigPso 15 = false
      ∧ s.dev.pos.cal.all (fun x => x.1 == 448 || x.2.pos != 512) = true)
    ∧ (let s := inMode .setup (puts [(Reg.RING_CFG.EN, 1), (Reg.RING_NODE.MEMBER, 1)]);
      s.dev.mode.served = true ∧ s.dev.follower = true ∧ s.dev.on Reg.POS_STATUS.POS_LOST = false ∧ 5000 ≤ (s.now 5000).since s.dev.pos.bcastAt) := by
  decide +kernel

/-! ### The render pipeline, cameras and the ladder -/

/-- A live job of one channel, 16 image lines and 8 gutter lines, with a record of its frame 0; links 0 and 15 are enabled. -/
def wLong : Job := { wJob 1 .live with gutterLines := 8 }
def wRender (f : DmkSt → DmkSt) : State := wCmd .run fun d => { puts [(Reg.LINK_CFG_n.EN 0, 1), (Reg.LINK_CFG_n.EN 15, 1)] d with
  jobs := [wLong], dmk := f { d.dmk with records := [⟨1, 0, 1, [0, 0]⟩] } }
def wComposed : CLine := ⟨1, 5, [zeros 8], []⟩
def wScreened : SLine := ⟨1, 5, 0, [zeros 8], [zeros 8], []⟩
def wMapped : MLine := ⟨1, 5, 0, 0, List.replicate 16 [zeros 4], []⟩

theorem witness_LinesPassThePipeline :
    (let s := wRender id;
      (s.dev.mode = .run ∧ s.dev.renderPaused = false ∧ s.dev.on Reg.MEM_DRAM_STAT.TRAINING = false ∧ s.dev.on Reg.REC_RPL_CFG.EN = false ∧ s.dev.recd.replay = none ∧ s.dev.dmk.composed = none)
      ∧ ((wRender fun d => { d with front := some (1, 23) }).dev.nextCompose = some (wLong, 23) ∧ wLong.frameLines ≤ 23 % wLong.repeat_)
      ∧ ((wRender fun d => { d with front := some (1, 15) }).dev.nextCompose = some (wLong, 15) ∧ 15 % wLong.repeat_ < wLong.frameLines
        ∧ 15 % wLong.repeat_ ≠ 0 ∧ s.dev.record? 1 (15 / wLong.repeat_) = some ⟨1, 0, 1, [0, 0]⟩)
      ∧ (s.dev.mode.printing = true ∧ s.dev.nextPaint = some ⟨1, 0, 1, [0, 0]⟩ ∧ s.dev.job? 1 = some wLong))
    ∧ (let s := wRender fun d => { d with composed := some wComposed };
      s.dev.dmk.screened = none ∧ s.dev.dmk.composed = some wComposed ∧ s.dev.job? wComposed.tag = some wLong ∧ wComposed.line % wLong.repeat_ ≠ 0
      ∧ 16 % wLong.repeat_ ≠ 0 ∧ wLong.frameLines ≤ 16 % wLong.repeat_)
    ∧ (let s := wRender fun d => { d with screened := some wScreened };
      s.dev.dmk.mapped = none ∧ s.dev.dmk.screened = some wScreened ∧ s.dev.job? wScreened.tag = some wLong ∧ wScreened.line % wLong.repeat_ ≠ 0
      ∧ wScreened.line % wLong.repeat_ ≠ wLong.frameLines ∧ wLong.gutterLines ≠ 0)
    ∧ (let s := wRender fun d => { d with mapped := some wMapped };
      s.dev.dmk.mapped = some wMapped ∧ s.dev.job? wMapped.tag = some wLong ∧ s.dev.alone = true ∧ s.dev.link.links.length = 16
      ∧ (s.dev.linksOn.all fun n => decide ((s.dev.lk n).fifo.length < s.dev.get Reg.LINK_FIFO.DEPTH)
        && (s.dev.lk n).lateAhead.isEmpty && !(wMapped.rows.getD n []).isEmpty && (s.dev.lk n).fifo.all fun e => e.rows.any fun r => r.outcome.isNone) = true
      ∧ 0 ∈ s.dev.linksOn ∧ 15 ∈ s.dev.linksOn)
    ∧ (let s := wCmd .run fun d => { d with sense := { d.sense with pause := some 5 } };
      s.dev.sense.pause = some 5 ∧ 5 ≤ (s.now 5).tb) := by decide +kernel

/-- Camera 1 with 8 pixels and a window that is open from 256 to 1280; its triggers so far. -/
def wWindow (ts : List Trigger) (closed : Bool) : Window := ⟨4, 1, 1, 16, 256, 1280, true, closed, 256, ts, 0, 0, 0, 0, 0, 0, ts.length, false, false⟩
def wCamera (w : Window) (pulse : Option Nat) : State := wCmd .run fun d => { puts [(Reg.CAM_CFG_n.EN 1, 1), (Reg.CAM_NPIX_n.NPIX 1, 8), (Reg.LANE_PORT_CFG_p.EN 17, 1), (Reg.LANE_PORT_STAT_p.STATE 17, 6)] d with
  jobs := [wLong], pos := { d.pos with pw := 256 }, gz := { d.gz with windows := [w], cams := modAt d.gz.cams 1 fun c => { c with pulseEnd := pulse } } }
def wOpenTrigger : Trigger := ⟨256, 0, none⟩
def wWords (seq crc : Nat) : List Nat := [seq + 7 * 2 ^ 16, 0x0807060504030201, crc]
def wLineCrc : Nat := crc32c (leBytes 4 1 ++ leBytes 8 (9 + 7 * 2 ^ 16) ++ leBytes 8 0x0807060504030201)

theorem witness_CamerasTakeTheirLines :
    (let s := wCamera (wWindow [] false) none; let w := wWindow [] false;
      (s.dev.gz.windows.find? fun w => w.cam == 1 && w.opened && !w.closed) = some w ∧ s.dev.mode.served = true ∧ s.dev.camOn 1 = true
      ∧ pwDiff (pwAdd w.openPos (w.next * s.dev.get (Reg.CAM_TRIG_n.TRIG_FC 1))) w.closePos < 0
      ∧ s.dev.passed (pwAdd w.openPos (w.next * s.dev.get (Reg.CAM_TRIG_n.TRIG_FC 1))) = true ∧ 1 < s.dev.gz.cams.length)
    ∧ (let s := wCamera (wWindow [] false) (some 50); (s.dev.gz.cams.getD 1 ⟨none, none⟩).pulseEnd = some 50 ∧ 50 ≤ (s.now 50).tb)
    ∧ (let s := wCamera (wWindow [wOpenTrigger] false) none; let words := wWords 9 wLineCrc;
      s.dev.brings (16 + 1) 3 (stripe 4 3 words) words = true ∧ s.dev.brings (16 + 1) 3 (stripe 4 3 (wWords 9 0)) (wWords 9 0) = true
      ∧ s.dev.camOn 1 = true ∧ bitsOf (words.getLastD 0) 0 32 = crc32c (leBytes 4 1 ++ (words.dropLast.map (leBytes 8)).flatten)
      ∧ bitsOf (words.headD 0) 16 16 + 1 = s.dev.get (Reg.CAM_NPIX_n.NPIX 1) ∧ (s.dev.gz.cams.getD 1 ⟨none, none⟩).lastSeq = none
      ∧ s.dev.openTrigger 1 = some (wWindow [wOpenTrigger] false, 0, wOpenTrigger) ∧ (s.dev.gz.windows.any fun v => v.cam == 1 && v.closed) = false
      ∧ bitsOf ((wWords 9 0).getLastD 0) 0 32 ≠ crc32c (leBytes 4 1 ++ ((wWords 9 0).dropLast.map (leBytes 8)).flatten)
      ∧ s.dev.get Reg.CAM_TMO.TMO * 1000 ≤ (s.now (2 ^ 40)).since wOpenTrigger.at_) := by decide +kernel

/-- One channel of 16 columns, all of link 0, row 0; a ladder band of them that camera 0 has seen. -/
def wBand : Band := ⟨6, 1, false, 0, 0, 16, 18, 4, 16, 2, 2, 0, some 0⟩
def wSeen : Window := { wWindow [⟨256, 0, some []⟩] true with cam := 0 }
def wLadder : State := wCmd .run fun d => { puts [(Reg.PIPE_GZ_NTW.NT_W, 16), (Reg.PIPE_GZ_CFG.CH_M1, 0), (Reg.LINK_CFG_n.EN 0, 1), (Reg.CAM_CFG_n.CH_MASK 0, 1)] d with
  jobs := [wLong], gz := { d.gz with windows := [wSeen], bands := [wBand] } }

theorem witness_LadderAndAlignment :
    (let s := wLadder;
      (s.dev.gz.windows.find? fun w => w.id == 4 && w.closed && !w.analysed) = some wSeen ∧ wSeen.answered = true
      ∧ (s.dev.gz.bands.filter fun b => b.cam == some wSeen.cam && b.tag == wSeen.tag && b.gutter == wSeen.gutter) = [wBand] ∧ wBand.align = false
      ∧ s.dev.gz.alignRun = none ∧ s.dev.live?.isSome = true ∧ s.dev.active = true ∧ ((s.dev.detections wSeen wBand).map (·.1)).Nodup
      ∧ (15, 0) ∈ s.dev.detections wSeen wBand ∧ s.dev.gz.loaded.contains 15 = false)
    ∧ (let s := wLadder; let x := desc 0x0C [0, 0, 0, 0];
      (s.now 5).accepts 0 x 0x0C = true
      ∧ s.dev.unitsOf (if x.f 4 0 16 = 0 then s.dev.linksOn else s.dev.linksOn.filter (bitOf (x.f 4 0 16)))
          (((s.dev.job? s.dev.nextGutter.1).map (·.channels)).getD 8) = [(0, 0)] ∧ (s.dev.camOf 0).isSome = true ∧ s.dev.gz.round = none)
    ∧ (let s := wLadder; let x := param 0xB3F1 [0x10001, 0, 0, 0] 0;
      (s.now 5).acceptsParam 0 x 0xB3F1 [.run] false = true ∧ valueExtra x [0x1FFFF, 0, 0, 0] = none
      ∧ (if x.f 6 0 16 = 0 then s.dev.linksOn else s.dev.linksOn.filter (bitOf (x.f 6 0 16))) = [0]
      ∧ ([0].any fun n => (List.range s.dev.ntCh).any fun c => s.dev.carries n c && (s.dev.camOf c).isNone) = false) := by decide +kernel

/-! ### Lane ports -/

/-- Port `p` is enabled at a stage, with LREF good. -/
def wPort (m : Mode) (p stage : Nat) (l : List (Fld × Nat)) (f : Port → Port) : State :=
  wCmd m fun d => { puts ([(Reg.LANE_GLB.LREF_OK, 1), (Reg.LANE_PORT_CFG_p.EN p, 1), (Reg.LANE_PORT_STAT_p.STATE p, stage)] ++ l) d with
    lane := { d.lane with ports := modAt d.lane.ports p f } }

def wCapPayload : List Nat := [1 + 16 * 3, 7 + 0x38, 0, 0, 0, 0, 0]

theorem witness_PortsComeUpAndStep :
    ((inMode .setup id).dev.lkOpen = true ∧ (inMode .setup id).dev.on (Reg.LANE_PORT_CFG_p.EN 19) = false ∧ bitOf 1 0 = true
      ∧ (wPort .setup 19 0 [] id).dev.on Reg.LANE_GLB.LREF_OK = true ∧ (wPort .setup 19 0 [] id).dev.net.holdAt = none
      ∧ ((wPort .setup 19 0 [] id).dev.lk 19).queue = [])
    ∧ (let s := wPort .hold 17 9 [] id;
      s.dev.laneLive 17 = true ∧ s.dev.stage 17 = 9 ∧ s.dev.get (Reg.LANE_PORT_CFG_p.RETRY_MS 17) * 1000000 ≤ (s.now (2 ^ 40)).since (s.dev.port 17).stageAt
      ∧ s.dev.on Reg.LANE_GLB.LREF_OK = true ∧ (s.dev.lk 17).queue = [])
    ∧ (let s := wPort .setup 17 0 [] fun x => { x with waits := true };
      s.dev.mode.served = true ∧ (∀ n < 16, (s.dev.lk n).queue = []) ∧ s.dev.on (Reg.LANE_PORT_CFG_p.EN 17) = true ∧ (s.dev.port 17).waits = true)
    ∧ (let s := wPort .ready 19 0 [] id; let t : State := { s with dev := { s.dev with net := { s.dev.net with holdAt := some 0 } } };
      t.dev.net.holdAt = some 0 ∧ t.dev.mode.served = true ∧ 20000 ≤ (t.now 20000).since 0 ∧ t.dev.on Reg.LANE_GLB.LREF_OK = true
      ∧ t.dev.on (Reg.LANE_PORT_CFG_p.EN 19) = true)
    ∧ (let s := wPort .run 16 1 [] id; s.dev.laneLive 16 = true ∧ s.dev.stage 16 = 1)
    ∧ (let s := wPort .run 16 6 [(Reg.LANE_PORT_STAT_p.RX_IDLE 16, 1)] id;
      s.dev.laneLive 16 = true ∧ s.dev.stage 16 = 6 ∧ s.dev.on (Reg.LANE_PORT_STAT_p.RX_IDLE 16) = true)
    ∧ (let s := wPort .run 19 2 [] id;
      s.dev.laneLive 19 = true ∧ (rxMacros 19).contains 3 = true ∧ 2 ≤ s.dev.stage 19 ∧ s.dev.stage 19 ≠ 9 ∧ s.dev.on (Reg.LANE_PORT_CFG_p.MODE 19) = false
      ∧ (s.dev.port 19).idle = none ∧ bitOf (s.dev.get (Reg.LANE_PORT_STAT_p.LOCKED 19)) 3 = false ∧ (s.dev.port 19).wakeAt = none
      ∧ huntOn 64 ((s.dev.port 19).hunt.getD 3 0) [63, 64] = (true, 64) ∧ huntOn 64 ((s.dev.port 19).hunt.getD 3 0) [63, 63] = (false, 63)
      ∧ huntOn 16 ((s.dev.port 19).hunt.getD 3 0) [16] = (true, 16)) := by decide +kernel

theorem witness_PortsComeUpAndStep_rates :
    (let s := wPort .run 19 3 [(Reg.LANE_PORT_STAT_p.LOCKED 19, 12)] id;
      s.dev.laneLive 19 = true ∧ s.dev.allLocked 19 = true ∧ s.dev.on (Reg.LANE_PORT_CFG_p.MODE 19) = false ∧ s.dev.stage 19 = 3 ∧ (s.dev.port 19).skipCap = false
      ∧ 19 < s.dev.lane.ports.length ∧ [7, 11].length = (rxMacros 19).length ∧ (∀ a ∈ [7, 11], ∀ b ∈ [7, 11], a ≤ b + 4) ∧ (s.dev.port 19).idle = none)
    ∧ (let s := wPort .ready 18 4 [] fun x => { x with cap := wCapPayload, caps := 2 };
      s.dev.laneLive 18 = true ∧ s.dev.stage 18 = 4 ∧ (wBytes wCapPayload).length = 7 ∧ (s.dev.port 18).cap = natBytes (wBytes wCapPayload)
      ∧ (s.dev.port 18).caps = 2 ∧ leAt (natBytes (wBytes wCapPayload)) 0 1 = 1 + 16 * farRole 18 ∧ isCamera 18 = false
      ∧ topRate (fun r => bitOf (leAt (natBytes (wBytes wCapPayload)) 1 1) r && s.dev.ownRate 18 r) = 2
      ∧ s.dev.get (Reg.LANE_PORT_CFG_p.MIN_RATE 18) ≤ 2 ∧ s.dev.get (Reg.LANE_PORT_STAT_p.RATE 18) < 2)
    ∧ (let s := wPort .ready 15 5 [(Reg.LANE_PORT_STAT_p.RATE 15, 1)] fun x => { x with steps := 2 };
      s.dev.laneLive 15 = true ∧ s.dev.stage 15 = 5 ∧ (s.dev.port 15).idle = none ∧ isCamera 15 = false ∧ (s.dev.port 15).relock = false
      ∧ s.dev.on (Reg.LANE_PORT_CFG_p.MODE 15) = false ∧ 2 = s.dev.get (Reg.LANE_PORT_STAT_p.RATE 15) + 1 ∧ (s.dev.port 15).steps = 2)
    ∧ (let s := wPort .ready 15 5 [] fun x => { x with idle := some (16000, 1) };
      s.dev.laneLive 15 = true ∧ s.dev.stage 15 = 5 ∧ (s.dev.port 15).idle = some (16000, 1) ∧ (s.now 16000).since 16000 < 2 ^ 63)
    ∧ ((inMode .run id).dev.compat 3 = false ∧ streamSlot 5 ((inMode .run id).dev.idling 3) 16383 ≠ streamSlot 5 ((inMode .run id).dev.idling 3) 16382) := by
  decide +kernel

theorem witness_PortFaultsSleepAndWake :
    (let s := wPort .run 19 6 [(Reg.LANE_PORT_STAT_p.LOCKED 19, 12)] id;
      s.dev.laneLive 19 = true ∧ (s.dev.lk 19).queue = [] ∧ s.dev.on (Reg.LANE_PORT_STAT_p.RX_IDLE 19) = false ∧ 2 ≤ s.dev.stage 19 ∧ s.dev.stage 19 ≠ 9
      ∧ s.dev.stage 19 ≠ 5 ∧ (rxMacros 19).contains 3 = true ∧ bitOf (s.dev.get (Reg.LANE_PORT_STAT_p.LOCKED 19)) 3 = true
      ∧ s.dev.on (Reg.LANE_PORT_CFG_p.MODE 19) = false ∧ (s.dev.port 19).idle = none ∧ s.dev.stage 19 = 6
      ∧ windowErrs 64 16 ((s.dev.port 19).errs.getD 3 []) (List.replicate 16 4) = ([], 16, true)
      ∧ windowErrs 64 16 ((s.dev.port 19).errs.getD 3 []) [1, 64] = ([0], 2, false))
    ∧ (∀ k ∈ [1, 2, 3, 4, 5], let s := wPort .setup 0 k [] id;
      s.dev.laneLive 0 = true ∧ (s.dev.lk 0).queue = [] ∧ ((stageTimeout (s.dev.stage 0)).any fun x => decide (x.1 ≤ (s.now 10000000).since (s.dev.port 0).stageAt)) = true
      ∧ (s.dev.port 0).relock = false ∧ (s.dev.port 0).idle = none)
    ∧ (let s := wPort .run 19 7 [] id; s.dev.laneLive 19 = true ∧ s.dev.stage 19 = 7 ∧ 100000 ≤ (s.now 100000).since (s.dev.port 19).stageAt)
    ∧ (let s := wPort .run 19 6 [] fun x => { x with wakeAt := some 0 };
      s.dev.laneLive 19 = true ∧ s.dev.stage 19 = 6 ∧ (s.dev.port 19).wakeAt = some 0 ∧ s.dev.allLocked 19 = false ∧ 20000 ≤ (s.now 20000).since 0)
    ∧ (∀ b, let s := wPort .ready 19 5 [(Reg.LANE_PORT_STAT_p.RATE 19, 2)] fun x => { x with relock := true, fallback := b };
      s.dev.laneLive 19 = true ∧ s.dev.stage 19 = 5 ∧ (s.dev.port 19).relock = true ∧ (s.dev.port 19).idle = none
      ∧ 1000000 ≤ (s.now 1000000).since (s.dev.port 19).stageAt ∧ s.dev.on (Reg.LANE_PORT_STAT_p.RX_IDLE 19) = false
      ∧ (s.dev.port 19).fallback = b ∧ isCamera 19 = false ∧ 1 ≤ s.dev.get (Reg.LANE_PORT_STAT_p.RATE 19)
      ∧ s.dev.get (Reg.LANE_PORT_CFG_p.MIN_RATE 19) < s.dev.get (Reg.LANE_PORT_STAT_p.RATE 19))
    ∧ (let s := wPort .run 16 5 [] fun x => { x with relock := true }; s.dev.laneLive 16 = true ∧ isCamera 16 = true ∧ s.dev.stage 16 = 5)
    ∧ (let s := wPort .ready 19 6 [(Reg.LANE_PORT_CFG_p.SLEEP_EN 19, 1)] id;
      s.dev.laneLive 19 = true ∧ isCamera 19 = false ∧ s.dev.mode ≠ .run ∧ s.dev.stage 19 = 6 ∧ 19 < s.dev.lane.ports.length
      ∧ s.dev.on (Reg.LANE_PORT_CFG_p.SLEEP_EN 19) = true
      ∧ s.dev.on (Reg.LANE_PORT_CFG_p.MODE 19) = false ∧ s.dev.on (Reg.LANE_PORT_STAT_p.TX_IDLE 19) = false
      ∧ s.dev.get (Reg.LANE_PORT_CFG_p.SLEEP_IDLE 19) * 1000 ≤ (s.now (2 ^ 40)).since (s.dev.port 19).lastTx)
    ∧ (let s := wPort .run 19 6 [(Reg.LANE_PORT_STAT_p.TX_IDLE 19, 1)] id;
      s.dev.mode = .run ∧ isCamera 16 = true ∧ s.dev.laneLive 19 = true ∧ s.dev.on (Reg.LANE_PORT_STAT_p.TX_IDLE 19) = true) := by decide +kernel

theorem witness_PortTestsAndInjection :
    (let s := wPort .setup 19 6 [] id;
      s.dev.lkOpen = true ∧ s.dev.stage 19 = 6 ∧ s.dev.on (Reg.LANE_TEST_p.TEST_EN 19) = false ∧ bitOf 0xC03 0 = true ∧ bitOf 0xC03 16 = false ∧ bitOf 0xC03 17 = false
      ∧ (s.dev.lk 19).queue = [] ∧ bitsOf 0xC03 3 2 = 0 ∧ bitsOf 0xC0B 3 2 = 1 ∧ bitsOf 0xC13 3 2 = 2)
    ∧ (let s := wPort .setup 19 8 [(Reg.LANE_TEST_p.TEST_EN 19, 1)] id;
      s.dev.lkOpen = true ∧ 19 < s.dev.lane.ports.length ∧ s.dev.stage 19 = 8 ∧ s.dev.on (Reg.LANE_TEST_p.TEST_EN 19) = true ∧ bitOf 0 0 = false)
    ∧ (let s := wPort .setup 19 6 [] id;
      isCamera 19 = false ∧ s.dev.on (Reg.LANE_TEST_p.TEST_EN 19) = bitOf 0x10200 0 ∧ bitOf 0x10200 (8 + 1) = true ∧ bitOf 0x10200 16 = true
      ∧ bitOf 0x10200 17 = false ∧ bitOf 0xFF020200 16 = false ∧ bitOf 0xFF020200 17 = true ∧ bitOf 0xFF020200 (8 + 1) = true
      ∧ s.dev.on (Reg.LANE_PORT_CFG_p.MODE 19) = false ∧ bitsOf 0x10200 3 2 ≠ 1)
    ∧ (let s := wPort .setup 19 8 [(Reg.LANE_TEST_p.TEST_EN 19, 1), (Reg.LANE_TEST_STAT_p.PRBS_LOCK 19, 12)] id;
      s.dev.stage 19 = 8 ∧ bitOf 0x10209 0 = true ∧ s.dev.on (Reg.LANE_TEST_p.TEST_EN 19) = bitOf 0x10209 0 ∧ bitOf 0x10209 (8 + 1) = true
      ∧ bitsOf 0x10209 3 2 = 1 ∧ bitOf (s.dev.get (Reg.LANE_TEST_STAT_p.PRBS_LOCK 19)) (1 + 2) = true)
    ∧ (let s := wPort .hold 19 6 [] id; let x := param 0x8001 [0xFF01FF - 4 - 0x48, 0, 0, 0] 0;
      (s.now 5).acceptsParam 0 x 0x8001 readyRunHold true = true ∧ valueExtra x [0xFF01FF, 0, 0, 0] = none ∧ x.f 6 0 5 < 20 ∧ isCamera (x.f 6 0 5) = false
      ∧ x.f 6 5 2 < 2 ∧ s.dev.on (Reg.LANE_PORT_CFG_p.MODE (x.f 6 0 5)) = false)
    ∧ (let s := wPort .setup 19 8 [(Reg.LANE_TEST_STAT_p.PRBS_LOCK 19, 8)] id;
      s.dev.laneLive 19 = true ∧ s.dev.stage 19 = 8 ∧ (rxMacros 19).contains 3 = true ∧ bitOf (s.dev.get (Reg.LANE_TEST_STAT_p.PRBS_LOCK 19)) 3 = true
      ∧ windowErrs 1024 64 ((s.dev.port 19).bits.getD 3 []) [1, 2, 3] = ([0, 3, 5], 3, false)
      ∧ (windowErrs 1024 64 ((s.dev.port 19).bits.getD 3 []) (List.replicate 64 16)).2.2 = true)
    ∧ (∀ k ∈ [2, 6, 7], let s := wPort .run 15 k [(Reg.LANE_PORT_CFG_p.MODE 15, 1)] id;
      s.dev.laneLive 15 = true ∧ s.dev.on (Reg.LANE_PORT_CFG_p.MODE 15) = true ∧ s.dev.stage 15 = k ∧ (s.dev.port 15).fallback = false
      ∧ (s.dev.lk 15).queue = [] ∧ s.dev.on (Reg.LANE_PORT_STAT_p.LOCKED 15) = false ∧ huntOn 4 ((s.dev.port 15).hunt.getD 2 0) [3, 4] = (true, 4)
      ∧ windowErrs 640 16 ((s.dev.port 15).errs.getD 2 []) [5] = ([0], 1, false)
      ∧ (windowErrs 640 16 ((s.dev.port 15).errs.getD 2 []) (List.replicate 16 40)).2.2 = true
      ∧ (s.dev.port 15).elastic = 16) := by decide +kernel

/-! ### Head links -/

/-- The row of line 3 of job 1 on link 15: as it waits to be sent, or sent once with a CRC of 7. -/
def wRow : RowEntry := ⟨[1, 2], sourceCheck 15 0 3 1 [1, 2], false, none, 0, none, [], 0, 0, 0, false, none⟩
def wSent : RowEntry := { wRow with header := some (5, 6, 3000000 * 65536), crcs := [7], lastBlock := 2970000 }
def wRefetch : RowEntry := { wRow with header := some (5, 6, 3000000 * 65536), refetch := some ([9, 2], 44) }

/-- Link 15 is up with line 3 of the live job in its FIFO; the web is at line 1 at 1 ms and moves one line per ms. -/
def wLinkUp (tb : Nat) (e : RowEntry) (l : List (Fld × Nat)) (f : Link → Link) : State :=
  wCmd .run fun d => { puts ([(Reg.POS_STATUS.VALID, 1), (Reg.LINK_CFG_n.EN 15, 1), (Reg.LANE_PORT_CFG_p.EN 15, 1), (Reg.LANE_PORT_STAT_p.STATE 15, 6),
      (Reg.LINK_STAT_n.STATE 15, 2)] ++ l) d with
    tb := tb, jobs := [wLong], pos := { d.pos with pw := 256, hist := [wSample], est := some wEst }
    link := { d.link with links := modAt d.link.links 15 fun k => f { k with
      fit := 2, fifo := [⟨1, 3, 0, 0, 0, [e]⟩], depthSent := some 0, rows := setAt k.rows 0 { RowSt.reset with next := some (1, 3) } } } }

theorem witness_LineFramesAndAnswers :
    (let s := wLinkUp 2980000 wRow [] id;
      s.dev.sendsLines = true ∧ 0 < s.dev.rowsOf 15 ∧ (s.dev.lk 15).queue = [] ∧ s.dev.rowNext 15 0 = some (wLong, 3) ∧ s.dev.job? wLong.tag = some wLong
      ∧ (s.now 5).fireAt 15 0 wLong 3 = some (3000000 * 65536)
      ∧ s.dev.beforeResume 15 wLong 3 = false ∧ s.dev.linkFit 15 = true
      ∧ 3000000 * 65536 ≤ (s.now 5).tb * 65536 + s.dev.get Reg.LINK_LEAD.TARGET * 65536000 ∧ s.dev.rowEntry? 15 0 1 3 = some wRow
      ∧ (((s.dev.lk 15).fifo.take 64).any fun f => f.tag == 1 && f.line == 3) = true
      ∧ (s.now 5).startAt 15 + s.dev.lineTime 15 0 wLong ≤ sendBy (3000000 * 65536) ∧ (s.dev.lk 15).depthSent = some (s.dev.wantDepth 15)
      ∧ s.dev.wantDepth 15 = wLong.depth ∧ wRow.crcs = [] ∧ wRow.header = none ∧ wRow.outcome = none ∧ wRow.poison = false
      ∧ sourceCheck 15 0 3 1 wRow.payload = wRow.sc ∧ (s.now 5).startAt 15 ≤ (s.now 5).tb * 65536)
    ∧ (let s := wLinkUp 2980000 wRow [] fun k => { k with busy := 2980006 * 65536 };
      (s.now 5).tb * 65536 < (s.now 5).startAt 15 ∧ (s.now 5).startAt 15 + s.dev.lineTime 15 0 wLong ≤ sendBy (3000000 * 65536))
    ∧ (let s := wLinkUp 2980000 wRefetch [] id;
      s.dev.job? 1 = some wLong ∧ s.dev.rowEntry? 15 0 1 3 = some wRefetch ∧ wRefetch.refetch = some ([9, 2], 44)
      ∧ wRefetch.header = some (5, 6, 3000000 * 65536) ∧ wRefetch.crcs = [] ∧ wRefetch.outcome = none ∧ wRefetch.poison = false
      ∧ (s.now 5).startAt 15 ≤ (s.now 5).tb * 65536
      ∧ (s.now 5).startAt 15 + s.dev.lineTime 15 0 wLong ≤ sendBy (3000000 * 65536) ∧ s.dev.linkFit 15 = true
      ∧ sourceCheck 15 0 3 1 wRefetch.payload = wRefetch.sc ∧ wRefetch.payload ≠ [9, 2]) := by decide +kernel

/-- The line on link 15 has been sent and has no answer yet. -/
def wAwaits : State := wLinkUp 2980000 wSent [] fun k => { k with sent := [.line 0 1 3] }
/-- Head commands of link 15, by SEQ and tries. -/
def wHeadCmd (seq tries : Nat) : HeadCmd := ⟨seq, [1, 2], 0, tries, 0⟩
/-- An ACKNAK: byte 0, line, CRC. -/
def wAcknak (b0 line crc : Nat) : List Byte := wBytes (b0 :: leBytes 2 line ++ leBytes 4 crc)

theorem witness_LineFramesAndAnswers_answers :
    (let s := wAwaits;
      s.dev.mode.served = true ∧ s.dev.portIsUp 15 = true ∧ (s.dev.lk 15).queue = [] ∧ (wAcknak 0 3 7).length = 7 ∧ leAt (natBytes (wAcknak 0 3 7)) 0 1 % 16 = 0
      ∧ s.dev.openLine 15 0 (fun f => f.line % 65536 == leAt (natBytes (wAcknak 0 3 7)) 1 2) = some (wLong, 3, wSent)
      ∧ wSent.crcs.contains (leAt (natBytes (wAcknak 0 3 7)) 3 4) = true ∧ wSent.mismatched = false ∧ s.dev.on (Reg.LINK_STAT_n.SILENT 15) = false
      ∧ s.dev.rowEntry? 15 0 wLong.tag 3 = some wSent ∧ wSent.poison = false ∧ s.dev.jobs.all (fun k => k.phase != .ending) = true)
    ∧ (let s := wAwaits;
      s.dev.portSends 15 = true ∧ bitsOf (leAt (natBytes (wAcknak 8 3 7)) 0 1) 2 2 = 2)
    ∧ (let s := wAwaits; let b := wAcknak 0x74 0 0;
      bitsOf (leAt (natBytes b) 0 1) 2 6 % 2 = 1 ∧ bitsOf (leAt (natBytes b) 0 1) 4 4 = 7 ∧ (s.dev.lk 15).sent = [.line 0 1 3]
      ∧ (s.now 5).startAt 15 ≤ (s.now 5).tb * 65536)
    ∧ (let s := wAwaits;
      s.dev.openLine 15 0 (fun f => f.tag == 1 && f.line == 3) = some (wLong, 3, wSent) ∧ wLong.tag = 1 ∧ s.dev.unansweredCopies 15 0 1 3 ≠ 0
      ∧ wSent.lastBlock + s.dev.get Reg.LINK_HOLD.ACK_TMO * 1000 ≤ (s.now 5).tb ∧ (s.now 5).canResend 15 0 wLong 3 wSent = true
      ∧ wSent.header = some (5, 6, 3000000 * 65536) ∧ sourceCheck 15 0 3 1 wSent.payload = wSent.sc
      ∧ 3000000 * 65536 + s.dev.get Reg.LINK_HOLD.ACK_TMO * 65536000 ≤ (s.now 24000).tb * 65536 ∧ wSent.answer ≠ 1) := by decide +kernel

theorem witness_LineFramesAndAnswers_commands :
    (let s := wLinkUp 2980000 wRow [(Reg.POS_STATUS.HELD, 1)] fun k => { k with rows := setAt k.rows 0 { RowSt.reset with last := some (1, 2, 3000000 * 65536) } };
      ((s.dev.lk 15).row 0).last = some (1, 2, 3000000 * 65536) ∧ s.dev.sendsLines = true ∧ 0 < s.dev.rowsOf 15 ∧ s.dev.linkFit 15 = true
      ∧ (s.dev.lk 15).cmds = [] ∧ (s.dev.lk 15).queue = [] ∧ (s.now 5).startAt 15 ≤ (s.now 5).tb * 65536
      ∧ ((s.dev.lk 15).row 0).paused = false ∧ (s.now 5).pauseReason 15 0 = true
      ∧ 3000000 * 65536 ≤ (s.now 5).tb * 65536 + s.dev.get Reg.LINK_LEAD.TARGET * 65536000)
    ∧ (let s := wLinkUp 2980000 wRow [] id;
      s.dev.mode.served = true ∧ s.dev.link.links.length = 16 ∧ s.dev.on (Reg.LINK_CFG_n.EN 15) = true ∧ s.dev.portSends 15 = true
      ∧ s.dev.on (Reg.LANE_PORT_CFG_p.MODE 15) = false ∧ s.dev.get Reg.LINK_TIME.TIME_INT * 1000 ≤ (s.now 5).since (s.dev.lk 15).timeAt)
    ∧ (let s := wLinkUp 2980000 wRow [] fun k => { k with cmds := [wHeadCmd 5 2, wHeadCmd 6 3] };
      s.dev.portSends 15 = true ∧ (s.dev.lk 15).queue = [] ∧ ((s.dev.lk 15).cmds.map (·.seq)).Nodup
      ∧ ∀ c ∈ (s.dev.lk 15).cmds, s.dev.get Reg.LINK_HOLD.ACK_TMO * 1000 ≤ (s.now 5).since c.sentAt)
    ∧ (∀ n ∈ [0, 2, 3, 4], let s := wLinkUp 2980000 wRow [] fun k => { k with cmds := [wHeadCmd 5 n] };
      (s.dev.lk 15).cmds = [wHeadCmd 5 n] ∧ s.dev.portSends 15 = true ∧ s.dev.get Reg.LINK_HOLD.ACK_TMO * 1000 ≤ (s.now 5).since 0
      ∧ (wHeadCmd 5 n).words.headD 0 % 256 ≠ 2 ∧ (s.dev.lk 15).queue = [] ∧ (s.now 5).startAt 15 ≤ (s.now 5).tb * 65536) := by
  decide +kernel

/-- A command waits in front on link 15, whose lanes are free. -/
theorem witness_LineFramesAndAnswers_queue :
    (let s := wLinkUp 2980000 wRow [] fun k => { k with cmds := [wHeadCmd 5 0], queue := [.cmd 5, .line true 0 1 2 9 [], .line false 0 1 3 8 []] };
      (s.dev.lk 15).queue = .cmd 5 :: [.line true 0 1 2 9 [], .line false 0 1 3 8 []] ∧ (s.dev.frontFrame 15).isSome = true ∧ (s.dev.cmd? 15 5).isSome = true) := by
  decide +kernel

/-- A status of link 15 with one row at a temperature, supply 777, LAST_LINE 3. -/
def wStatusWords (temp : Nat) : List Nat := [777 * 2 ^ 16, temp + 3 * 2 ^ 16, 0, 0, 0]
def wStatusMsg (temp : Nat) : List Nat :=
  wStatusWords temp ++ [linkCrc ([15, 0x10] ++ leBytes 5 (bitsOf ((wStatusWords temp).getD 0 0) 0 16) ++ [0]) (wStatusWords temp)]

theorem witness_HeadStatusAndTemperature :
    (let s := wLinkUp 2980000 wRow [] id;
      ∀ k ∈ [239, 240, 279, 280], let words := wStatusMsg k;
      s.dev.brings 15 2 (stripe 1 2 words) words = true ∧ s.dev.on (Reg.LINK_CFG_n.EN 15) = true ∧ s.dev.link.links.length = 16
      ∧ s.dev.rowsOf 15 = 1 ∧ words.length = 6 ∧ (s.dev.lk 15).queue = []
      ∧ linkCrc ([15, 0x10] ++ leBytes 5 (bitsOf (words.getD 0 0) 0 16) ++ [0]) (words.take 5) = bitsOf (words.getD 5 0) 0 32
      ∧ bitsOf (words.getD 0 0) 32 16 = 0 ∧ bitsOf (words.getD (0 + 1) 0) 32 24 = 0 ∧ s.dev.on (Reg.LINK_STAT_n.SILENT 15) = false
      ∧ signedOf 16 (bitsOf (words.getD (0 + 1) 0) 0 16) = (k : Int) ∧ s.dev.limitOf 15 = 240 ∧ s.dev.hardOf 15 = 280
      ∧ s.dev.on (Reg.LINK_STAT_n.HOT 15) = false ∧ (s.dev.lk 15).halted = false ∧ s.dev.jobs.all (fun k => k.phase != .ending) = true)
    ∧ (let s := wLinkUp 2980000 wRow [] id;
      s.dev.portIsUp 15 = true ∧ s.dev.get Reg.LINK_HOLD.STATUS_TMO * 10000 ≤ (s.now 5).since (s.dev.lk 15).statusAt ∧ (s.now 5).since (s.dev.lk 15).statusAt ≠ 0
      ∧ (s.dev.lk 15).silentHard = false ∧ 1000000 ≤ (s.now 5).since (s.dev.lk 15).statusAt ∧ s.dev.jobs.all (fun k => k.phase != .ending) = true)
    ∧ (let s := wPort .run 15 9 [(Reg.LINK_CFG_n.EN 15, 1)] id;
      let t : State := { s with dev := s.dev.modLk 15 fun l => { l with statusAt := 1 } };
      t.dev.portIsUp 15 = false ∧ (t.dev.lk 15).statusAt ≠ 0 ∧ t.dev.on (Reg.LINK_CFG_n.EN 15) = true)
    ∧ ((wLinkUp 2980000 wRow [(Reg.LINK_STAT_n.SILENT 15, 1)] id).dev.on (Reg.LINK_STAT_n.SILENT 15) = true)
    ∧ (let s := wLinkUp 2980000 wRow [(Reg.LINK_STAT_n.HOT 15, 1), (Reg.LINK_STAT_n.HOT_ROWS 15, 1)] fun k => { k with coolSince := some 0 };
      s.dev.on (Reg.LINK_STAT_n.HOT 15) = true ∧ s.dev.on (Reg.LINK_STAT_n.HOT_ROWS 15) = true ∧ 1000000 ≤ (s.now 5).since (s.dev.lk 15).capAt
      ∧ (s.dev.lk 15).coolSince = some 0 ∧ s.dev.on (Reg.LINK_STAT_n.SILENT 15) = false ∧ 100000000 ≤ (s.now 100000000).since 0)
    ∧ (let s := wLinkUp 2980000 wRow [] fun k => { k with hardCool := some 0, halted := true };
      (s.dev.lk 15).hardCool = some 0 ∧ (s.dev.lk 15).halted = true ∧ (s.dev.lk 15).queue = [] ∧ s.dev.on (Reg.LINK_STAT_n.SILENT 15) = false
      ∧ 100000000 ≤ (s.now 100000000).since 0 ∧ s.dev.resumeLine 15 = some (wLong, 24))
    ∧ (∀ v ∈ [8, 200], ((wCmd .hold id).now 5).acceptsParam 0 (param 0x9001 [v, 0, 0, 0] 0) 0x9001 readyRunHold true = true
      ∧ valueExtra (param 0x9001 [v, 0, 0, 0] 0) [0xFF, 0, 0, 0] = none)
    ∧ (∀ w ∈ wStatusMsg 240, w < 2 ^ 64) ∧ 2 * 1 < (wStatusMsg 240).length := by decide +kernel

/-! ### Network time -/

/-- Tracker 1 is enabled on port 1, domain 5, LOCKED or in a state; the port's link is up. -/
def wTime (m : Mode) (state : Nat) (l : List (Fld × Nat)) (f : Tracker → Tracker) : State :=
  wCmd m fun d => { puts ([(Reg.TIME_TRK_CFG_t.EN 1, 1), (Reg.TIME_TRK_CFG_t.PORT 1, 1), (Reg.TIME_TRK_CFG_t.DOMAIN 1, 5), (Reg.TIME_TRK_STAT_t.STATE 1, state),
      (Reg.TIME_PORT_CNT_p.LINK 0, 1), (Reg.TIME_PORT_CNT_p.LINK 1, 1)] ++ l) d with
    time := { d.time with trks := modAt d.time.trks 1 f } }
def wAnn : PtpAnnounce := ⟨5, 77, 0, 128, 6, 0x20, 0, 128, 99, 0⟩
def wPtp (req : Nat) : Ptp := ⟨5, 77, 9, true, 3, 1000, req⟩

theorem witness_TrackersFollowTheirMasters :
    (let s := wTime .run 1 [] id;
      s.dev.trksOf 1 wAnn.domain = [1] ∧ 1 < s.dev.time.trks.length)
    ∧ (let s := wTime .run 1 [] fun x => { x with best := some 77 };
      s.dev.trksOf 1 (wPtp 0).domain = [1] ∧ (s.dev.trk 1).best = some (wPtp 0).source ∧ (wPtp 0).twoStep = true)
    ∧ (let s := wTime .run 2 [] fun x => { x with best := some 77, two := some (9, 65536, 0) };
      (s.dev.trk 1).two = some ((wPtp 0).seq, 65536, 0) ∧ s.dev.isSource 1 = false)
    ∧ (let s := wTime .run 2 [(Reg.TIME_STAT.SRC_NOW, 2), (Reg.TIME_SERVO.STEP_LIM, 0)] fun x => { x with best := some 77, two := some (9, 65536, 0) };
      s.dev.trksOf 1 (wPtp 0).domain = [1] ∧ (s.dev.trk 1).two = some ((wPtp 0).seq, 65536, 0) ∧ s.dev.isSource 1 = true ∧ s.dev.trkState 1 = 2
      ∧ s.dev.on Reg.TIME_STAT.SLEWING = false ∧ (s.dev.trk 1).steerAt = none ∧ s.dev.get Reg.TIME_SERVO.STEP_LIM = 0)
    ∧ (let s := wTime .run 2 [] fun x => { x with best := some 77, asked := some (9, 65536) };
      s.dev.trkP2p 1 = false ∧ (s.dev.trk 1).asked = some ((wPtp 0).seq, 65536) ∧ s.dev.ptpOn (s.dev.trkPort 1) = true ∧ s.dev.trkOn 1 = true
      ∧ (s.dev.trk 1).best.isSome = true ∧ s.dev.get (Reg.TIME_TRK_CFG_t.SYNC_TMO 1) * 10000000 ≤ (s.now (2 ^ 50)).since (s.dev.trk 1).syncAt
      ∧ s.dev.trkState 1 = 2 ∧ s.dev.isSource 1 = false)
    ∧ (let s := wTime .run 2 [(Reg.TIME_STAT.SRC_NOW, 2)] fun x => { x with best := some 77 };
      s.dev.isSource 1 = true ∧ s.dev.time.slew = none ∧ s.dev.on Reg.TIME_CFG.AUTO_SWITCH = false)
    ∧ (let s := wTime .run 2 [(Reg.TIME_TRK_CFG_t.P2P 1, 1)] fun x => { x with asked := some (9, 65536), peer := some (1, 2, 3) };
      s.dev.trksOf 1 (wPtp 0).domain = [1] ∧ s.dev.trkP2p 1 = true ∧ (s.dev.trk 1).asked = some ((wPtp 0).seq, 65536)
      ∧ (s.dev.trk 1).peer = some (1, 2, 3)) := by decide +kernel

theorem witness_TrackersFollowTheirMasters_ports :
    (∀ n, ((wTime .run 2 [(Reg.TIME_STAT.SRC_NOW, 2)] id).dev.lk n).queue = [])
    ∧ (let s := wTime .run 2 [] id; s.dev.mode ≠ .off ∧ s.dev.on (Reg.TIME_PORT_CNT_p.LINK 1) = true ∧ s.dev.trkOn 1 = true ∧ s.dev.trkPort 1 = 1
      ∧ s.dev.trkState 1 = 2 ∧ s.dev.mode.served = true)
    ∧ (let s := wTime .run 2 [(Reg.TIME_PORT_CNT_p.LINK 0, 0)] id; s.dev.mode.served = true ∧ s.dev.on (Reg.TIME_PORT_CNT_p.LINK 0) = false) :=
  ⟨queues_empty _ (by decide +kernel), by decide +kernel⟩

/-- The clock identity is opaque: an answer carries it as it stands. -/
theorem witness_TrackersFollowTheirMasters_requester (p : Nat) : (wPtp (portIdentity p)).requester = portIdentity p := rfl

theorem witness_TimeIsServedAndSwitched_queues :
    ∀ n, ((wTime .ready 2 [] id).dev.lk n).queue = [] := queues_empty _ (by decide +kernel)

theorem witness_TimeIsServedAndSwitched :
    (let s := wTime .ready 2 [(Reg.TIME_CFG.DRV_ROLE, 1), (Reg.TIME_CFG.DRV_DOMAIN, 5)] id;
      (s.now 5).drvMaster = true
      ∧ (s.dev.time.syncTx.any fun x => decide ((s.now 5).since x < logSeconds (signedOf 4 (s.dev.get Reg.TIME_CFG.LOG_SYNC)))) = false
      ∧ s.dev.on Reg.TIME_GM.P2P = false ∧ (wPtp 0).domain = s.dev.get Reg.TIME_CFG.DRV_DOMAIN)
    ∧ (wTime .ready 2 [(Reg.TIME_TRK_CFG_t.P2P 1, 1)] id).dev.peerPort 1 (wPtp 0).domain = true
    ∧ (wTime .ready 2 [(Reg.TIME_CFG.DRV_ROLE, 1), (Reg.TIME_GM.P2P, 1), (Reg.TIME_CFG.DRV_DOMAIN, 5)] id).dev.peerPort 0 (wPtp 0).domain = true
    ∧ ((State.reset.now 1000000000).readTime / 1000000000 ≠ State.reset.dev.time.second)
    ∧ (let s := wTime .ready 2 [] id; let t : State := { s with dev := { s.dev with time := { s.dev.time with slew := some ⟨50, 7, 0, 1, 2, 3, 50⟩ } } };
      t.dev.time.slew = some ⟨50, 7, 0, 1, 2, 3, 50⟩ ∧ t.dev.mode.served = true ∧ 50 ≤ (t.now 50).since (fieldOf 64 (((50 : Nat) : Int) - (50 : Nat))))
    ∧ (∀ v ∈ [0, 2], let s := wTime .ready 2 [] id; let x := param 0x4001 [v, 0, 0, 0] 0;
      (s.now 5).acceptsParam 0 x 0x4001 allServed true = true ∧ x.w 6 ≤ 2 ∧ x.w 7 = 0 ∧ x.w 8 = 0 ∧ x.w 9 = 0 ∧ s.dev.get Reg.TIME_CFG.DRV_ROLE ≠ 2
      ∧ s.dev.drvFollows = false ∧ (x.w 6 = 0 ∨ s.dev.trkState (x.w 6 - 1) = 2)) := by decide +kernel

/-! ### Ring, cascade, duplex -/

/-- A ring of 4 nodes with both ports up; this node is member `m`, unit 0. -/
def wRing (md : Mode) (m : Nat) (l : List (Fld × Nat)) (f : Dev → Dev) : State :=
  wCmd md fun d => f { puts ([(Reg.RING_CFG.EN, 1), (Reg.RING_CFG.NODES, 4), (Reg.RING_CFG.RING_ID, 9), (Reg.RING_NODE.MEMBER, m),
    (Reg.LANE_PORT_STAT_p.STATE 18, 6), (Reg.LANE_PORT_STAT_p.STATE 19, 6), (Reg.LANE_PORT_CFG_p.EN 18, 1), (Reg.LANE_PORT_CFG_p.EN 19, 1)] ++ l) d with jobs := [wJob 1 .live] }

/-- A message with its CRC: TYPE, SRC, DST, broadcast, ACTIVE, SEQ, ring 9. -/
def wMsg (type src dst : Nat) (bcast active : Bool) (seq : Nat) (payload : List Nat) : List (BitVec 64) :=
  let ws := (type + src * 2 ^ 8 + dst * 2 ^ 12 + b2n bcast * 2 ^ 16 + b2n active * 2 ^ 26 + seq * 2 ^ 32 + 9 * 2 ^ 48) :: payload
  (ws ++ [ringCrc ws]).map (BitVec.ofNat 64)
def wHead (words : List (BitVec 64)) : RingHead := headOf (words.headD 0).toNat

theorem witness_RingMessagesAreTakenAndSent_beat :
    (wRing .run 1 [] id).hears 5 19 3 (wMsg 3 15 0 true true 1 [7, 8]) (wHead (wMsg 3 15 0 true true 1 [7, 8]))
    ∧ (wRing .run 1 [] id).dev.brings 19 4 (stripe 2 4 ((wMsg 3 15 0 true true 1 [7, 8]).map BitVec.toNat)) ((wMsg 3 15 0 true true 1 [7, 8]).map BitVec.toNat)
      = true
    ∧ (wRing .run 1 [] id).dev.duplexed = false ∧ (wRing .run 1 [] id).dev.net.nodes.length = 16 := by
  unfold State.hears; decide +kernel

theorem witness_RingMessagesAreTakenAndSent_stop :
    (wRing .run 0 [] id).hears 5 18 4 (wMsg 4 15 0 false true 1 [1]) (wHead (wMsg 4 15 0 false true 1 [1]))
    ∧ (wRing .run 0 [] id).hears 5 18 5 (wMsg 5 15 0 false true 1 [1 + 3 * 2 ^ 8 + 2 ^ 40]) (wHead (wMsg 5 15 0 false true 1 [1 + 3 * 2 ^ 8 + 2 ^ 40])) := by
  unfold State.hears; decide +kernel

/-- A partner: the expected CFG_CRC, sub-state ACTIVE. -/
def wDuplex (md : Mode) (x : Duplex) (l : List (Fld × Nat)) (f : Dev → Dev) : State := wRing md 0 ([(Reg.RING_CFG.PARTNER, 1)] ++ l) fun d => f { d with duplex := x }
def wPartnerRoll (s : State) (sub : Nat) : List (BitVec 64) := wMsg 1 1 0 true true 1 [sub * 2 ^ 20 + s.dev.partnerCrc * 2 ^ 32]

theorem witness_RingMessagesAreTakenAndSent_roll :
    (wDuplex .ready .active [] id).hears 5 18 1 (wPartnerRoll (wDuplex .ready .active [] id) 2) (wHead (wPartnerRoll (wDuplex .ready .active [] id) 2))
    ∧ (let s := wDuplex .ready .active [] id; let ws := wPartnerRoll s 2;
      s.dev.duplexed = true ∧ (wHead ws).src = s.dev.partnerNode ∧ msgWord ws 1 / 2 ^ 32 = s.dev.partnerCrc ∧ bitsOf (msgWord ws 1) 20 2 ≠ 3) := by
  unfold State.hears; decide +kernel

def wPw : List (BitVec 64) := wMsg 2 1 0 true true 1 [512 + 3 * 2 ^ 48, 0, 0]
def wFollower : State := wRing .run 1 [] fun d => { d with pos := { d.pos with pw := 256, hist := [wSample] } }

theorem witness_RingMessagesAreTakenAndSent_pw :
    wFollower.hears 5 18 2 wPw (wHead wPw)
    ∧ ((wHead wPw).src < 2 ∧ wFollower.dev.follower = true ∧ (wHead wPw).active = true ∧ bitsOf (msgWord wPw 2) 32 3 = 0 ∧ wFollower.dev.latest = some wSample
      ∧ wSample.pw ≠ bitsOf (msgWord wPw 1) 0 48 ∧ wFollower.dev.nextStaged = none ∧ wFollower.dev.net.sync = none ∧ wFollower.dev.pos.cal = [] ∧ wFollower.dev.host.deferred = []
      ∧ wFollower.dev.jobs.all (fun j => j.lastFrame.isNone) = true
      ∧ wFollower.dev.linksOn.all (fun m => !wFollower.dev.on (Reg.LINK_STAT_n.SILENT m)) = true) := by
  unfold State.hears; decide +kernel

theorem witness_RingMessagesAreTakenAndSent :
    (let s := wRing .run 0 [] id; let ws := wMsg 3 15 3 false true 1 [7, 8];
      s.dev.ringPort 18 = true ∧ s.dev.brings 18 4 (stripe 2 4 (ws.map BitVec.toNat)) (ws.map BitVec.toNat) = true
      ∧ (s.dev.ringQueue 18 = [] ∧ s.dev.ringQueue 19 = [] ∧ s.dev.portSends 19 = true ∧ s.dev.on (Reg.LANE_PORT_STAT_p.TX_IDLE 19) = false
        ∧ s.dev.ringBusy 19 ≤ (s.now 5).tb * 65536 ∧ (s.dev.port 19).trainTo ≤ (s.now 5).tb)
      ∧ 2 ≤ ws.length ∧ (headOf (ws.headD 0).toNat).type = 3 ∧ (ws.getLastD 0).toNat = ringCrc ((ws.map BitVec.toNat).dropLast)
      ∧ bitsOf (ws.headD 0).toNat 48 16 = s.dev.get Reg.RING_CFG.RING_ID ∧ (headOf (ws.headD 0).toNat).src ≠ s.dev.node
      ∧ (headOf (ws.headD 0).toNat).bcast = false ∧ s.dev.forwards 18 (headOf (ws.headD 0).toNat) = true ∧ s.dev.portIsUp (37 - 18) = true
      ∧ (([3, 4] : List (BitVec 64)).getLastD 0).toNat ≠ ringCrc ((([3, 4] : List (BitVec 64)).map BitVec.toNat).dropLast)
      ∧ (headOf (([3, 4] : List (BitVec 64)).headD 0).toNat).type = 3)
    ∧ (let s := wRing .run 0 [(Reg.RING_ROSTER.PRESENT, 2 ^ 15)] fun d => { d with net := { d.net with nodes := modAt d.net.nodes 15 fun n => { n with beatAt := some 0 } } };
      s.dev.on Reg.RING_CFG.EN = true ∧ s.dev.mode.served = true ∧ bitOf (s.dev.get Reg.RING_ROSTER.PRESENT) 15 = true
      ∧ ((s.dev.nodeSt 15).beatAt.any fun x => decide (6000 ≤ (s.now 6000).since x)) = true ∧ s.dev.net.nodes.length = 16)
    ∧ (let s := wRing .run 0 [] id;
      s.dev.portIsUp 18 = true ∧ s.dev.portIsUp 19 = true ∧ s.dev.duplexed = false ∧ s.dev.net.yieldAt = none ∧ 2000 ≤ (s.now 1000000).since s.dev.net.beatAt
      ∧ 1000000 ≤ (s.now 1000000).since s.dev.net.rollAt ∧ s.dev.get Reg.RING_NODE.MEMBER = 0 ∧ (s.now 1000).tb / 1000 ≠ s.dev.net.pwAt / 1000)
    ∧ (let s := wRing .run 1 [] id; let ws := wMsg 1 2 0 true true 7 [0];
      s.dev.ringPort 18 = true ∧ (headOf (ws.headD 0).toNat).type = 1 ∧ (headOf (ws.headD 0).toNat).src = s.dev.node
      ∧ (ws.getLastD 0).toNat = ringCrc ((ws.map BitVec.toNat).dropLast) ∧ bitsOf (ws.headD 0).toNat 48 16 = s.dev.get Reg.RING_CFG.RING_ID
      ∧ bitOf s.dev.net.conflict s.dev.node = false ∧ 
      (s.dev.net.rolls.any fun x => x.1 == (headOf (ws.headD 0).toNat).seq && decide ((s.now 5).since x.2 ≤ 1000000)) = false) := by decide +kernel

theorem witness_RingMessagesAreTakenAndSent_more :
    (let s := wRing .run 1 [(Reg.RING_ROSTER.PRESENT, 2)] id;
      s.dev.follower = true ∧ 2000 ≤ (s.now 2000).since s.dev.net.activeAt
      ∧ ((List.range 2).find? fun n => bitOf (s.dev.get Reg.RING_ROSTER.PRESENT) n && !(s.dev.nodeSt n).active) = some 1)
    ∧ (let s := wRing .run 0 [] fun d => { d with linen := { d.linen with v := 5 } }; let h := wHead (wMsg 5 15 0 false true 1 [1 + 3 * 2 ^ 8 + 2 ^ 40]);
      s.dev.follower = false ∧ s.dev.active = true ∧ s.dev.mode.printing = true ∧ s.dev.linen.v ≠ 0 ∧ s.dev.linen.stop = none ∧ 2 ≤ h.src
      ∧ (s.dev.job? (bitsOf (msgWord (wMsg 5 15 0 false true 1 [1 + 3 * 2 ^ 8 + 2 ^ 40]) 1) 0 8)).isSome = true)
    ∧ (let s := wRing .run 0 [] id; s.dev.ringPort 19 = true ∧ s.dev.net.hopAt.getD (19 - 18) 0 = 0)
    ∧ (∀ b ∈ [0, 1], let s := wRing .run 0 [] fun d => { d with net := { d.net with asked := [(19, 4, 100)], hops := List.replicate 15 (19, 5) } };
      let ws := wMsg 12 15 0 false true 1 [b + 4 * 2 ^ 16, 20]; let h := headOf (ws.headD 0).toNat;
      2 ≤ ws.length ∧ h.type = 12 ∧ (ws.getLastD 0).toNat = ringCrc ((ws.map BitVec.toNat).dropLast)
      ∧ bitsOf (ws.headD 0).toNat 48 16 = s.dev.get Reg.RING_CFG.RING_ID ∧ h.hops = 0 ∧ h.src ≠ s.dev.node ∧ bitOf s.dev.net.conflict h.src = false
      ∧ bitOf ((ws.getD 1 0).toNat) 0 = (b == 1)
      ∧ (s.dev.net.asked.find? fun x => x.1 == 19 && x.2.1 == bitsOf (ws.getD 1 0).toNat 16 16) = some (19, 4, 100)
      ∧ (s.dev.net.hops.filter fun x => x.1 == 19).length = 15
      ∧ (h.bcast = true ∨ h.dst = s.dev.node) ∧ (s.now 5).firstCopy h = true ∧ s.dev.ringQueue 18 = [] ∧ s.dev.ringQueue 19 = [])
    ∧ (let q : List (Nat × List Nat) := [(0, [2]), (0, [3])]; q.Pairwise (fun a b => ringRank a.2 ≤ ringRank b.2)
      ∧ ∀ x ∈ q, ringRank x.2 ≤ ringRank [3]) := by decide +kernel

/-! ### Leases, roles, arbitration, synchronisation -/

/-- A lease frame of the partner, node 1: epoch, flags (ACTIVE 1, YIELD 2, STANDBY 4, LEASE_VALID 8), LEASE_REM 8000. -/
def wLease (epoch flags : Nat) : List Nat :=
  let b := [1 + 16 * epoch, flags, 0, 0, 0, 0] ++ leBytes 2 8000
  b ++ leBytes 2 (crc16 b)

theorem witness_LeasesRolesAndHandover :
    (∀ f ∈ [wLease 3 9, wLease 3 2], let s := wDuplex .run .standby [] id;
      s.dev.duplexed = true ∧ s.dev.mode.printing = true ∧ f.length = 10 ∧ natBytes (wBytes f) = f ∧ leAt f 8 2 = crc16 (f.take 8)
      ∧ leAt f 0 1 % 16 = s.dev.partnerNode ∧ s.dev.net.linkLost = false ∧ s.dev.net.waitAt = none ∧ s.dev.active = false ∧ s.dev.duplex = .standby)
    ∧ (bitOf (leAt (wLease 3 9) 1 1) 0 = true ∧ bitOf (leAt (wLease 3 9) 1 1) 1 = false ∧ bitOf (leAt (wLease 3 9) 1 1) 3 = true
      ∧ bitOf (leAt (wLease 3 2) 1 1) 1 = true)
    ∧ (let s := wDuplex .run .active [] fun d => { d with net := { d.net with partner := 2 } };
      s.dev.active = true ∧ newerEpoch (leAt (wLease 3 9) 0 1 / 16) (s.dev.get Reg.RING_STAT.EPOCH) = true ∧ s.dev.net.partner = 2
      ∧ 10000 ≤ (s.now 10000).since s.dev.net.leaseAt ∧ s.dev.mode.served = true ∧ 2000 ≤ (s.now 2000).since s.dev.net.leaseTx ∧ s.dev.net.yieldAt = none)
    ∧ (let s := wDuplex .run .standby [] fun d => { d with linen := { d.linen with frame := some (zeros 24), cycle := 10000 } };
      s.dev.duplexed = true ∧ s.dev.mode.printing = true ∧ s.dev.duplex = .standby ∧ (s.now (2 ^ 30)).ringHears = false ∧ (s.now (2 ^ 30)).linkHears = false
      ∧ s.dev.net.untold = [] ∧ s.dev.get Reg.TIME_STAT.SRC_NOW ≠ 3 ∧ s.dev.linen.frame.isSome = true
      ∧ (s.now (2 ^ 30)).readTime / s.dev.servoT + 1 ≤ s.dev.linen.cycle)
    ∧ (let s := wDuplex .run .standby [] fun d => { d with net := { d.net with nodes := modAt d.net.nodes 1 fun n => { n with beatAt := some (2 ^ 30), active := true } } };
      (s.now (2 ^ 30)).ringHears = true ∧ (s.now (2 ^ 30)).linkHears = false ∧ s.dev.net.linkLost = false ∧ s.dev.net.waitAt = none ∧ s.dev.net.leaseEnd = none)
    ∧ (let s := wDuplex .ready .syncing [] fun d => { d with net := { d.net with waitAt := some 0 } };
      s.dev.mode.printing = true ∧ s.dev.net.waitAt = some 0 ∧ 100000000 ≤ (s.now 100000000).since 0 ∧ s.dev.net.untold = []
      ∧ s.dev.get Reg.TIME_STAT.SRC_NOW ≠ 3)
    ∧ (∀ m ∈ [Mode.run, .hold], let s := wDuplex m .active [] fun d => { d with net := { d.net with partner := 2 } };
      (s.now 5).acceptsParam 0 (param 0x7001 [0, 0, 0, 0] 0) 0x7001 [.run, .hold] true = true
      ∧ valueExtra (param 0x7001 [0, 0, 0, 0] 0) [0, 0, 0, 0] = none ∧ s.dev.duplexed = true ∧ s.dev.active = true ∧ s.dev.net.partner = 2
      ∧ s.dev.net.handover = none)
    ∧ (let s := wDuplex .run .standby [] fun d => { d with net := { d.net with link := some (100000000, true, false, false, true, 8000) } };
      s.dev.duplex = .standby ∧ s.dev.on Reg.RING_CFG.STBY_TEST = true ∧ 100000000 ≤ (s.now 100000000).since s.dev.net.testAt ∧ s.dev.net.testOnly = false
      ∧ (s.dev.linksOn.all fun n => s.dev.portIsUp n && decide ((s.dev.lk n).fit = 2)) = true
      ∧ (s.now 100000000).linkHears = true) := by decide +kernel

/-- A line-check summary of line 3 of job 1, one link; the own one with another CRC. -/
def wLcs : List (BitVec 64) := wMsg 6 1 0 true true 1 [3 + 2 ^ 40 + 2 ^ 48, 77]
def wMine : Summary := ⟨1, 3, [(0, 78)]⟩
def wArb : Arb := ⟨6, 0, [(1, 3)], none, none⟩
def wArbiter : List (BitVec 64) := wMsg 8 1 0 true true 1 [6 * 2 ^ 16 + 1]

theorem witness_PartnersCompareAndSynchronise_messages :
    (wDuplex .run .standby [] id).hears 5 18 6 wLcs (wHead wLcs) ∧ (wDuplex .run .active [] id).hears 5 18 7 (wMsg 7 1 0 true true 1 [3 + 2 ^ 40])
      (wHead (wMsg 7 1 0 true true 1 [3 + 2 ^ 40]))
    ∧ (wDuplex .run .active [] id).hears 5 18 8 wArbiter (wHead wArbiter) := by
  unfold State.hears; decide +kernel

theorem witness_PartnersCompareAndSynchronise_records :
    (∀ t ∈ [9, 10], (wDuplex .run .standby [] id).fromPartner 5 18 t (wMsg t 1 0 true true 1 []) (wHead (wMsg t 1 0 true true 1 [])))
    ∧ (wDuplex .ready .syncing [] id).fromPartner 5 18 11 (wMsg 11 1 0 true true 1 []) (wHead (wMsg 11 1 0 true true 1 [])) := by
  unfold State.fromPartner State.hears; decide +kernel

theorem witness_PartnersCompareAndSynchronise :
    (let s := wDuplex .run .standby [] fun d => { d with net := { d.net with mine := [wMine] } };
      s.dev.duplexed = true ∧ (wHead wLcs).src = s.dev.partnerNode ∧ s.dev.mode.printing = true ∧ s.dev.active = false
      ∧ s.dev.net.theirs.any (fun x => x.tag == bitsOf (msgWord wLcs 1) 40 8 && x.line == msgWord wLcs 1 % 2 ^ 40) = false
      ∧ (s.dev.net.mine.find? fun x => x.tag == bitsOf (msgWord wLcs 1) 40 8 && x.line == msgWord wLcs 1 % 2 ^ 40) = some wMine
      ∧ (wDuplex .run .standby [] id).dev.net.mine = [] ∧ s.dev.net.arb = none
      ∧ summariesDiffer wMine.links (lcsLinks (bitsOf (msgWord wLcs 1) 48 16) (((wLcs.map BitVec.toNat).dropLast).drop 2)) ≠ 0)
    ∧ ((wDuplex .run .active [] id).dev.active = true ∧ (wDuplex .run .active [] id).dev.net.arb = none)
    ∧ (5000 ≤ ((wDuplex .run .active [] id).now 5000).since wArb.at_ ∧ (wDuplex .run .active [] id).dev.net.sync = none
      ∧ ¬(1 = (wDuplex .run .active [] id).dev.get Reg.GLB_ID.STEPPING ∧ 0xFFFF = (wDuplex .run .active [] id).dev.get Reg.SVC_FW_VER.VERSION))
    ∧ (∀ own ∈ [none, some 7], let s := wDuplex .run .active [] fun d => { d with net := { d.net with arb := some { wArb with own := own } } };
      s.dev.net.arb = some { wArb with own := own } ∧ wArb.partner = none ∧ 10000 ≤ (s.now 10000).since wArb.at_ ∧ s.dev.active = true
      ∧ bitOf 7 2 = true ∧ bitsOf (msgWord wArbiter 1) 16 16 = wArb.seq ∧ bitOf (msgWord wArbiter 1) 2 = false)
    ∧ ((wDuplex .run .standby [] id).dev.net.sync = none ∧ (wDuplex .run .standby [] id).dev.live?.isSome = true)
    ∧ (let s := wDuplex .ready .syncing [] fun d => { d with net := { d.net with sync := some ⟨1, 0, 0, false, false⟩ } };
      s.dev.mode = .ready ∧ s.dev.active = false ∧ s.dev.net.sync = some ⟨1, 0, 0, false, false⟩ ∧ s.dev.liveThere = none) := by decide +kernel

/-! ### Memories, verdicts, CRC units -/

def wDone (m : Mode) (l : List (Fld × Nat)) (f : EccSt → EccSt) : State :=
  wCmd m fun d => { puts ([(Reg.MEM_FILL.SRAM_DONE, 1), (Reg.MEM_FILL.DRAM_DONE, 1)] ++ l) d with ecc := f d.ecc }
def wWord : SramWord := ⟨5, 0, 255, 4095, 4095, 16376, false⟩

theorem witness_ScrubFindsRepairsAndPoisons :
    (let s := wDone .run [] id;
      s.dev.mode ≠ .off ∧ s.dev.on Reg.MEM_FILL.SRAM_DONE = true ∧ s.dev.get Reg.MEM_SCRUB_CFG.SRAM_S ≠ 0
      ∧ (s.now 5).since s.dev.ecc.sramAt < s.dev.get Reg.MEM_SCRUB_CFG.SRAM_S * 1000000000 ∧ s.dev.ecc.ceSeen.contains wWord.index = false
      ∧ sramWordOk wWord = true ∧ (kvGet s.dev.ecc.sramNext wWord.index).getD 0 ≤ wWord.offset ∧ scrubOk (.ce 72 false) 72 = true
      ∧ scrubOk (.ce 73 false) 72 = false
      ∧ s.dev.get Reg.MEM_SCRUB_CFG.SRAM_S * 1000000000 ≤ (s.now (2 ^ 60)).since s.dev.ecc.sramAt)
    ∧ (let s := wDone .safe [] id;
      s.dev.mode ≠ .off ∧ s.dev.on Reg.MEM_FILL.DRAM_DONE = true ∧ s.dev.get Reg.MEM_SCRUB_CFG.DRAM_H ≠ 0
      ∧ (s.now 5).since s.dev.ecc.dramAt < s.dev.get Reg.MEM_SCRUB_CFG.DRAM_H * 3600000000000 ∧ s.dev.on Reg.MEM_DRAM_STAT.SELF_REF = false
      ∧ s.dev.ecc.ceSeen.contains (4096 + 32 * dramChan 0x3FFFFFFC0 + dramBank 0x3FFFFFFC0) = false)
    ∧ (let s := wDone .run [] fun e => { e with sramNext := [(4095, 16384)] };
      wWord.offset < (kvGet s.dev.ecc.sramNext wWord.index).getD 0)
    ∧ ((wDone .run [] id).dev.ecc.dramNext ≤ 0x3FFFFFFC0 ∧ 0x3FFFFFFC0 < 0x400000000)
    ∧ (wDone .ready [(Reg.MEM_DRAM_STAT.SELF_REF, 1)] id).dev.on Reg.MEM_DRAM_STAT.SELF_REF = true
    ∧ (((wDone .setup [] id).now 5).acceptsParam 0 (param 0xC001 [0, 0, 0, 0] 0) 0xC001 [.setup] true = true
      ∧ valueExtra (param 0xC001 [0, 0, 0, 0] 0) [0, 0, 0, 0] = none) := by decide +kernel

theorem witness_ScrubFindsRepairsAndPoisons_datum :
    Datum.content 1 65535 7 ≠ .engine ∧ Datum.content 1 65535 7 ≠ .other ∧ ∀ n r tag line, Datum.content 1 65535 7 ≠ .lineStore n r tag line :=
  ⟨nofun, nofun, nofun⟩

/-- Pseudo-channel 31 has a read of port 10 waiting at 0x1F00, its row not open; the row has been activated 4,096 times. -/
def wWaits : DramWait := ⟨⟨10, false, 0x1F00⟩, 0, 0⟩
def wChans : State := wDone .run [] fun e =>
  { e with chans := setAt e.chans 31 ⟨[wWaits], [⟨4, true, 0x3F00⟩], [], false, [], 0, 0⟩, acts := [(31, 4096)] }

theorem witness_DramRefreshesTrainsAndRests_picks :
    (let s := wChans; let c := s.dev.pchan 31; let ok : DramReq → Bool := fun _ => true
      s.dev.mode ≠ .off ∧ s.dev.ecc.chans.length = 32 ∧ 2 ^ 63 ≤ (s.now 5).since (s.dev.ecc.slotAt.getD 31 0) ∧ s.dev.on Reg.MEM_DRAM_STAT.TRAINING = false
      ∧ s.dev.on Reg.MEM_DRAM_STAT.SELF_REF = false ∧ min (s.now 5).tb (c.last + 7) = 5 ∧ 5 / 32000000 ≤ s.dev.ecc.window ∧ c.busy ≤ 5
      ∧ c.pick (s.dev.ecc.owed.getD 31 0) (s.dev.get Reg.MEM_DRAM_REF.LIMIT) (s.dev.on Reg.MEM_DRAM_STAT.PANIC) 5 ok true = .read 0
      ∧ c.reads[0]? = some wWaits ∧ wWaits.req.port ≤ 10 ∧ (32 * (0x1F00 / 2 ^ 15) + 31 = 31 ∧ kvGet s.dev.ecc.acts 31 = some 4096)
      ∧ c.open_ (dramBank 0x1F00) ≠ some (dramRow 0x1F00) ∧ c.pick 8 8 false 5 ok true = .refresh
      ∧ { c with reads := [] }.pick 0 8 false 5 ok true = .write 0
      ∧ (c.write ⟨4, true, 0x3F1F⟩).writes = [⟨4, true, 0x3F1F⟩]) := by decide +kernel

def wSweep : Sweep := ⟨0, none, none, false, [wTicket 0x0F]⟩

theorem witness_DramRefreshesTrainsAndRests :
    (let s := wDone .run [] fun e => { e with owed := List.replicate 32 3 };
      s.dev.mode ≠ .off ∧ s.dev.ecc.owed.length = 32 ∧ s.dev.ecc.slotAt.length = 32 ∧ s.dev.on Reg.MEM_DRAM_STAT.SELF_REF = false
      ∧ (s.now 5000).since (s.dev.ecc.slotAt.getD 31 0) < 2 ^ 63 ∧ s.dev.ecc.cooling = false
      ∧ min (s.dev.get Reg.MEM_DRAM_REF.LIMIT) (s.dev.ecc.owed.getD 31 0 + 1) = 4 ∧ (s.dev.pchan 31).idle = true
      ∧ s.dev.ecc.chans.foldl (fun m c => max m c.writes.length) 0 ≤ 64 ∧ s.dev.ecc.window < (s.now 32000000).tb / 32000000)
    ∧ (let s := wDone .setup [] id;
      s.dev.mode ≠ .run ∧ s.dev.mode ≠ .off ∧ s.dev.get Reg.MEM_DRAM_CFG.IDLE_US ≠ 0 ∧ s.dev.ecc.sweep = none
      ∧ s.dev.on Reg.MEM_DRAM_STAT.SELF_REF = false ∧ s.dev.get Reg.MEM_DRAM_CFG.IDLE_US * 1000 ≤ (s.now (2 ^ 40)).since s.dev.ecc.lastReq
      ∧ s.dev.ecc.chans.all DramChan.idle = true)
    ∧ (let s := wDone .ready [(Reg.MEM_DRAM_STAT.SELF_REF, 1)] fun e => { e with heldScrubs := 1 };
      s.dev.on Reg.MEM_DRAM_STAT.SELF_REF = true ∧ 10000000 ≤ (s.now 10000000).since s.dev.ecc.srAt
      ∧ [(⟨64, .clean, .other, false⟩ : DramRead)].length = s.dev.ecc.heldScrubs)
    ∧ (∀ m ∈ [Mode.setup, .ready], let s := wDone m [] id;
      s.dev.live? = none ∧ s.dev.ecc.sweep = none ∧ (s.now 5).acceptsParam 0 (param 0xC003 [0, 0, 0, 0] 0) 0xC003 [.setup, .ready] true = true
      ∧ valueExtra (param 0xC003 [0, 0, 0, 0] 0) [0, 0, 0, 0] = none
      ∧ (s.now 5).acceptsParam 0 (param 0xC002 [1, 0, 0, 0] 0) 0xC002 [.setup, .ready] true = true
      ∧ valueExtra (param 0xC002 [1, 0, 0, 0] 0) [1, 0, 0, 0] = none)
    ∧ (let s := wDone .ready [] fun e => { e with sweep := some wSweep };
      s.dev.ecc.sweep = some wSweep ∧ s.dev.mode ≠ .off ∧ s.dev.mode ≠ .selftest ∧ wSweep.deferred = none ∧ wSweep.fallback = none
      ∧ s.dev.ecc.rdDelay.length = 128 ∧ s.dev.ecc.wrDelay.length = 128 ∧ 8 ≤ (longestRun (0xFF0 : BitVec 64).toNat).1
      ∧ (List.replicate 128 (0xFF0 : BitVec 64)).all (fun m => m == 0xFF0) = true ∧ ∀ k ∈ wSweep.tickets, k.ring < 32 ∧ k.op = 0x0F) := by decide +kernel

/-- Frame 0 of the live job has settled. -/
def wVerdict (v : Nat) : State := wCmd .run fun d => { d with
  jobs := [wJob 1 .live], chk := { d.chk with frames := [⟨1, 0, v, 1, some 4, 1, 2 ^ 20, true, true, 0, none, 0, false, none⟩] } }
def wCrcBlock : List Nat := [0x80000001, 64, 0, 8] ++ zeros 12
def wCrcRun : CrcRun := ⟨wTicket 0x0F, 0x1000, 0x80000001, 5, 0, 7, 7, true, 7, false⟩

theorem witness_VerdictsAndCrcRuns :
    (∀ v ∈ [vPass, vSuspect, vReject], let s := wVerdict v;
      s.dev.mode.printing = true ∧ s.dev.active = true ∧ s.dev.verdictDue = some (wJob 1 .live, 0) ∧ (s.dev.frame 1 0).verdict = v
      ∧ s.dev.jobs.all (fun k => k.phase != .ending) = true ∧ s.dev.on Reg.REC_RPL_CFG.EN = false)
    ∧ (let s := wCmd .run fun d => { d with chk := { d.chk with pulseEnd := some 5 } }; s.dev.chk.pulseEnd = some 5 ∧ 5 ≤ (s.now 5).tb)
    ∧ (let s := wCmd .hold id; let x := param 0xD001 [0x1000, 0, 0, 0] 0;
      (s.now 5).acceptsParam 0 x 0xD001 allServed true = true ∧ atFrame x = false ∧ (x.w 6 + 2 ^ 32 * x.w 7) % 64 = 0 ∧ x.w 8 = 0 ∧ x.w 9 = 0
      ∧ (wBytes ((wCrcBlock.map (leBytes 4)).flatten)).length = 64
      ∧ (List.range 16).map (fun i => leAt (natBytes (wBytes ((wCrcBlock.map (leBytes 4)).flatten))) (4 * i) 4) = wCrcBlock
      ∧ s.dev.crcBlockBad wCrcBlock = none)
    ∧ (let s := wCmd .hold fun d => { d with chk := { d.chk with runs := [wCrcRun] } };
      (s.dev.chk.runs.find? fun q => q.unit == 5) = some wCrcRun ∧ s.dev.mode.served = true ∧ wCrcRun.compare = true ∧ wCrcRun.result = wCrcRun.expect
      ∧ 5 < 8 ∧ wCrcRun.poison = false ∧ wCrcRun.ticket.ring < 32 ∧ wCrcRun.ticket.op = 0x0F) := by decide +kernel

/-! ### Clocks and calibration -/

def wClock (m : Mode) (l : List (Fld × Nat)) (f : ClkSt → ClkSt) : State :=
  wCmd m fun d => { puts (((List.range 9).map fun i => (clkBit i, 1)) ++ l) d with clk := f d.clk }

theorem witness_ClocksPllsAndOneSidedResets :
    (let s := wClock .run [] id;
      s.dev.mode ≠ .off ∧ s.dev.on Reg.SENSE_CLK_STAT.TREF_OK = true ∧ s.dev.clk.cal = none ∧ s.dev.mode.served = true ∧ s.dev.svc.pllsLocked = true
      ∧ s.dev.on (clkBit 2) = true ∧ s.dev.on (clkBit 5) = true ∧ s.dev.on (clkBit 7) = true ∧ s.dev.on (clkBit 8) = true ∧ s.dev.svc.up = true
      ∧ s.dev.on Reg.SENSE_CLK_STAT.LOCK_PCIE = true)
    ∧ ((wClock .run [(Reg.SENSE_CLK_STAT.TREF_OK, 0)] id).dev.on Reg.SENSE_CLK_STAT.TREF_OK = false)
    ∧ (let s := wClock .safe [(Reg.SENSE_CLK_STAT.LOCK_AUX, 0)] id;
      10000000 ≤ (s.now 10000000).since s.dev.clk.relockAt ∧ s.dev.on Reg.SENSE_CLK_STAT.CREF_OK = true
      ∧ [0, 2, 3, 4, 5, 6, 7, 8].all (fun i => s.dev.on (clkBit i)) = false)
    ∧ (let s := wPort .run 19 6 [] id;
      bitOf (2 ^ 19) 19 = true ∧ s.dev.on (Reg.LANE_PORT_CFG_p.EN 19) = true ∧ s.dev.get (Reg.LANE_PORT_STAT_p.STATE 19) ≠ 9) := by decide +kernel

/-- The lane PLL is locked with a port UP and no frame on its way; the web moves. -/
def wLanePll : State := wPort .run 19 6 ((List.range 9).map fun i => (clkBit i, 1)) id |> fun s => { s with dev := { s.dev with linen := { s.dev.linen with v := 5 } } }

theorem witness_ClocksPllsAndOneSidedResets_lanes :
    wLanePll.dev.mode.served = true ∧ wLanePll.dev.svc.pllsLocked = true ∧ wLanePll.dev.on (clkBit 7) = true ∧ wLanePll.dev.on (clkBit 8) = true
    ∧ wLanePll.dev.on (Reg.LANE_PORT_CFG_p.EN 19) = true ∧ wLanePll.dev.get (Reg.LANE_PORT_STAT_p.STATE 19) = 6 ∧ wLanePll.dev.linen.v ≠ 0 := by
  decide +kernel

theorem witness_ClocksPllsAndOneSidedResets_queues : ∀ n, (wLanePll.dev.lk n).queue = [] := queues_empty _ (by decide +kernel)

/-- Each twin in service is due; its 65,536 edges fall evenly into its 32 taps. -/
def wCal : CalRun := ⟨2, false, 0, [], 0, [], [wTicket 0x0F], [], 0⟩
def wCounts : List (Nat × List Nat) := (List.range 76).map fun k => (k, List.replicate 32 2048)

theorem witness_CalibrationRunsPassAndSwap :
    (∀ m ∈ [Mode.setup, .run], let s := wClock m [] id;
      (s.now 5).acceptsParam 0 (param 0x6801 [0, 0, 0, 0] 0) 0x6801 allServed true = true ∧ valueExtra (param 0x6801 [0, 0, 0, 0] 0) [0, 0, 0, 0] = none
      ∧ s.dev.clk.cal = none ∧ s.dev.on Reg.SENSE_CLK_STAT.TREF_OK = true)
    ∧ (∀ v ∈ [0, 2000], let s := wClock .hold [] fun c => { c with failed := some (0, 1), passTemps := List.replicate 16 0 };
      let t : State := { s with dev := { s.dev with sense := { s.dev.sense with hist := [(0, List.replicate 17 (v : Int))] } } };
      t.dev.clk.failed = some (0, 1) ∧ t.dev.clk.cal = none ∧ t.dev.mode ≠ .off ∧ 1000000000 ≤ (t.now 1000000000).since 0
      ∧ t.dev.calTrigger t.dev.clk.passTemps = (v == 2000) ∧ t.dev.on Reg.SENSE_CLK_STAT.TREF_OK = true)
    ∧ (let s := wClock .run [] fun c => { c with cal := some wCal };
      s.dev.clk.cal = some wCal ∧ s.dev.calTrigger wCal.temps = false
      ∧ (∀ k ∈ s.dev.calTwins wCal, (wCounts.find? fun x => x.1 == k) = some (k, List.replicate 32 2048))
      ∧ (List.replicate 32 2048).length = 32 ∧ (List.replicate 32 2048).foldl (· + ·) 0 = 65536 ∧ spreadBad (List.replicate 32 2048) = false
      ∧ twinGood (List.replicate 32 2048) = true ∧ (∀ k ∈ wCal.tickets, k.ring < 32 ∧ k.op = 0x0F))
    ∧ (let s := wClock .run [] fun c => { c with swapDue := 2 ^ 37 };
      bitOf s.dev.clk.swapDue 37 = true ∧ s.dev.clk.cal = none) := by decide +kernel

/-! ### Temperatures and mains -/

def wSense (m : Mode) (l : List (Fld × Nat)) (f : SenseSt → SenseSt) : State := wClock m l id |> fun s => { s with dev := { s.dev with sense := f s.dev.sense } }

/-- The sensors as a first sample of some readings judges them. -/
def wThermal (readings : List Int) : Dev :=
  let d := (wSense .run [] id).now 8000000
  let d := { d with sense := { d.sense with hist := [(8000000, readings)] } }
  (List.range 17).foldl (Dev.sensorStep d) d
def wRead (x y stack : Int) : List Int := [x, y] ++ List.replicate 14 0 ++ [stack]

theorem witness_TemperaturesThrottleAndShutDown :
    (let s := wSense .run [] id;
      s.dev.mode ≠ .off ∧ s.dev.svc.pllsLocked = true ∧ s.dev.sense.hist.head? = none ∧ s.dev.sense.next = [] ∧ s.dev.get Reg.SENSE_THERM_STAT.LEVEL ≤ 15
      ∧ s.dev.sense.sensors.length = 17 ∧ s.dev.sense.trig = 0 ∧ 4 * s.dev.get Reg.SENSE_THERM_CFG.THR = 400 ∧ (wRead 0 0 0).length = 17) := by decide +kernel

theorem witness_TemperaturesThrottleAndShutDown_hot : ((wThermal (wRead 460 0 0)).sensor 0).broken = false := by decide +kernel

theorem witness_TemperaturesThrottleAndShutDown_stack : ((wThermal (wRead 0 0 420)).sensor 16).broken = false := by decide +kernel

theorem witness_TemperaturesThrottleAndShutDown_broken :
    ([0, 1].all fun n => ((wThermal (wRead 601 (-221) 0)).sensor n).broken) = true ∧ ([0, 1] : List Nat) ∈ sensorGroups := by decide +kernel

theorem witness_TemperaturesThrottleAndShutDown_fast :
    ((wThermal (wRead 380 0 0)).sensor 0).broken = false ∧ ((wThermal (wRead 376 0 0)).sensor 0).broken = false := by decide +kernel

theorem witness_TemperaturesThrottleAndShutDown_again :
    let s := wSense .run [] fun d => { d with sensors := setAt d.sensors 3 ⟨true, false, 0, 0, false⟩ };
    (s.dev.sensor 3).broken = true ∧ 10000000000 ≤ (s.now 10000000000).since (s.dev.sensor 3).inRange ∧ (s.dev.sensor 3).stuck = false := by
  decide +kernel

/-- A shutdown record of SEQ 5, not acknowledged. -/
def wRecord : ShutRec := ⟨5, 1, 0, 0, 1, 0, 5, false, 100, 0, wRead 470 0 0, 0, 0, 0, 0⟩
def wShut (m : Mode) (stack : Int) : State := wSense m [] fun d => { d with shut := [some wRecord, none], hist := [(0, wRead 0 0 stack)] }

theorem witness_ShutdownIsAcknowledgedAndSenseParams :
    (∀ m ∈ [Mode.safe, .setup], (wShut m 0).dev.mode = m ∧ bitOf 0x10005 16 = true ∧ (wShut m 0).dev.shutRecord = some wRecord
      ∧ 0x10005 % 65536 = wRecord.seq % 65536 ∧ (∀ n < 16, ((wShut m 0).dev.sensor n).broken = false
        ∧ (wShut m 0).dev.reading n < 4 * ((wShut m 0).dev.get Reg.SENSE_THERM_CFG.THR : Nat) - 40)
      ∧ ((wShut m 0).dev.sensor 16).broken = false ∧ (wShut m 0).dev.reading 16 < 4 * ((wShut m 0).dev.get Reg.SENSE_THERM_CFG.STACK_THR : Nat) - 40
      ∧ 0x10004 % 65536 ≠ wRecord.seq % 65536
      ∧ 4 * ((wShut m 340).dev.get Reg.SENSE_THERM_CFG.STACK_THR : Nat) - 40 ≤ (wShut m 340).dev.reading 16)
    ∧ ((wShut .hold 0).dev.mode ≠ .safe ∧ (wShut .hold 0).dev.mode ≠ .setup)
    ∧ (∀ x ∈ [param 0x6000 [70 + 100 * 2 ^ 8 + 2 ^ 16, 0, 0, 0] 0, param 0x6000 [69 + 100 * 2 ^ 8 + 2 ^ 16, 0, 0, 0] 0,
        param 0x6094 [98 + 99 * 2 ^ 8, 0, 0, 0] 0, param 0x6094 [99 + 99 * 2 ^ 8, 0, 0, 0] 0,
        param 0x6080 [2 * 16 + 70 * 2 ^ 8 + 99 * 2 ^ 16 + 10 * 2 ^ 24, 0, 0, 0] 0, param 0x6080 [2 * 16 + 71 * 2 ^ 8 + 99 * 2 ^ 16 + 10 * 2 ^ 24, 0, 0, 0] 0,
        param 0x6080 [1 + 2 * 16 + 70 * 2 ^ 8 + 99 * 2 ^ 16 + 10 * 2 ^ 24, 0, 0, 0] 0],
      ((wCmd .run id).now 5).acceptsParam 0 x (paramId x) readyRunHold true = true ∧ valueExtra x [0xFFFFFFFF, 0, 0, 0] = none
      ∧ Nat.land (x.w 6) (Nat.xor 0xFFFFFFFF (lkMask (0x60000 + paramId x % 4096))) = 0)
    ∧ ((wCmd .run id).dev.get Reg.SENSE_MOD_CFG.EN % 8 = 0 ∧ (wCmd .run id).dev.get Reg.SENSE_MOD_CFG.DEC = 2 ∧ (wCmd .run id).dev.sense.next = []
      ∧ (wSense .run [(Reg.SENSE_MOD_CFG.EN, 1)] id).dev.get Reg.SENSE_MOD_CFG.EN % 8 ≠ 0)
    ∧ (let s := wSense .run [] fun d => { d with next := [(0x60000, 80 + 80 * 256 + 65536)] };
      s.dev.mode ≠ .off ∧ s.dev.svc.pllsLocked = true ∧ s.dev.sense.next = [(0x60000, 80 + 80 * 256 + 65536)] ∧ s.dev.sense.hist.head? = none) := by
  decide +kernel

/-- All four inputs are enabled at 64 bits a sample; input `n` as given. -/
def wMains (l : List (Fld × Nat)) (n : Nat) (f : ModIn → ModIn) (g : SenseSt → SenseSt) : State :=
  wSense .run ([(Reg.SENSE_MOD_CFG.EN, 15), (Reg.SENSE_MOD_CFG.DEC, 0), (Reg.SENSE_MOD_NOM_n.NOM 0, 1000), (Reg.SENSE_MOD_NOM_n.NOM 3, 1000)] ++ l)
    fun d => g { d with mods := modAt d.mods n f }
def wOnes : List Bool := List.replicate 64 true
/-- The half-cycle of phase 0 began at 0 with negative samples that exceeded NOM / 8. -/
def wHalf (next : List (Nat × Nat)) : State := wMains [] 0 (fun m => { m with neg := true, armed := true, sumSq := 640000, n := 1 }) fun d => { d with next := next }

theorem witness_HalfCyclesAndSags :
    (∀ n < 4, let s := wHalf [];
      s.dev.mode ≠ .off ∧ s.dev.modEnabled n = true ∧ s.dev.on Reg.SENSE_CLK_STAT.LOCK_AUX = true ∧ s.dev.sense.mods.length = 4 ∧ (s.dev.modIn n).fault = none
      ∧ wOnes.length = 64 * 2 ^ s.dev.get Reg.SENSE_MOD_CFG.DEC)
    ∧ (let s := wHalf []; let p := modComb (wOnes.foldl modBit (s.dev.modIn 0)) (s.dev.get Reg.SENSE_MOD_CFG.DEC);
      p.2.neg ≠ decide (p.1 < 0) ∧ p.2.armed = true ∧ 2000000000 ≤ (s.now 5000000).since p.2.halfAt * (8 * s.dev.get Reg.SENSE_MOD_CFG.FREQ)
      ∧ ¬ 2000000000 ≤ (s.now 4999999).since p.2.halfAt * (8 * s.dev.get Reg.SENSE_MOD_CFG.FREQ) ∧ s.dev.sense.next = []
      ∧ (s.dev.sense.policy.take 6).all (· ≤ 2) = true ∧ (s.dev.modIn 0).sumSq / max 1 (s.dev.modIn 0).n < 2 ^ 46
      ∧ bitOf (s.dev.get Reg.SENSE_MAINS_STAT.SAG) 0 = false ∧ 5000000000 ≤ (s.now 12500000).since (s.dev.modIn 0).halfAt * (8 * s.dev.get Reg.SENSE_MOD_CFG.FREQ))
    ∧ ((wHalf [(0x60080, 7)]).dev.sense.next = [(0x60080, 7)])
    ∧ (let s := wMains [(Reg.SENSE_MAINS_STAT.SAG, 1)] 0 (fun m => { m with neg := true, armed := true, sumSq := 1000000, n := 1, good := 1 }) id;
      bitOf (s.dev.get Reg.SENSE_MAINS_STAT.SAG) 0 = true ∧ (s.dev.modIn 0).good ≠ 0) := by decide +kernel

theorem witness_BusMeanFaultsAndEscalation :
    (∀ x ∈ [((849 : Int), 0), (850, 0), (869, 1), (870, 1)], let s := wMains [(Reg.SENSE_MAINS_STAT.DC_LOW, x.2)] 3 (fun m => { m with n := 4, sum := 4 * x.1 }) id;
      (s.dev.sense.policy.take 6).all (· ≤ 2) = true ∧ s.dev.sense.mods.length = 4 ∧ s.dev.mode ≠ .off ∧ s.dev.modEnabled 3 = true ∧ (s.dev.modIn 3).n ≠ 0
      ∧ (s.dev.modIn 3).fault = none ∧ (s.now 1000000).tb / 1000000 ≠ s.dev.sense.dcAt / 1000000 ∧ s.dev.sense.next = []
      ∧ (s.dev.modIn 3).sum / ((s.dev.modIn 3).n : Int) = x.1 ∧ s.dev.get (Reg.SENSE_MOD_NOM_n.NOM 3) = 1000
      ∧ s.dev.get Reg.SENSE_MOD_DC.DC_LOW_PCT = 85 ∧ s.dev.get Reg.SENSE_MOD_CFG.HYST = 2 ∧ s.dev.get Reg.SENSE_MAINS_STAT.DC_LOW = x.2)
    ∧ (let s := wMains [] 3 (fun m => { m with run := 4096 }) id;
      s.dev.modEnabled 3 = true ∧ (s.dev.modIn 3).fault = none ∧ 4096 ≤ (s.dev.modIn 3).run)
    ∧ ((wMains [(Reg.SENSE_CLK_STAT.LOCK_AUX, 0)] 3 id id).dev.on Reg.SENSE_CLK_STAT.LOCK_AUX = false)
    ∧ (let s := wMains [] 2 (fun m => { m with rmsOk := true }) id;
      (s.dev.modIn 2).run < 4096 ∧ s.dev.on Reg.SENSE_CLK_STAT.LOCK_AUX = true ∧ (s.dev.modIn 2).rmsOk = true
      ∧ 4000000000 ≤ (s.now 40000000).since (s.dev.modIn 2).zeroAt * 2 * s.dev.get Reg.SENSE_MOD_CFG.FREQ ∧ ((wMains [] 1 (fun m => { m with rmsOk := false }) id).dev.modIn 1).rmsOk = false)
    ∧ (let s := wMains [] 3 (fun m => { m with fault := some 1 }) id;
      wOnes.length = 64 * 2 ^ s.dev.get Reg.SENSE_MOD_CFG.DEC ∧ (s.dev.modIn 3).fault = some 1 ∧ (wOnes.foldl modBit (s.dev.modIn 3)).run < 4096
      ∧ 1000000 ≤ (s.now 1000000).since (s.dev.modIn 3).validAt)
    ∧ (let s := wMains [(Reg.SENSE_MAINS_STAT.DC_LOW, 1)] 3 id fun d => { d with since := [(3, 0)] };
      s.dev.on Reg.SENSE_MAINS_STAT.ESCALATED = false ∧ 3 ∈ s.dev.mainsConditions ∧ s.dev.sense.since.find? (fun x => x.1 == 3) = some (3, 0)
      ∧ leAt s.dev.sense.policy 14 2 * 1000000 ≤ (s.now 500000000).since 0 ∧ s.dev.sense.policy.getD 4 0 ≠ 0
      ∧ ∀ x ∈ s.dev.sense.since, (s.now 5).since x.2 < leAt s.dev.sense.policy 14 2 * 1000000) := by decide +kernel

/-! ### The monitor and JTAG -/

/-- The mailbox's input holds a line; the session on UART_0 runs. -/
def wMon (m : Mode) (line : List Nat) (l : List (Fld × Nat)) (f : SvcSt → SvcSt) : State :=
  wSense m l id |> fun s => { s with dev := { s.dev with svc := f { s.dev.svc with inq := line } } }
def wLine (s : String) : List Nat := chars s ++ [13]

theorem witness_MonitorPrintsWhatItIsAsked :
    ((wMon .run [] [] id).dev.monAlive 0 = true ∧ (wMon .safe [] [] id).dev.monAlive 1 = true)
    ∧ (∀ x ∈ [("help", ([] : List (Option Nat))), ("ver", []), ("state", []), ("st", []), ("temp", []), ("mem", []), ("lane", []), ("rec", [])],
      ((wMon .safe (wLine x.1) [] id).dev.mailTake x.1 x.2).isSome = true)
    ∧ (∀ x ∈ [("lane 19", [some 19]), ("lane 20", [some 20])], ((wMon .setup (wLine x.1) [] id).dev.mailTake "lane" x.2).isSome = true)
    ∧ (∀ x ∈ [("rec 0", [some 0]), ("rec 64", [some 64]), ("rec 65", [some 65])], ((wMon .setup (wLine x.1) [] id).dev.mailTake "rec" x.2).isSome = true)
    ∧ (∀ x ∈ [("rd 0xFFF00 64", [some 0xFFF00, some 64]), ("rd 0xFFFFC 2", [some 0xFFFFC, some 2]), ("rd 2 1", [some 2, some 1])],
      ((wMon .setup (wLine x.1) [] id).dev.mailTake "rd" x.2).isSome = true)
    ∧ ((wMon .setup [] [] id).dev.bar0Dead = false ∧ ({ (wMon .setup [] [(Reg.SENSE_CLK_STAT.LOCK_CORE, 0)] id).dev with clk := { Dev.reset.clk with asyncHold := true } }).bar0Dead = true)
    ∧ (0xFFF00 % 4 = 0 ∧ 0xFFF00 + 4 * 64 ≤ 0x100000 ∧ 0xF0024 < 0xFFF00) := by decide +kernel

theorem witness_MonitorPrintsWhatItIsAsked_lines :
    (((wMon .setup (wLine "rec x") [] id).dev.mailTake "rec" [none]).isSome = true ∧ ((wMon .setup (wLine "wr 1") [] id).dev.mailTake "wr" [some 1]).isSome = true)
    ∧ (readable [7] = false ∧ readable (List.replicate 128 65) = false ∧ readable (List.replicate 127 65) = true)
    ∧ (let line := chars "helo 1"; let s := wMon .safe (line ++ [13, 10, 65]) [] id;
      s.dev.monAlive 1 = true ∧ readable line = true ∧ tokens line ≠ [] ∧ (∀ k ∈ monNames, (tokens line).head? ≠ some (chars k))
      ∧ firstLine (s.dev.svc.inq.dropWhile fun c => c == 13 || c == 10) = some (line, [65]))
    ∧ (∀ m ∈ [Mode.setup, .safe], (wMon m [] [] id).dev.mode = m ∧ bitOf 0x141 8 = true ∧ (wMon m [] [] id).dev.svc.skip = false)
    ∧ ((wMon .hold [] [] id).dev.mode.printing = true ∧ (wMon .hold [] [] id).dev.mode.served = true) := by decide +kernel

/-- The answer to challenge 3 under the key 7. -/
def wAnswerTo : Nat := crc32c (leBytes 4 3 ++ leBytes 4 7)

theorem witness_MonitorUnlocksAndLocks :
    (let s := wMon .setup (wLine "unlock") [] fun d => { d with key := 7 };
      (s.dev.mailTake "unlock" []).isSome = true ∧ s.dev.mode ≠ .run ∧ s.dev.mode ≠ .hold ∧ s.dev.svc.verified = true ∧ s.dev.svc.key ≠ 0
      ∧ s.dev.on Reg.SVC_MON.LOCKOUT = false ∧ s.dev.monAlive 0 = true)
    ∧ ((wMon .hold [] [] id).dev.monAlive 0 = true ∧ (wMon .ready [] [] id).dev.svc.key = 0
      ∧ (wMon .ready [] [(Reg.SVC_MON.LOCKOUT, 1)] id).dev.on Reg.SVC_MON.LOCKOUT = true)
    ∧ (∀ n ∈ [0, 1, 2], let s := wMon .ready [] [] fun d => { d with key := 7, wrong := n, uart := ⟨some 3, 0⟩ };
      (s.dev.session 0).challenge = some 3 ∧ wAnswerTo = crc32c (leBytes 4 3 ++ leBytes 4 s.dev.svc.key) ∧ wAnswerTo + 1 ≠ wAnswerTo ∧ s.dev.svc.wrong = n)
    ∧ (let s := wMon .ready [] [(Reg.SVC_MON.UNLOCKED_U, 1)] fun d => { d with baudAt := some 0 };
      s.dev.unlocked 0 = true ∧ 600000000000 ≤ (s.now 600000000000).since (s.dev.session 0).lastAt
      ∧ (s.now 599999999999).since (s.dev.session 0).lastAt < 600000000000 ∧ 60000000000 ≤ (s.now 60000000000).since s.dev.svc.lockoutAt
      ∧ (s.now 59999999999).since s.dev.svc.lockoutAt < 60000000000 ∧ s.dev.svc.baudAt = some 0 ∧ 10000000000 ≤ (s.now 10000000000).since 0
      ∧ (s.now 9999999999).since 0 < 10000000000 ∧ s.dev.mode ≠ .off ∧ s.dev.on Reg.SENSE_CLK_STAT.LOCK_AUX = true)
    ∧ (((wMon .setup (wLine "baud 3000000") [] id).dev.mailTake "baud" [some 3000000]).isSome = true
      ∧ [115200, 230400, 460800, 921600, 1500000, 3000000][5]? = some 3000000 ∧ 9600 ∉ [115200, 230400, 460800, 921600, 1500000, 3000000]) := by
  decide +kernel

/-- The mailbox session is unlocked, with a line, in a state that is cool and has a shutdown record. -/
def wOpenMon (m : Mode) (line : String) : State := wMon m (wLine line) [(Reg.SVC_MON.UNLOCKED_U, 1), (Reg.SVC_MON.UNLOCKED_M, 1)] id |> fun s =>
  { s with dev := { s.dev with sense := { s.dev.sense with shut := [some wRecord, none], hist := [(0, wRead 0 0 0)] } } }

theorem witness_UnlockedCommandsAct :
    (∀ x ∈ [("wr 8 1", "wr", [some 8, some 1]), ("safe", "safe", []), ("ack 5", "ack", [some 5]), ("reboot", "reboot", [])],
      ((wMon .safe (wLine x.1) [] id).dev.mailTake x.2.1 x.2.2).isSome = true ∧ (wMon .safe (wLine x.1) [] id).dev.unlocked 1 = false)
    ∧ (let s := wOpenMon .run "safe"; s.dev.monAlive 0 = true ∧ s.dev.svc.verified = true ∧ s.dev.unlocked 0 = true ∧ s.dev.mode.served = true ∧ s.dev.bar0Dead = false)
    ∧ (let s := wOpenMon .safe "ack 5";
      (s.dev.mailTake "ack" [some 5]).isSome = true ∧ s.dev.svc.verified = true ∧ s.dev.unlocked 1 = true ∧ s.dev.mode = .safe ∧ s.dev.shutRecord = some wRecord
      ∧ s.dev.bar0Dead = false ∧ 5 = wRecord.seq % 65536 ∧ (∀ n < 16, (s.dev.sensor n).broken = false ∧ s.dev.reading n < 4 * (s.dev.get Reg.SENSE_THERM_CFG.THR : Nat) - 40)
      ∧ (s.dev.sensor 16).broken = false ∧ s.dev.reading 16 < 4 * (s.dev.get Reg.SENSE_THERM_CFG.STACK_THR : Nat) - 40)
    ∧ (let s := wOpenMon .setup "reboot"; (s.dev.mailTake "reboot" []).isSome = true ∧ s.dev.mode = .setup ∧ (wOpenMon .run "").dev.mode ≠ .setup)
    ∧ (let s := wMon .safe [] [] fun d => { d with rebootAt := some 0 };
      s.dev.svc.rebootAt = some 0 ∧ 100000000 ≤ (s.now 100000000).since 0 ∧ (s.now 99999999).since 0 < 100000000) := by decide +kernel

theorem witness_UnlockedCommandsAct_writes :
    (∀ x ∈ [("wr 0x100000 0", 0x100000, 0), ("wr 2 0", 2, 0), ("wr 8 4", 8, 4), ("wr 0xE0000 0x80000000", 0xE0000, 0x80000000)],
      ((wOpenMon .safe x.1).dev.mailTake "wr" [some x.2.1, some x.2.2]).isSome = true)
    ∧ ((regAt 8).isSome = true ∧ (regAt 0x60000).isSome = true ∧ (wOpenMon .run "").dev.mode.printing = true ∧ (wOpenMon .safe "").dev.clk.asyncHold = false
      ∧ (wOpenMon .safe "").dev.bar0Dead = false
      ∧ (regAt 0x60000).all (fun r => r.fields.all fun g => g.acc != .w1c) = true) := by decide +kernel

theorem witness_JtagInstructionsLoad :
    (inMode .hold id).dev.mode ≠ .off ∧ (inMode .hold id).dev.mode.served = true ∧ (inMode .safe id).dev.mode = .safe ∧ State.reset.dev.mode = .selftest
    ∧ (inMode .off id).dev.mode = .off
    ∧ (let s := inMode .safe fun d => { d with svc := { d.svc with tap := .highz }, clk := { d.clk with ringHold := none } };
      s.dev.mode = .safe ∧ s.dev.svc.tap = .highz ∧ s.dev.clk.ringHold = none) := by decide +kernel

/-! ### Completions -/

/-- A device without a live job; the tables' data as in the witnesses of the statements that tell their effect. -/
theorem witness_LoadsTimeOutsAndMonitorCommandsComplete :
    (let s := wJobs .ready [wJob 7 .opened];
      s.dev.live? = none ∧ s.dev.gz.policyNext = [] ∧ s.dev.gz.regs = [] ∧ s.dev.jobLoads (load 4 0 7 14 (zeros 64)) (wJob 7 .opened) = true
      ∧ (s.now 5).tableArrives 0 (load 4 0 7 14 (zeros 64)) 4 (wBytes (zeros 64)) = true ∧ (wJob 7 .opened).phase ≠ .live
      ∧ (s.now 5).tableArrives 0 (load 9 0x23 0 0 wPolicy) 9 (wBytes wPolicy) = true ∧ (load 9 0x23 0 0 wPolicy).len = 64
      ∧ (s.now 5).acceptsParam 0 (param 0xB310 [1000, 0, 0, 0] 0) 0xB310 allServed false = true
      ∧ valueExtra (param 0xB310 [1000, 0, 0, 0] 0) [0xFFFFFFFF, 0, 0, 0] = none
      ∧ (s.now 5).acceptsParam 0 (param 0xA080 [0x100, 0, 0, 0] 0) 0xA080 allServed false = true
      ∧ (s.now 5).acceptsParam 0 (param 0xB3F0 [0, 0x218, 0, 0] 0) 0xB3F0 readyRunHold true = true
      ∧ s.dev.entryUsed s.dev.nextStitches.stitches 0 = true)
    ∧ (let s := wPort .run 0 2 [] id;
      s.dev.laneLive 0 = true ∧ (s.dev.lk 0).queue = [] ∧ s.dev.on (Reg.LANE_PORT_STAT_p.RX_IDLE 0) = false ∧ s.dev.stage 0 = 2
      ∧ s.dev.on (Reg.LANE_PORT_CFG_p.MODE 0) = false ∧ (s.dev.port 0).idle = none ∧ (s.dev.port 0).relock = false
      ∧ (stageTimeout 2).any (fun x => decide (x.1 ≤ (s.now 10000000).since (s.dev.port 0).stageAt)) = true)
    ∧ (let s := wPort .run 19 5 [] fun x => { x with relock := true, fallback := true };
      s.dev.laneLive 19 = true ∧ (s.dev.lk 19).queue = [] ∧ s.dev.stage 19 = 5 ∧ (s.dev.port 19).relock = true ∧ (s.dev.port 19).idle = none
      ∧ 1000000 ≤ (s.now 1000000).since (s.dev.port 19).stageAt ∧ (s.dev.port 19).fallback = true)
    ∧ (∀ w ∈ ["help", "ver", "state", "st", "temp", "lane", "mem"], (wMon .run (wLine w) [] id).dev.monAlive 0 = true
      ∧ (wMon .safe (wLine w) [] id).dev.monAlive 1 = true ∧ ((wMon .safe (wLine w) [] id).dev.mailTake w []).isSome = true)
    ∧ ((wMon .hold [] [] id).dev.mode ≠ .off ∧ (wMon .hold [] [] id).dev.mode.served = true) := by decide +kernel

theorem witness_LoadsTimeOutsAndMonitorCommandsComplete_ports :
    (let s := wPort .run 19 7 [] id; s.dev.laneLive 19 = true ∧ (s.dev.lk 19).queue = [] ∧ s.dev.stage 19 = 7
      ∧ 100000 ≤ (s.now 100000).since (s.dev.port 19).stageAt)
    ∧ (let s := wPort .run 19 6 [] fun x => { x with wakeAt := some 0 };
      s.dev.laneLive 19 = true ∧ (s.dev.lk 19).queue = [] ∧ s.dev.stage 19 = 6 ∧ (s.dev.port 19).wakeAt = some 0 ∧ s.dev.allLocked 19 = false
      ∧ 20000 ≤ (s.now 20000).since 0) := by decide +kernel

/-! ## Worked examples of the spec -/

/-- Reading a location code (chapter 01): 0.0.2.17.3.211.0. -/
theorem test_location_code : Dev.reset.loc 0 2 17 3 211 0 = 0x00000021_1030D300 := by decide +kernel

/-- A stuck bit in the JOB-A nozzle table (chapter 14): the location 0.0.2.65.0.27.5 and the repair entry of row 474 of macro 1,310. -/
theorem test_repair_entry : Dev.reset.loc 0 2 65 0 27 5 = 0x00000024_10001B05 ∧ repairEntry 1310 0 474 = 0xBB451E := by decide +kernel

/-- Scaling for a JOB-A web encoder (chapter 02): 103 edges advance PW by 24,914 fine counts and leave rem 82. Edge 103 from edge 102. -/
theorem test_scaling : 102 * 30720 / 127 + (102 * 30720 % 127 + 30720) / 127 = 24914 ∧ (102 * 30720 % 127 + 30720) % 127 = 82 := by decide +kernel

/-- JOB-A at constant speed (chapter 02): from edge 103, 24,914 fine counts and 82 / 127 after J0, line 100 fires 28,333.3 ns later. -/
theorem test_fire_time :
    let s0 : Sample := ⟨24914, 82, 127, 4001030000⟩
    let s1 : Sample := ⟨17174, 22, 127, 4000710000⟩
    let s2 : Sample := ⟨9433, 89, 127, 4000390000⟩
    (estimateOf s0 s1 s2 s1).any (fun e => (reachIn e (25600 * 127 - (24914 * 127 + 82)) 127).any fun t => decide (t * 10 / 65536 = 283333))
      = true := by decide +kernel

def wOutput : List Nat := chars "T262T262T262" ++ zeros 6 ++ chars "T262T262T262"

/-- The JOB-A content stream of chapter 05: the distance of its long match as given, its checks by R136. -/
def wStream (dist : Nat) : List Nat :=
  [0x01, 0x00, 0x1D, 0x00, 0x12, 0, 0, 0] ++ leBytes 4 (crc32c ([3, 0, 1, 0, 0, 0, 0, 0] ++ wOutput)) ++ zeros 4
  ++ [0x03, 0x00, 0x54, 0x32, 0x36, 0x32, 0x03, 0x45, 0x05, 0xC0, 0x00, 0x00, 0x09, 0x80, dist, 0x00, 0x00, 0xD0] ++ zeros 6
  ++ [0x04, 0, 0, 0, 0, 0, 0, 0] ++ leBytes 4 (crc32c ([3, 0, 1, 0, 1, 0, 0, 0] ++ wOutput)) ++ [1, 0, 0, 0]

/-- It decodes to its 30 bytes and END is checked, all 56 bytes used. -/
theorem test_decode : (match Dec.run Reads.clean none 20 (Dec.start 0x00010003) (wStream 0x11) with
    | .ok (x, rest, ended) => (x.rev.reverse, rest, ended, x.pos)
    | .error _ => ([], [], false, 0)) = (wOutput, [], true, 56) := by decide +kernel

/-- With a distance of 31 at history 18 the long match fails (chapter 05): DISTANCE_BEYOND_HISTORY, offset 12, BLOCK_OUT 18, block 0. -/
theorem test_decode_distance : (match Dec.run Reads.clean none 20 (Dec.start 0x00010003) (wStream 0x1E) with
    | .ok _ => none
    | .error e => some e.1) = some ⟨0x31, 12, 18, false, 0⟩ := by decide +kernel

/-- One JOB-A pixel (chapter 07): entry 2,832 of the K curve is 43,610. -/
theorem test_tone_curve : (knotCurve [(0, 0), (2048, 30000), (4095, 65535)]).getD 2832 0 = 43610 := by decide +kernel

/-- The dither values of chapter 08's example: h(393,985, 9,000) = 67 and h(393,984, 9,000) = 3. -/
theorem test_dither : dither 393985 9000 = 67 ∧ dither 393984 9000 = 3 := by decide +kernel

/-- A press that will not leave SELFTEST at full DRAM speed (chapter 19): GLB_STATE reads 0x0000_1102. -/
theorem test_glb_state :
    ((inMode .safe (puts [(Reg.GLB_STATE.SAFE_CAUSE, 1), (Reg.GLB_STATE.LOCKED, 1)])).dev.readReg 4).1 = 0x1102 := by decide +kernel

/-- The JOB-A to JOB-A2 splice (chapter 03): the words of SPLICE_AT, and WAIT_0 of JOB_STAGE names ring 1 and SEQ 911. -/
theorem test_splice_words :
    let x : Desc := ⟨([0x85010030, 0, 0, 0, 0x6A020000, 1, 2] ++ List.replicate 9 0).map (BitVec.ofNat 32)⟩
    x.own = true ∧ x.op = 5 ∧ x.seq = 48 ∧ x.irq = true ∧ x.w 4 + 2 ^ 32 * x.f 5 0 16 = 268435456 + 3108 * 7296 * 256 ∧ x.f 6 0 8 = 2 := by decide +kernel

/-- The opcode table gives no row any bits: no word spells a command, and withFetchWord leaves the state as it is. -/
theorem test_no_words : decodeTableWord 32 0x85010030 = none ∧ State.withFetchWord State.reset 32 0x85010030 = State.reset := by decide +kernel

end Sys2Proof.Machine
end

section
/-! PROOFS. The frame of a step (TB, the device state, outputs), register writes field by field, and the statements of chapter 00: O2, O5,
O11, O19, O20. -/
namespace Sys2Proof.Machine

/-! ## What a step leaves around the effect of its command -/

theorem step_of_empty {s : State} (h : s.pending = []) : step s = .next s.idle := by
  unfold step
  rw [h]

/-- Every command is an `act` or an `actMem`: the device after it is one that `settle` leaves. -/
theorem exec_settles (i : Instr) (s : State) : ∃ a m, exec i s = .next { s with dev := s.dev.settle i.elapsed a, mem := m } := by
  cases i <;> exact ⟨_, _, rfl⟩

theorem modeEdge_off (m : Mode) : modeEdge m .off = true := by cases m <;> rfl

/-- Recording a change of the PW flags, and when the estimate became valid, are all that a step does to the device before TB and the
state are set. -/
theorem settle_frame (b a : Dev) (dt : Nat) : ∃ c v, Quiet a c ∧ b.settle dt a = { c with
    pos := { c.pos with validAt := v }
    tb := if b.mode = .off ∨ a.mode = .off then 0 else tbPlus b.tb dt
    mode := if modeEdge b.mode a.mode then a.mode else b.mode } := by
  unfold Dev.settle
  extract_lets c src c2
  have hc : Quiet a c := by
    simp only [c]
    split
    · exact quiet_pwRecord a
    · exact .refl a
  have h2 : c2 = { c with pos := { c.pos with validAt := c2.pos.validAt } } := by
    simp only [c2]
    split <;> rfl
  clear_value c2
  rw [show c2.mode = a.mode by rw [h2]; exact hc.1.mode]
  exact ⟨c, c2.pos.validAt, hc, by rw [h2]⟩

theorem settle_mode (b a : Dev) (dt : Nat) : (b.settle dt a).mode = if modeEdge b.mode a.mode then a.mode else b.mode := by
  obtain ⟨c, v, -, h⟩ := settle_frame b a dt
  rw [h]

theorem settle_tb (b a : Dev) (dt : Nat) :
    (b.settle dt a).tb = if b.mode = .off ∨ a.mode = .off then 0 else (b.tb + dt) % 2 ^ 64 := by
  obtain ⟨c, v, -, h⟩ := settle_frame b a dt
  rw [h]
  rfl

/-- A step leaves a device in reset exactly where its command did, unless it began in reset. -/
theorem settle_off_iff (b a : Dev) (dt : Nat) (h : b.mode ≠ .off) : (b.settle dt a).mode = .off ↔ a.mode = .off := by
  rw [settle_mode]
  split
  · exact .rfl
  · next he =>
    refine ⟨fun hb => absurd hb h, fun ha => absurd ?_ he⟩
    rw [ha]
    exact modeEdge_off _

theorem out_prefix_settle (b a : Dev) (dt : Nat) : a.out <+: (b.settle dt a).out := by
  obtain ⟨c, v, q, h⟩ := settle_frame b a dt
  rw [h]
  exact q.2

theorem settle_svc (b a : Dev) (dt : Nat) : (b.settle dt a).svc = a.svc := by
  obtain ⟨c, v, q, h⟩ := settle_frame b a dt
  rw [h]
  exact q.1.svc

theorem settle_duplex (b a : Dev) (dt : Nat) : (b.settle dt a).duplex = a.duplex := by
  obtain ⟨c, v, q, h⟩ := settle_frame b a dt
  rw [h]
  exact q.1.duplex

theorem settle_jobs (b a : Dev) (dt : Nat) : (b.settle dt a).jobs = a.jobs := by
  obtain ⟨c, v, q, h⟩ := settle_frame b a dt
  rw [h]
  exact q.1.jobs

/-- Where TB has moved on, the PW flags stand and the change of state is allowed, a step adds nothing to its command. -/
theorem settle_eq {b a : Dev} {dt : Nat} (hf : a.pwFlags = b.pwFlags) (hv : a.on Reg.POS_STATUS.VALID = b.on Reg.POS_STATUS.VALID)
    (hb : b.mode ≠ .off) (ha : a.mode ≠ .off) (hm : modeEdge b.mode a.mode = true) (ht : a.tb = tbPlus b.tb dt) : b.settle dt a = a := by
  unfold Dev.settle
  simp [hf, hv, hb, ha, hm, ← ht]

/-- Settles O2. -/
theorem emptyQueueCountsOneNanosecond : Obligations.EmptyQueueCountsOneNanosecond := by
  unfold Obligations.EmptyQueueCountsOneNanosecond
  intro s h
  exact step_of_empty h

/-- Settles O5: TB is set by `settle` alone, whatever the command left in it. -/
theorem timeBaseCountsWhateverTheCommand : Obligations.TimeBaseCountsWhateverTheCommand := by
  unfold Obligations.TimeBaseCountsWhateverTheCommand
  intro i s t h
  obtain ⟨a, m, ha⟩ := exec_settles i s
  rw [ha] at h
  cases h
  dsimp only
  rw [settle_tb]
  by_cases hb : s.dev.mode = .off
  · simp [hb]
  · simp [hb, settle_off_iff _ a _ hb]

end Sys2Proof.Machine
end

section
/-! What a device that does not print keeps: sending, link frames, jobs that end and time that follows another source change neither its
state nor its duplex sub-state, nor service, nor do they open a job. -/
namespace Sys2Proof.Machine

/-- From `d` to `e`, unless the device prints, the device state, the duplex sub-state and service stand, and no job is opened. -/
def Dev.Stays (d e : Dev) : Prop :=
  d.mode ≠ .run → d.mode ≠ .hold → e.mode = d.mode ∧ e.duplex = d.duplex ∧ e.svc = d.svc ∧ (d.jobs = [] → e.jobs = [])

theorem Dev.Stays.trans {a b c : Dev} (h : a.Stays b) (g : b.Stays c) : a.Stays c := by
  intro hr hh
  obtain ⟨hm, hd, hs, hj⟩ := h hr hh
  obtain ⟨gm, gd, gs, gj⟩ := g (hm ▸ hr) (hm ▸ hh)
  exact ⟨gm.trans hm, gd.trans hd, gs.trans hs, fun e => gj (hj e)⟩

/-- The four parts are equal. -/
theorem Dev.Stays.of_eq {d e : Dev} (hm : e.mode = d.mode) (hd : e.duplex = d.duplex) (hs : e.svc = d.svc) (hj : e.jobs = d.jobs) :
    d.Stays e := fun _ _ => ⟨hm, hd, hs, fun h => hj.trans h⟩

/-- The four parts are equal at first. -/
theorem Dev.Stays.after {a b c : Dev} (g : b.Stays c) (hm : b.mode = a.mode) (hd : b.duplex = a.duplex) (hs : b.svc = a.svc)
    (hj : b.jobs = a.jobs) : a.Stays c := (Dev.Stays.of_eq hm hd hs hj).trans g

theorem Dev.Stays.refl (d : Dev) : d.Stays d := .of_eq rfl rfl rfl rfl

theorem Quiet.stays {d e : Dev} (q : Quiet d e) : d.Stays e := .of_eq q.1.mode q.1.duplex q.1.svc q.1.jobs

theorem stays_post (d : Dev) (code sev : Nat) (args : List Nat) : d.Stays (d.post code sev args) := (quiet_post d code sev args).stays

theorem stays_foldl {α : Type} {f : Dev → α → Dev} (h : ∀ (d : Dev) (a : α), d.Stays (f d a)) (l : List α) (d : Dev) : d.Stays (l.foldl f d) := by
  induction l generalizing d with
  | nil => exact .refl d
  | cons a t ih => exact (h d a).trans (ih _)

theorem stays_put (d : Dev) (f : Fld) (v : Nat) : d.Stays (d.put f v) := .of_eq rfl rfl rfl rfl

/-! ## Lane ports -/

theorem stays_modPort (d : Dev) (p : Nat) (f : Port → Port) : d.Stays (d.modPort p f) := .of_eq rfl rfl rfl rfl

theorem stays_setStage (d : Dev) (p stage : Nat) : d.Stays (d.setStage p stage) := .of_eq rfl rfl rfl rfl

theorem stays_transmit (d : Dev) (p : Nat) (x : TxStream) : d.Stays (d.transmit p x) := by
  unfold Dev.transmit
  split
  · exact .refl d
  · exact .of_eq rfl rfl rfl rfl

theorem stays_wakeTx (d : Dev) (p : Nat) : d.Stays (d.wakeTx p) := by
  unfold Dev.wakeTx
  split
  · exact (stays_transmit _ _ _).after rfl rfl rfl rfl
  · exact .refl d

theorem stays_sendBlocks (d : Dev) (p n type : Nat) (payload : List Nat) : d.Stays (d.sendBlocks p n type payload) := by
  unfold Dev.sendBlocks
  split
  · exact .refl d
  · exact stays_foldl (fun e _ => (quiet_send e _).stays) _ _

theorem stays_stopTest (d : Dev) (p loop : Nat) : d.Stays (d.stopTest p loop) := by
  unfold Dev.stopTest
  extract_lets d1 d2
  have h1 : d.Stays d1 := by
    simp only [d1]
    split
    · exact stays_sendBlocks _ _ _ _ _
    · exact .refl d
  clear_value d1
  have h2 : d1.Stays d2 := .of_eq rfl rfl rfl rfl
  clear_value d2
  exact (h1.trans h2).trans (stays_transmit _ _ _)

theorem stays_clearTest (d : Dev) (p : Nat) : d.Stays (d.clearTest p) := .of_eq rfl rfl rfl rfl

theorem stays_driveHold (d : Dev) (level : Option Bool) : d.Stays (d.driveHold level) := by
  unfold Dev.driveHold
  split
  · exact .refl d
  · exact .of_eq rfl rfl rfl rfl

theorem stays_ringPortChange (d : Dev) (p : Nat) : d.Stays (d.ringPortChange p) := by
  unfold Dev.ringPortChange
  split
  · exact .refl d
  · dsimp only
    split
    · exact .refl d
    · exact (stays_post _ _ _ _).after rfl rfl rfl rfl

theorem stays_setPso (d : Dev) (n : Nat) (level : Bool) : d.Stays (d.setPso n level) := by
  unfold Dev.setPso
  split
  · exact .refl d
  · exact .of_eq rfl rfl rfl rfl

/-! ## Commands that complete, and jobs that end -/

theorem stays_completeNow (d : Dev) (t : Ticket) (code detail held : Nat) : d.Stays (d.completeNow t code detail held) := by
  unfold Dev.completeNow
  extract_lets flags src d1 d2 d3 d4 src2 d5
  have h1 : d.Stays d1 := .of_eq rfl rfl rfl rfl
  clear_value d1
  have h2 : d.Stays d2 := by
    simp only [d2]
    split
    · exact h1
    · exact h1.trans (.of_eq rfl rfl rfl rfl)
  clear_value d2
  have h3 : d.Stays d3 := h2.trans (quiet_send _ _).stays
  clear_value d3
  have h4 : d.Stays d4 := h3.trans (quiet_writeBack _ _ _ _ _ _ _ _).stays
  clear_value d4
  have h5 : d.Stays d5 := by
    simp only [d5]
    split
    · exact h4.trans (.of_eq rfl rfl rfl rfl)
    · exact h4
  clear_value d5
  split
  · exact h5
  · exact h5.trans (quiet_capture _ _ _).stays

theorem stays_completeF (d : Dev) (t : Ticket) (code detail held : Nat) : d.Stays (d.completeF t code detail held) := by
  unfold Dev.completeF
  split
  · split
    · exact (stays_completeNow _ _ _ _ _).trans (quiet_partnerSend _ _ _ _ _).stays
    · split
      · exact (stays_completeNow _ _ _ _ _).after rfl rfl rfl rfl
      · exact .of_eq rfl rfl rfl rfl
  · exact stays_completeNow _ _ _ _ _

theorem stays_endStop (d : Dev) : d.Stays d.endStop := by
  unfold Dev.endStop
  split
  · exact .refl d
  · split
    · exact (stays_foldl (fun _ _ => stays_completeF _ _ _ _ _) _ _).after rfl rfl rfl rfl
    · exact .refl d

/-- Rest changes the state of a device that prints, and of no other. -/
theorem stays_restCheck (d : Dev) : d.Stays d.restCheck := by
  intro hr hh
  have h := stays_endStop d hr hh
  have hm : d.endStop.mode = d.mode := h.1
  unfold Dev.restCheck
  dsimp only
  split
  · exact h
  · simpa [hm, hr, hh] using h

theorem stays_setCtx (d : Dev) (c : Nat) (x : Ctx) : d.Stays (d.setCtx c x) := .of_eq rfl rfl rfl rfl

theorem stays_dramReq (d : Dev) : d.Stays d.dramReq := by
  unfold Dev.dramReq Dev.dramWake
  split <;> exact .of_eq rfl rfl rfl rfl

theorem stays_startDecodes (d : Dev) : d.Stays d.startDecodes := by
  unfold Dev.startDecodes
  split
  · exact .refl d
  · exact stays_foldl (fun _ _ => (stays_dramReq _).trans (stays_setCtx _ _ _)) _ _

theorem stays_stopDecodes (d : Dev) (tag : Nat) : d.Stays (d.stopDecodes tag) := by
  unfold Dev.stopDecodes
  refine (stays_foldl (fun e c => ?_) _ _).after rfl rfl rfl rfl
  split
  · exact stays_setCtx _ _ _
  · exact .refl e

theorem stays_storeUse (d : Dev) : d.Stays d.storeUse := .of_eq rfl rfl rfl rfl

theorem stays_retireFrames (d : Dev) (tag : Nat) : d.Stays (d.retireFrames tag) := .of_eq rfl rfl rfl rfl

theorem stays_freeJob (d : Dev) (tag : Nat) : d.Stays (d.freeJob tag) := by
  unfold Dev.freeJob
  extract_lets d1 src d2 src2 src3
  have h1 : d.Stays d1 := stays_stopDecodes d tag
  clear_value d1
  have h2 : d.Stays d2 := h1.trans (.of_eq rfl rfl rfl rfl)
  clear_value d2
  refine .trans ?_ ((stays_startDecodes _).trans (stays_storeUse _))
  exact h2.trans fun _ _ => ⟨rfl, rfl, rfl, fun h => by simp [h]⟩

theorem stays_closeJob (d : Dev) (j : Job) : d.Stays (d.closeJob j) := by
  unfold Dev.closeJob
  extract_lets d1
  have h1 : d.Stays d1 := ((stays_freeJob d j.tag).trans (stays_retireFrames _ _)).trans (stays_post _ _ _ _)
  clear_value d1
  exact (h1.trans (stays_foldl (fun e t => stays_completeF e t _ _ _) _ _)).trans (stays_restCheck _)

theorem stays_retireJobs (d : Dev) : d.Stays d.retireJobs := stays_foldl stays_closeJob _ _

/-! ## Head links -/

theorem stays_releaseRecords (n : Nat) (d : Dev) : d.Stays (Dev.releaseRecords n d) := by
  induction n generalizing d with
  | zero => exact .refl d
  | succ n ih =>
    unfold Dev.releaseRecords
    split
    · exact .refl d
    · dsimp only
      split
      · refine .trans ?_ (ih _)
        exact (quiet_capture _ _ _).stays.after rfl rfl rfl rfl
      · exact .refl d

theorem stays_settled (d : Dev) (n : Nat) : d.Stays (d.settled n) := by
  refine .trans ?_ (stays_retireJobs _)
  unfold Dev.release
  dsimp only
  split
  · exact .refl d
  · exact (stays_releaseRecords _ _).after rfl rfl rfl rfl

theorem stays_modFrame (d : Dev) (tag frame : Nat) (f : FrameRec → FrameRec) : d.Stays (d.modFrame tag frame f) := by
  unfold Dev.modFrame
  split <;> exact .of_eq rfl rfl rfl rfl

theorem stays_countSettled (d : Dev) (tag line : Nat) : d.Stays (d.countSettled tag line) := by
  unfold Dev.countSettled
  split
  · split
    · exact stays_modFrame _ _ _ _
    · exact .refl d
  · exact .refl d

theorem stays_dropSummary (d : Dev) (tag line : Nat) : d.Stays (d.dropSummary tag line) := by
  unfold Dev.dropSummary
  dsimp only
  split
  · exact .of_eq rfl rfl rfl rfl
  · exact .refl d

theorem stays_leftToActive (d : Dev) (n r : Nat) (j : Job) (line : Nat) : d.Stays (d.leftToActive n r j line) := by
  unfold Dev.leftToActive
  extract_lets d1 d2 d3
  have h1 : d.Stays d1 := by
    simp only [d1]
    split <;> exact .of_eq rfl rfl rfl rfl
  clear_value d1
  have h2 : d.Stays d2 := h1.trans (stays_dropSummary _ _ _)
  clear_value d2
  have h3 : d.Stays d3 := by
    simp only [d3]
    split
    · exact h2.trans (stays_modFrame _ _ _ _)
    · exact h2
  clear_value d3
  exact (h3.trans (stays_countSettled _ _ _)).trans (stays_settled _ _)

theorem stays_cmdLeaves (d : Dev) (n seq start : Nat) : d.Stays (d.cmdLeaves n seq start) := by
  unfold Dev.cmdLeaves
  split
  · exact .refl d
  · exact .of_eq rfl rfl rfl rfl

/-- Line frames leave a printing device only: of another, what waits at the front of a queue is a command, or is left to the active. -/
theorem stays_frontFrame {d e : Dev} {n : Nat} (h : d.frontFrame n = some e) : d.Stays e := by
  by_cases hp : d.mode = .run ∨ d.mode = .hold
  · intro hr hh
    exact absurd hp (by simp [hr, hh])
  · have hs : d.sendsLines = false := by simp [Dev.sendsLines, hp]
    unfold Dev.frontFrame at h
    split at h
    · cases h
    · next w t hq =>
      have hpop : d.Stays (d.modLk n fun l => { l with queue := t }) := .of_eq rfl rfl rfl rfl
      dsimp only at h
      generalize (d.modLk n fun l => { l with queue := t }) = pop at h hpop
      split at h
      · cases h
      · split at h
        · split at h
          · cases h
            exact hpop.trans (stays_cmdLeaves _ _ _ _)
          · cases h
        · split at h
          · split at h
            · cases h
              exact hpop
            · rw [hs] at h
              cases h
              exact hpop.trans (stays_leftToActive _ _ _ _ _)
          · cases h
            exact hpop

theorem stays_linkDrainN (k : Nat) (d : Dev) (n : Nat) : d.Stays (Dev.linkDrainN k d n) := by
  induction k generalizing d with
  | zero => exact .refl d
  | succ k ih =>
    unfold Dev.linkDrainN
    split
    · exact .refl d
    · next e h => exact (stays_frontFrame h).trans (ih e)

theorem stays_linkDrain (d : Dev) (n : Nat) : d.Stays (d.linkDrain n) := by
  unfold Dev.linkDrain
  extract_lets d1
  have h1 : d.Stays d1 := stays_linkDrainN _ _ _
  clear_value d1
  split
  · exact h1
  · exact h1.trans (.of_eq rfl rfl rfl rfl)

theorem stays_frameReady (d : Dev) (n : Nat) (w : Waiting) : d.Stays (d.frameReady n w) := by
  unfold Dev.frameReady
  extract_lets d1
  have h1 : d.Stays d1 := (stays_linkDrain d n).trans (stays_wakeTx _ n)
  clear_value d1
  refine h1.trans (.trans ?_ (stays_linkDrain _ n))
  exact .of_eq rfl rfl rfl rfl

theorem stays_sendCmd (d : Dev) (n cmd mask phase : Nat) (args : List Nat) : d.Stays (d.sendCmd n cmd mask phase args) := by
  unfold Dev.sendCmd
  split
  · exact .refl d
  · exact (stays_frameReady _ _ _).after rfl rfl rfl rfl

theorem stays_sendTimeNow (d : Dev) (n : Nat) : d.Stays (d.sendTimeNow n) := by
  unfold Dev.sendTimeNow Dev.sendTime
  exact (stays_sendCmd _ _ _ _ _ _).after rfl rfl rfl rfl

theorem stays_timeChanged (d : Dev) : d.Stays d.timeChanged := stays_foldl stays_sendTimeNow _ _

theorem stays_fitNote (d : Dev) (n : Nat) : d.Stays (d.fitNote n) := by
  unfold Dev.fitNote
  split
  · exact .refl d
  · exact .of_eq rfl rfl rfl rfl

theorem stays_linkShow (d : Dev) (n k : Nat) : d.Stays (d.linkShow n k) := (stays_fitNote _ _).after rfl rfl rfl rfl

theorem stays_linkDown (d : Dev) (n : Nat) (down : Bool) : d.Stays (d.linkDown n down) := by
  unfold Dev.linkDown
  split
  · exact .refl d
  · extract_lets d1
    have h1 : d.Stays d1 := (stays_linkShow _ _ _).trans (stays_linkDrain _ _)
    clear_value d1
    split
    · exact h1.trans (quiet_stopWeb _).stays
    · exact h1

theorem stays_portLeft (d : Dev) (p : Nat) : d.Stays (d.portLeft p) := by
  unfold Dev.portLeft
  split
  · exact stays_linkDown _ _ _
  · split
    · exact .refl d
    · exact stays_ringPortChange _ _

theorem stays_bringUp (d : Dev) (p : Nat) : d.Stays (d.bringUp p) := by
  unfold Dev.bringUp
  split
  · exact .of_eq rfl rfl rfl rfl
  · split
    · exact .refl d
    · extract_lets compat d1 d2 d3 d4 d5
      have h1 : d.Stays d1 := (stays_put _ _ _).trans (stays_put _ _ _)
      clear_value d1
      have h2 : d.Stays d2 := h1.trans ((stays_setStage _ _ _).trans (stays_put _ _ _))
      clear_value d2
      have h3 : d.Stays d3 := h2.trans ((stays_put _ _ _).trans (stays_put _ _ _))
      clear_value d3
      have h4 : d.Stays d4 := h3.trans ((stays_put _ _ _).trans (stays_put _ _ _))
      clear_value d4
      have h5 : d.Stays d5 := h4.trans (stays_modPort _ _ _)
      clear_value d5
      exact h5.trans ((stays_transmit _ _ _).trans (stays_portLeft _ _))

/-! ## Time and the duplex partner -/

theorem stays_setTime (d : Dev) (step rate : Int) : d.Stays (d.setTime step rate) := by
  unfold Dev.setTime
  split
  next ofs old anchor _ =>
  extract_lets t1 ofs' keep src d1 d2
  have h2 : d.Stays d2 := .of_eq rfl rfl rfl rfl
  clear_value d2
  refine h2.trans (.trans ?_ (stays_timeChanged _))
  exact .of_eq rfl rfl rfl rfl

theorem stays_switchEvent (d : Dev) (w : Slew) (end_ : Nat) : d.Stays (d.switchEvent w end_) := stays_post _ _ _ _

theorem stays_endSlew (d : Dev) (w : Slew) (rate : Option Int) : d.Stays (d.endSlew w rate) := by
  unfold Dev.endSlew
  extract_lets d1
  have h1 : d.Stays d1 := by
    simp only [d1]
    split
    · exact stays_setTime _ _ _
    · exact .refl d
  clear_value d1
  exact h1.trans ((stays_switchEvent _ _ _).after rfl rfl rfl rfl)

theorem stays_switchTime (d : Dev) (src : Nat) : d.Stays (d.switchTime src) := by
  unfold Dev.switchTime
  extract_lets d1 old m
  have h1 : d.Stays d1 := by
    simp only [d1]
    split
    · exact stays_endSlew _ _ _
    · exact .refl d
  clear_value d1
  split
  next e r _ =>
  extract_lets fast diff
  split
  next f d2 hd =>
  have h2 : d.Stays d2 := by
    cases hd
    exact h1.trans (.of_eq rfl rfl rfl rfl)
  extract_lets ns w d3 d4 d5
  have h3 : d.Stays d3 := h2.trans (.of_eq rfl rfl rfl rfl)
  clear_value d3
  have h4 : d.Stays d4 := by
    simp only [d4]
    split
    · exact h3
    · exact h3.trans (stays_setTime _ _ _)
  clear_value d4
  have h5 : d.Stays d5 := h4.trans (stays_switchEvent _ _ _)
  clear_value d5
  split
  · exact h5.trans (stays_switchEvent _ _ _)
  · exact h5.trans (.of_eq rfl rfl rfl rfl)

theorem stays_drvMasterAgain (d : Dev) : d.Stays d.drvMasterAgain := by
  unfold Dev.drvMasterAgain
  dsimp only
  split
  · exact .refl d
  · split
    · exact (stays_switchTime _ _).after rfl rfl rfl rfl
    · exact .of_eq rfl rfl rfl rfl

theorem stays_drvSlave (d : Dev) : d.Stays d.drvSlave := by
  unfold Dev.drvSlave
  split
  · exact .refl d
  · extract_lets d1
    have h1 : d.Stays d1 := by
      simp only [d1]
      split
      · exact stays_switchEvent _ _ _
      · exact .refl d
    clear_value d1
    exact h1.trans (.of_eq rfl rfl rfl rfl)

theorem stays_markRole (d : Dev) : d.Stays d.markRole := by
  unfold Dev.markRole Dev.driveMark
  split
  · exact (stays_setPso _ _ _).after rfl rfl rfl rfl
  · exact .refl d

theorem stays_setEpoch (d : Dev) (e : Nat) : d.Stays (d.setEpoch e) := by
  unfold Dev.setEpoch
  split
  · exact .refl d
  · exact (quiet_capture _ _ _).stays.after rfl rfl rfl rfl

theorem stays_syncStage (d : Dev) (stage tag join : Nat) : d.Stays (d.syncStage stage tag join) :=
  (stays_post _ _ _ _).after rfl rfl rfl rfl

theorem stays_tellOwn (d : Dev) : d.Stays d.tellOwn :=
  (stays_foldl (fun _ _ => stays_completeNow _ _ _ _ _) _ _).after rfl rfl rfl rfl

end Sys2Proof.Machine
end

section
/-! The way between SETUP and READY (R31, R477). -/
namespace Sys2Proof.Machine

/-! ## Entry to READY and to SETUP -/

/-- Unless the device prints, the device state and service stand. -/
def Dev.StaysIn (d e : Dev) : Prop := d.mode ≠ .run → d.mode ≠ .hold → e.mode = d.mode ∧ e.svc = d.svc

theorem Dev.Stays.staysIn {d e : Dev} (h : d.Stays e) : d.StaysIn e := fun hr hh => ⟨(h hr hh).1, (h hr hh).2.2.1⟩

theorem Dev.StaysIn.trans {a b c : Dev} (h : a.StaysIn b) (g : b.StaysIn c) : a.StaysIn c := by
  intro hr hh
  obtain ⟨hm, hs⟩ := h hr hh
  obtain ⟨gm, gs⟩ := g (hm ▸ hr) (hm ▸ hh)
  exact ⟨gm.trans hm, gs.trans hs⟩

/-- A change of the duplex sub-state and of what the unit knows of its partner. -/
theorem staysIn_duplex (d : Dev) (x : Duplex) (n : RingNet) : d.StaysIn { d with duplex := x, net := n } := fun _ _ => ⟨rfl, rfl⟩

theorem staysIn_enterSyncing (d : Dev) : d.StaysIn d.enterSyncing := by
  unfold Dev.enterSyncing
  split
  · exact (Dev.Stays.refl d).staysIn
  · extract_lets p net src d1 d2 d3
    have h1 : d.StaysIn d1 := staysIn_duplex d _ _
    clear_value d1
    have h2 : d1.Stays d2 := (stays_put _ _ _).trans (stays_put _ _ _)
    clear_value d2
    have h3 : d1.Stays d3 := by
      simp only [d3]
      split
      · exact h2.trans (stays_setEpoch _ _)
      · exact h2
    clear_value d3
    exact h1.trans (((h3.trans (stays_markRole _)).trans (stays_drvSlave _)).trans (stays_syncStage _ _ _ _)).staysIn

theorem staysIn_becomeActive (d : Dev) : d.StaysIn d.becomeActive := by
  unfold Dev.becomeActive
  extract_lets src net
  exact (staysIn_duplex d .active net).trans (((stays_tellOwn _).trans (stays_drvMasterAgain _)).trans (stays_markRole _)).staysIn

theorem staysIn_partnerFound (d : Dev) (active : Bool) : d.StaysIn (d.partnerFound active) := by
  unfold Dev.partnerFound
  split
  · exact (Dev.Stays.refl d).staysIn
  · extract_lets net d1
    have h1 : d.StaysIn d1 := staysIn_duplex d d.duplex _
    clear_value d1
    split
    · exact (h1.trans (staysIn_duplex d1 .active d1.net)).trans (staysIn_enterSyncing _)
    · exact h1.trans (staysIn_becomeActive _)

theorem staysIn_duplexEntry (d : Dev) : d.StaysIn d.duplexEntry := by
  unfold Dev.duplexEntry
  split
  · exact staysIn_duplex d .active d.net
  · extract_lets net d1
    have h1 : d.StaysIn d1 := (staysIn_duplex d .syncing _).trans (stays_drvSlave _).staysIn
    clear_value d1
    split
    · exact h1.trans (staysIn_partnerFound _ _)
    · split
      · split
        · exact h1.trans (staysIn_partnerFound _ _)
        · exact h1
      · exact h1

/-- A change of the device state is reported, and nothing else happens by it. -/
theorem quiet_goto (d : Dev) (m : Mode) : Quiet { d with mode := m } (d.goto m) := by
  unfold Dev.goto
  split
  · next h =>
    subst h
    exact .refl d
  · exact (quiet_post _ _ _ _).trans (quiet_mirror _ _ _ _ _)

/-- The set-up check has passed: the device is in READY. -/
theorem passSetup_mode_svc {d : Dev} (h : d.mode = .setup) : d.passSetup.mode = .ready ∧ d.passSetup.svc = d.svc := by
  unfold Dev.passSetup
  extract_lets d1 d2 d3
  have h1 : d.Stays d1 := by
    refine stays_foldl (fun e p => ?_) _ _
    dsimp only
    split
    · exact (stays_clearTest _ _).trans (stays_stopTest _ _ _)
    · exact stays_clearTest _ _
  clear_value d1
  have h2 : d.Stays d2 := h1.trans (stays_put _ _ _)
  clear_value d2
  have h3 : d.Stays d3 := by
    simp only [d3]
    split
    · exact h2.trans (stays_put _ _ _)
    · exact h2
  clear_value d3
  obtain ⟨-, -, hs, -⟩ := h3 (by simp [h]) (by simp [h])
  have q := (quiet_goto d3 .ready).1
  have qm : (d3.goto .ready).mode = .ready := q.mode
  have qs : (d3.goto .ready).svc = d3.svc := q.svc
  obtain ⟨em, es⟩ := staysIn_duplexEntry (d3.goto .ready) (by simp [qm]) (by simp [qm])
  exact ⟨em.trans qm, es.trans (qs.trans hs)⟩

/-- Entry to SETUP opens no job, and the duplex sub-state does not apply there (R34). -/
theorem enterSetup_parts (d : Dev) : d.enterSetup.mode = .setup ∧ d.enterSetup.duplex = .active ∧ (d.jobs = [] → d.enterSetup.jobs = []) := by
  unfold Dev.enterSetup
  extract_lets d1 src d2 d2' src' d3
  have q : d1.Same { d with mode := .setup } := (quiet_goto d .setup).1
  have qm : d1.mode = .setup := q.mode
  have qj : d1.jobs = d.jobs := q.jobs
  clear_value d1
  have h2 : Dev.Stays { d1 with duplex := .active, net := { d1.net with sync := none, arb := none, waitAt := none } } d2 := stays_drvMasterAgain _
  clear_value d2
  have h3 : Dev.Stays { d1 with duplex := .active, net := { d1.net with sync := none, arb := none, waitAt := none } } d3 := by
    simp only [d3]
    split
    · exact (h2.trans (stays_driveHold _ _)).trans ((stays_ringPortChange _ _).after rfl rfl rfl rfl)
    · exact h2
  clear_value d3
  obtain ⟨hm, hd, -, hj⟩ := (h3.trans (stays_foldl stays_bringUp _ _)) (by simp [qm]) (by simp [qm])
  exact ⟨hm.trans qm, hd, fun h => hj (qj.trans h)⟩

/-! ## GLB_STATE_CTL -/

theorem ctlWrite_goReady {d : Dev} {v : Nat} (hm : d.mode = .setup) (h0 : bitOf v 0 = true) (h1 : bitOf v 1 = false) (h2 : bitOf v 2 = false) :
    d.ctlWrite v = { d with svc := { d.svc with checking := true } } := by
  unfold Dev.ctlWrite
  simp only [hm, h0, h1, h2, reduceCtorEq, Bool.false_eq_true, if_true, if_false]
  split
  · next hc => rw [← hc, ← hm]
  · rfl

theorem ctlWrite_goSetup {d : Dev} {v : Nat} (hm : d.mode = .ready) (hj : d.jobs = []) (h0 : bitOf v 0 = false) (h1 : bitOf v 1 = true)
    (h2 : bitOf v 2 = false) : d.ctlWrite v = d.enterSetup := by
  unfold Dev.ctlWrite
  simp [hm, hj, h0, h1, h2]

/-! ## Commands that act on the device alone -/

/-- Of the effect of a command only its value at the device as the command finds it counts. -/
theorem act_congr {s : State} {dt : Nat} {f : Dev → Dev} {e : Dev} (h : f (s.now dt) = e) : s.act dt f = s.act dt fun _ => e := by
  unfold State.act
  rw [← h]
  rfl

/-- What a command does, by what its effect and the step leave. -/
theorem act_does {s : State} {dt : Nat} {f : Dev → Dev} {P : State → Prop} {i : Instr} (hi : exec i s = s.act dt f)
    (hp : ∀ t : State, t.dev = s.dev.settle dt (f (s.now dt)) → P t) : Does i s P := ⟨_, hi, rfl, rfl, hp _ rfl⟩

/-- An event posted at the end of a command is told of, whatever quiet change of the device came before it. -/
theorem tells_of_postAt {d e : Dev} {t : State} {code sev loc : Nat} {args : List Nat} (hl : e.listens = d.listens) (hm : e.mode = d.mode)
    (ho : e.out = d.out) (hp : (e.postAt code sev args loc).out <+: t.dev.out) : Tells d t code args := by
  intro h hs
  obtain ⟨idx, x, hx, hc⟩ := out_postAt (hl.trans h) code sev args loc
    (by rw [hm]; rintro ⟨h1, h2⟩; rw [hs h1] at h2; exact Bool.noConfusion h2)
  rw [ho] at hx
  exact ⟨idx, x, mem_drop_of_prefix hp hx, hc⟩

/-- The same of a command that ends with the event. -/
theorem tells_of_act {d e b : Dev} {t : State} {dt code sev loc : Nat} {args : List Nat} (hl : e.listens = d.listens) (hm : e.mode = d.mode)
    (ho : e.out = d.out) (ht : t.dev = b.settle dt (e.postAt code sev args loc)) : Tells d t code args :=
  tells_of_postAt hl hm ho (ht ▸ out_prefix_settle _ _ _)

section
variable {s : State} {dt v : Nat}

theorem exec_goReady_in_setup (hm : s.dev.mode = .setup) (h0 : bitOf v 0 = true) (h1 : bitOf v 1 = false) (h2 : bitOf v 2 = false) :
    exec (.goReady dt v) s = s.act dt fun _ => { s.now dt with svc := { s.dev.svc with checking := true } } :=
  act_congr ((if_pos h0).trans (ctlWrite_goReady hm h0 h1 h2))

theorem exec_goSetup_in_ready (hm : s.dev.mode = .ready) (hj : s.dev.jobs = []) (h0 : bitOf v 0 = false) (h1 : bitOf v 1 = true)
    (h2 : bitOf v 2 = false) : exec (.goSetup dt v) s = s.act dt fun _ => (s.now dt).enterSetup :=
  act_congr ((if_pos h1).trans (ctlWrite_goSetup hm hj h0 h1 h2))

/-- The set-up check no longer runs. -/
def Dev.checkEnded (d : Dev) : Dev := { d with svc := { d.svc with checking := false } }

theorem exec_setupCheckDone (dt : Nat) (s : State) : exec (.setupCheckDone dt) s = execSetupCheckDone dt s := rfl

theorem exec_setupCheckDone_of_fails {f : Fld} (hm : s.dev.mode = .setup) (hc : s.dev.svc.checking = true)
    (hf : (s.now dt).checkEnded.setupFails = some f) :
    exec (.setupCheckDone dt) s = s.act dt fun _ => (s.now dt).checkEnded.post 0x0003 sevWarn [f.off, f.lo] := by
  rw [exec_setupCheckDone, execSetupCheckDone]
  refine act_congr ?_
  unfold Dev.checkEnded at hf
  dsimp only
  rw [if_neg (by simp [State.now, hm, hc]), hf]
  rfl

theorem exec_setupCheckDone_of_passes (hm : s.dev.mode = .setup) (hc : s.dev.svc.checking = true)
    (hf : (s.now dt).checkEnded.setupFails = none) :
    exec (.setupCheckDone dt) s = s.act dt fun _ => (s.now dt).checkEnded.passSetup := by
  rw [exec_setupCheckDone, execSetupCheckDone]
  refine act_congr ?_
  unfold Dev.checkEnded at hf
  dsimp only
  rw [if_neg (by simp [State.now, hm, hc]), hf]
  rfl

end

theorem goReady_starts_check (s : State) (dt v : Nat) (hm : s.dev.mode = .setup) (h0 : bitOf v 0 = true) (h1 : bitOf v 1 = false)
    (h2 : bitOf v 2 = false) :
    Leaves (.goReady dt v) s { s.now dt with svc := { s.dev.svc with checking := true } } fun t => t.dev.lkOpen = false := by
  refine act_leaves (exec_goReady_in_setup hm h0 h1 h2) (.refl _) id (modeEdge_refl _) fun t ht => ?_
  have hs : t.dev.svc.checking = true := by rw [ht, settle_svc]
  simp [Dev.lkOpen, hs]

theorem setupCheckDone_fails (s : State) (dt : Nat) (f : Fld) (hm : s.dev.mode = .setup) (hc : s.dev.svc.checking = true)
    (hf : (s.now dt).checkEnded.setupFails = some f) :
    Leaves (.setupCheckDone dt) s (s.now dt).checkEnded fun t => t.dev.lkOpen = true ∧ Tells (s.now dt) t 0x0003 [f.off, f.lo] := by
  have q := (quiet_post (s.now dt).checkEnded 0x0003 sevWarn [f.off, f.lo]).1
  refine act_leaves (exec_setupCheckDone_of_fails hm hc hf) q id (modeEdge_refl _) fun t ht => ?_
  refine ⟨?_, tells_of_act (e := (s.now dt).checkEnded) ?_ rfl rfl ht⟩
  · have ts : t.dev.svc = (s.now dt).checkEnded.svc := by rw [ht, settle_svc]; exact q.svc
    have tm : t.dev.mode = .setup := by
      rw [ht, settle_mode, q.mode]
      simp [Dev.checkEnded, State.now, hm, modeEdge_refl]
    simp [Dev.lkOpen, ts, tm, Dev.checkEnded]
  · exact listens_congr rfl rfl rfl fun _ _ => ⟨rfl, rfl, rfl, rfl, rfl⟩

theorem setupCheckDone_passes (s : State) (dt : Nat) (hm : s.dev.mode = .setup) (hc : s.dev.svc.checking = true)
    (hf : (s.now dt).checkEnded.setupFails = none) :
    Does (.setupCheckDone dt) s fun t => t.dev.mode = .ready ∧ t.dev.svc.checking = false ∧ t.dev.lkOpen = false := by
  refine act_does (exec_setupCheckDone_of_passes hm hc hf) fun t ht => ?_
  obtain ⟨pm, ps⟩ := passSetup_mode_svc (d := (s.now dt).checkEnded) hm
  have tm : t.dev.mode = .ready := by
    rw [ht, settle_mode, pm, hm]
    rfl
  have ts : t.dev.svc.checking = false := by
    rw [ht, settle_svc, ps]
    rfl
  exact ⟨tm, ts, by simp [Dev.lkOpen, tm]⟩

theorem goSetup_in_ready (s : State) (dt v : Nat) (hm : s.dev.mode = .ready) (hj : s.dev.jobs = []) (h0 : bitOf v 0 = false)
    (h1 : bitOf v 1 = true) (h2 : bitOf v 2 = false) :
    Does (.goSetup dt v) s fun t => t.dev.mode = .setup ∧ t.dev.duplex = .active ∧ t.dev.jobs = [] := by
  refine act_does (exec_goSetup_in_ready hm hj h0 h1 h2) fun t ht => ?_
  obtain ⟨pm, pd, pj⟩ := enterSetup_parts (s.now dt)
  rw [ht, settle_mode, settle_duplex, settle_jobs, pm, hm]
  exact ⟨rfl, pd, pj hj⟩

/-- Settles O11: what starts, ends and follows the set-up check, case by case. -/
theorem betweenSetupAndReady : Obligations.BetweenSetupAndReady := by
  unfold Obligations.BetweenSetupAndReady
  exact ⟨goReady_starts_check, setupCheckDone_fails, setupCheckDone_passes, goSetup_in_ready⟩

end Sys2Proof.Machine
end

section
/-! Register writes (R9, R38): what a write leaves in each field of its register, and everything else it leaves as it was. -/
namespace Sys2Proof.Machine

/-! ## The register tables -/

/-- The fields of a register lie in its word, no two of them at one bit. -/
def RegDesc.fits (r : RegDesc) : Bool :=
  (r.fields.all fun f => decide (0 < f.w) && decide (f.lo + f.w ≤ 32)) && decide (r.fields.Pairwise fun f g => f.lo ≠ g.lo)

theorem blockRegs_fit : ∀ b < 16, ∀ r ∈ blockRegs b, r.fits = true := by decide +kernel

/-- BAR0 has 16 blocks (R41). -/
theorem blockRegs_beyond (k : Nat) : blockRegs (k + 16) = [] := rfl

theorem regAt_fits {off : Nat} {r : RegDesc} (h : regAt off = some r) : r.fits = true := by
  have hr : r ∈ blockRegs (off / 65536) := List.mem_of_find?_eq_some h
  by_cases hb : off / 65536 < 16
  · exact blockRegs_fit _ hb r hr
  · obtain ⟨k, hk⟩ : ∃ k, off / 65536 = k + 16 := ⟨off / 65536 - 16, by omega⟩
    rw [hk, blockRegs_beyond] at hr
    cases hr

theorem regAt_field_fits {off : Nat} {r : RegDesc} (h : regAt off = some r) {f : FldDesc} (hf : f ∈ r.fields) :
    0 < f.w ∧ f.lo + f.w ≤ 32 := by
  have := regAt_fits h
  simp only [RegDesc.fits, Bool.and_eq_true, List.all_eq_true, decide_eq_true_eq] at this
  exact this.1 f hf

theorem regAt_fields_distinct {off : Nat} {r : RegDesc} (h : regAt off = some r) : r.fields.Pairwise fun f g => f.lo ≠ g.lo := by
  have := regAt_fits h
  simp only [RegDesc.fits, Bool.and_eq_true, decide_eq_true_eq] at this
  exact this.2

/-- A field of a word is not touched by the bits above the word. -/
theorem bitsOf_word (v : Nat) {lo w : Nat} (h : lo + w ≤ 32) : bitsOf (v % 2 ^ 32) lo w = bitsOf v lo w := by
  unfold bitsOf
  refine Nat.eq_of_testBit_eq fun i => ?_
  simp only [Nat.testBit_mod_two_pow, Nat.testBit_div_two_pow]
  by_cases hi : i < w
  · simp [hi, show i + lo < 32 by omega]
  · simp [hi]

theorem bitsOf_lt (v lo w : Nat) : bitsOf v lo w < 2 ^ w := Nat.mod_lt _ (Nat.two_pow_pos w)

/-! ## One field -/

theorem writeFld_with_regs (d : Dev) (off v : Nat) (f : FldDesc) : d.writeFld off v f = { d with regs := (d.writeFld off v f).regs } := by
  unfold Dev.writeFld
  dsimp only
  split
  · split <;> rfl
  · split <;> rfl
  · split <;> rfl
  · rfl
  · rfl

/-- A write of a field moves no other key, and none at all where the field is read-only. -/
theorem kvGet_writeFld (d : Dev) (off v : Nat) (f : FldDesc) {k : Nat} (h : (f.at_ off).key = k → f.acc = .ro) :
    kvGet (d.writeFld off v f).regs k = kvGet d.regs k := by
  by_cases hk : (f.at_ off).key = k
  · unfold Dev.writeFld
    rw [h hk]
  · unfold Dev.writeFld
    dsimp only
    split
    · split
      · exact kvGet_put_of_ne d _ _ k hk
      · rfl
    · split
      · exact kvGet_put_of_ne d _ _ k hk
      · rfl
    · split
      · exact kvGet_put_of_ne d _ _ k hk
      · rfl
    · rfl
    · rfl

/-- What a write of a word in SETUP leaves in a field, by its access code. -/
def FldWritten (d e : Dev) (off v : Nat) (f : FldDesc) : Prop :=
  match f.acc with
  | .lk | .rw => e.get (f.at_ off) = bitsOf v f.lo f.w
  | .w1c => d.get (f.at_ off) < 2 ^ f.w →
      e.get (f.at_ off) = d.get (f.at_ off) - Nat.land (d.get (f.at_ off)) (bitsOf v f.lo f.w)
  | .ro | .w1s => e.get (f.at_ off) = d.get (f.at_ off)

theorem FldWritten.congr {d e d' e' : Dev} {off v : Nat} {f : FldDesc} (h : FldWritten d e off v f)
    (hd : d'.get (f.at_ off) = d.get (f.at_ off)) (he : e'.get (f.at_ off) = e.get (f.at_ off)) : FldWritten d' e' off v f := by
  unfold FldWritten at h ⊢
  rw [hd, he]
  exact h

theorem fldWritten_word {d e : Dev} {off v : Nat} {f : FldDesc} (hf : f.lo + f.w ≤ 32) (h : FldWritten d e off (v % 2 ^ 32) f) :
    FldWritten d e off v f := by
  unfold FldWritten at h ⊢
  rw [bitsOf_word v hf] at h
  exact h

theorem fldWritten_writeFld {d : Dev} (hm : d.mode = .setup) (hc : d.svc.checking = false) (off v : Nat) (f : FldDesc) :
    FldWritten d (d.writeFld off v f) off v f := by
  have hb : bitsOf v f.lo f.w % 2 ^ (f.at_ off).w = bitsOf v f.lo f.w := Nat.mod_eq_of_lt (bitsOf_lt _ _ _)
  unfold FldWritten Dev.writeFld
  cases ha : f.acc with
  | lk => simpa [Dev.lkOpen, hm, hc] using hb
  | rw => simpa [Dev.rwOpen, hm] using hb
  | ro => rfl
  | w1s => rfl
  | w1c =>
    intro hw
    by_cases h0 : bitsOf v f.lo f.w = 0
    · have hz : Nat.land (d.get (f.at_ off)) 0 = 0 := Nat.and_zero _
      simp only [h0, hz, ne_eq, not_true_eq_false, decide_false, Bool.and_false, Bool.false_eq_true, if_false, Nat.sub_zero]
    · have hl : (d.get (f.at_ off) - Nat.land (d.get (f.at_ off)) (bitsOf v f.lo f.w)) % 2 ^ (f.at_ off).w = _ :=
        Nat.mod_eq_of_lt (Nat.lt_of_le_of_lt (Nat.sub_le _ _) hw)
      simpa [Dev.w1cOpen, Mode.served, hm, h0] using hl

/-! ## A word -/

/-- A write of a word, field by field. -/
def Dev.writeFields (d : Dev) (off v : Nat) (fs : List FldDesc) : Dev := fs.foldl (fun d f => d.writeFld off v f) d

theorem writeFields_cons (d : Dev) (off v : Nat) (f : FldDesc) (fs : List FldDesc) :
    d.writeFields off v (f :: fs) = (d.writeFld off v f).writeFields off v fs := rfl

theorem writeFields_with_regs (d : Dev) (off v : Nat) (fs : List FldDesc) :
    d.writeFields off v fs = { d with regs := (d.writeFields off v fs).regs } := by
  induction fs generalizing d with
  | nil => rfl
  | cons f fs ih =>
    rw [writeFields_cons, ih]
    rw [writeFld_with_regs]

theorem kvGet_writeFields (d : Dev) (off v : Nat) (fs : List FldDesc) {k : Nat} (h : ∀ f ∈ fs, (f.at_ off).key = k → f.acc = .ro) :
    kvGet (d.writeFields off v fs).regs k = kvGet d.regs k := by
  induction fs generalizing d with
  | nil => rfl
  | cons f fs ih =>
    rw [writeFields_cons, ih _ fun g hg => h g (List.mem_cons_of_mem _ hg), kvGet_writeFld d off v f (h f (List.mem_cons_self ..))]

theorem key_at (f : FldDesc) (off : Nat) : (f.at_ off).key = off * 8 + f.lo := rfl

theorem fldWritten_writeFields {d : Dev} (hm : d.mode = .setup) (hc : d.svc.checking = false) (off v : Nat) {fs : List FldDesc}
    (hp : fs.Pairwise fun f g => f.lo ≠ g.lo) : ∀ f ∈ fs, FldWritten d (d.writeFields off v fs) off v f := by
  induction fs generalizing d with
  | nil => simp
  | cons g gs ih =>
    rw [List.pairwise_cons] at hp
    obtain ⟨hg, hp⟩ := hp
    intro f hf
    rw [writeFields_cons]
    rcases List.mem_cons.mp hf with rfl | hf
    · refine (fldWritten_writeFld hm hc off v f).congr rfl ?_
      unfold Dev.get
      rw [kvGet_writeFields _ _ _ _ fun x hx hk => absurd hk (by simp only [key_at]; have := hg x hx; omega)]
    · have hm' : (d.writeFld off v g).mode = .setup := by rw [writeFld_with_regs]; exact hm
      have hc' : (d.writeFld off v g).svc.checking = false := by rw [writeFld_with_regs]; exact hc
      refine (ih hm' hc' hp f hf).congr ?_ rfl
      unfold Dev.get
      rw [kvGet_writeFld _ _ _ _ fun hk => absurd hk (by simp only [key_at]; have := hg f hf; omega)]

/-- A register with no other fields than locked and read-only ones keeps them all. -/
theorem writeFields_locked {d : Dev} (hl : d.lkOpen = false) (off v : Nat) {fs : List FldDesc}
    (h : ∀ f ∈ fs, f.acc = .lk ∨ f.acc = .ro) : d.writeFields off v fs = d := by
  induction fs with
  | nil => rfl
  | cons f fs ih =>
    have hf : d.writeFld off v f = d := by
      unfold Dev.writeFld
      rcases h f (List.mem_cons_self ..) with ha | ha <;> simp [ha, hl]
    rw [writeFields_cons, hf, ih fun g hg => h g (List.mem_cons_of_mem _ hg)]

/-- A write of a register with LK fields while they are locked is posted, whatever its other fields take. -/
theorem writeReg_of_locked {d : Dev} {off : Nat} {r : RegDesc} (v : Nat) (hd : d.decodes off = true) (hr : regAt off = some r)
    (hlk : (r.fields.any fun f => f.acc == .lk) = true) (hl : d.lkOpen = false) :
    d.writeReg off v = (d.writeFields off v r.fields).post 0x0004 sevWarn [off, v, d.mode.code] := by
  unfold Dev.writeReg
  simp only [hd, hr, hlk, hl, Bool.not_true, Bool.not_false, Bool.and_self, Bool.false_eq_true, if_true, if_false]
  rfl

theorem writeReg_of_open {d : Dev} {off : Nat} {r : RegDesc} (v : Nat) (hd : d.decodes off = true) (hr : regAt off = some r)
    (hl : d.lkOpen = true) : d.writeReg off v = d.writeFields off v r.fields := by
  unfold Dev.writeReg
  simp only [hd, hr, hl, Bool.not_true, Bool.and_false, Bool.false_eq_true, if_false]
  rfl

/-! ## What follows a write -/

/-- The fields whose change `afterWrite` acts on. -/
def effectFields : List Fld :=
  (List.range 32).map Reg.HOST_RING_CFG_n.EN ++ (List.range 16).map Reg.LINK_CFG_n.EN ++ (List.range 2).map Reg.TIME_TRK_CFG_t.EN
    ++ [Reg.RING_CFG.EN, Reg.TIME_CFG.SRC, Reg.LINK_HOLD.HOLD_MAX, Reg.SENSE_MOD_CFG.EN]

theorem effectFields_not_reported : ∀ f ∈ effectFields, f.key ∉ reportKeys := by decide +kernel

theorem mem_effectFields_ring {n : Nat} (h : n < 32) : Reg.HOST_RING_CFG_n.EN n ∈ effectFields := by
  simp only [effectFields, List.mem_append, List.mem_map, List.mem_range]
  exact .inl (.inl (.inl ⟨n, h, rfl⟩))

theorem mem_effectFields_link {n : Nat} (h : n < 16) : Reg.LINK_CFG_n.EN n ∈ effectFields := by
  simp only [effectFields, List.mem_append, List.mem_map, List.mem_range]
  exact .inl (.inl (.inr ⟨n, h, rfl⟩))

theorem mem_effectFields_tracker {t : Nat} (h : t < 2) : Reg.TIME_TRK_CFG_t.EN t ∈ effectFields := by
  simp only [effectFields, List.mem_append, List.mem_map, List.mem_range]
  exact .inl (.inr ⟨t, h, rfl⟩)

theorem foldl_of_fixed {α β : Type} {f : α → β → α} {a : α} (h : ∀ b, f a b = a) (l : List β) : l.foldl f a = a := by
  induction l with
  | nil => rfl
  | cons b l ih => rw [List.foldl_cons, h, ih]

/-- Nothing follows where the fields stand and LK fields are locked. -/
theorem afterWrite_of_unchanged {d e : Dev} (off : Nat) (h : ∀ f ∈ effectFields, e.get f = d.get f) (hl : e.lkOpen = false) :
    Dev.afterWrite d e off = e := by
  have on : ∀ f ∈ effectFields, e.on f = d.on f := fun f hf => by unfold Dev.on; rw [h f hf]
  unfold Dev.afterWrite
  dsimp only
  split
  · simp [on _ (mem_effectFields_ring (n := (off - 0x10100) / 32) (by omega))]
  split
  · rw [hl]
    simp [on Reg.RING_CFG.EN (by simp [effectFields])]
  split
  · rw [if_neg (Classical.not_not.mpr (h Reg.TIME_CFG.SRC (by simp [effectFields])))]
  split
  · rw [if_neg (Classical.not_not.mpr (on _ (mem_effectFields_tracker (by omega))))]
  split
  · simp [on _ (mem_effectFields_link (n := (off - 0x90000) / 64) (by omega))]
  split
  · rw [if_neg (Classical.not_not.mpr (h Reg.LINK_HOLD.HOLD_MAX (by simp [effectFields])))]
  split
  · refine foldl_of_fixed (fun n => ?_) _
    rw [h Reg.SENSE_MOD_CFG.EN (by simp [effectFields])]
    simp
  · rfl

/-- A write of a register without an effect of its own can start a ring's sequence afresh, and does nothing else; that a link is not
switched off is asked for. -/
theorem afterWrite_plain {d e : Dev} {off : Nat}
    (ho : [0x70000, 0x70004, 0x40030, 0x40040, 0x40050, 0x60080, 0x90804].contains off = false)
    (hl : ∀ n < 16, off = (Reg.LINK_CFG_n.EN n).off → d.on (Reg.LINK_CFG_n.EN n) = true → e.on (Reg.LINK_CFG_n.EN n) = true) :
    ∃ rs, Dev.afterWrite d e off = { e with host := { e.host with rings := rs } } := by
  simp only [List.contains_eq_mem, List.mem_cons, List.not_mem_nil, or_false, decide_eq_false_iff_not, not_or] at ho
  obtain ⟨h1, h2, h3, h4, h5, h6, h7⟩ := ho
  unfold Dev.afterWrite
  simp only [h1, h2, h3, h4, h5, h6, h7, or_self, if_false]
  split
  · split
    · exact ⟨_, rfl⟩
    · exact ⟨_, rfl⟩
  split
  · next hr =>
    have hn := hl ((off - 0x90000) / 64) (by omega) (by simp only [Reg.LINK_CFG_n.EN]; omega)
    rw [if_neg]
    · exact ⟨_, rfl⟩
    · intro hc
      simp only [Bool.and_eq_true, Bool.not_eq_true'] at hc
      rw [hn hc.1] at hc
      exact Bool.noConfusion hc.2
  · exact ⟨_, rfl⟩

/-! ## REGISTER_WRITE -/

/-- A write of any word of BAR0 that is none of the commands of its own. -/
theorem wordWrite_of_plain {d : Dev} {off : Nat} (v : Nat) (mramOk : Bool) (hm : d.mode.served = true) (hh : d.clk.asyncHold = false)
    (ho : ownRow off = false) : d.wordWrite off v mramOk = Dev.afterWrite d (d.writeReg off v) off := by
  have hd : d.bar0Dead = false := by simp [Dev.bar0Dead, hh]
  have hx : d.decodes off = true := by simp [Dev.decodes, hm]
  simp only [ownRow, Bool.or_eq_false_iff, beq_eq_false_iff_ne] at ho
  obtain ⟨⟨⟨⟨⟨⟨h1, h2⟩, h3⟩, h4⟩, h5⟩, h6⟩, h7⟩ := ho
  simp [Dev.wordWrite, hd, hx, h1, h2, h3, h4, h5, h6, h7]

theorem exec_registerWrite (dt off v : Nat) (parity : Bool) (s : State) :
    exec (.registerWrite dt off v parity) s = execRegisterWrite dt off v parity s := rfl

/-- REGISTER_WRITE of a register with no row of its own, where BAR0 takes it. -/
theorem exec_registerWrite_of_plain {s : State} {dt off : Nat} (v : Nat) (hm : s.dev.mode.served = true) (hh : s.dev.clk.asyncHold = false)
    (h4 : off % 4 = 0) (hb : off < 0x100000) (ho : ownRow off = false) : exec (.registerWrite dt off v false) s =
      s.act dt fun _ => Dev.afterWrite (s.now dt) ((s.now dt).writeReg off (v % 2 ^ 32)) off := by
  have hoff : (s.now dt).mode ≠ .off := by
    change s.dev.mode ≠ .off
    intro h
    rw [h] at hm
    exact Bool.noConfusion hm
  rw [exec_registerWrite, execRegisterWrite]
  refine act_congr ?_
  rw [if_neg (not_or.mpr ⟨hoff, by omega⟩), if_neg Bool.false_ne_true, ho, if_neg Bool.false_ne_true]
  exact wordWrite_of_plain _ _ hm hh ho

theorem Mode.served_of_printing {m : Mode} (h : m.printing = true) : m.served = true := by
  revert h
  cases m <;> decide

theorem lkOpen_of_printing {d : Dev} (h : d.mode.printing = true) : d.lkOpen = false := by
  have hm : d.mode ≠ .setup := by
    intro hm
    rw [hm] at h
    cases h
  simp [Dev.lkOpen, hm]

/-- Settles O20: no field moves, so nothing follows the event. -/
theorem lockedWrites : Obligations.LockedWrites := by
  unfold Obligations.LockedWrites
  intro s dt off v r hp hh h4 hb hr ho hlk hall
  have hs : (s.now dt).mode.served = true := Mode.served_of_printing hp
  have hl : (s.now dt).lkOpen = false := lkOpen_of_printing (d := s.now dt) hp
  have q := quiet_post (s.now dt) 0x0004 sevWarn [off, v % 2 ^ 32, (s.now dt).mode.code]
  have he : Dev.afterWrite (s.now dt) ((s.now dt).writeReg off (v % 2 ^ 32)) off =
      (s.now dt).post 0x0004 sevWarn [off, v % 2 ^ 32, (s.now dt).mode.code] := by
    rw [writeReg_of_locked _ (by simp [Dev.decodes, hs]) hr hlk hl, writeFields_locked hl off _ (by simpa using hall)]
    exact afterWrite_of_unchanged off (fun f hf => q.1.get f (effectFields_not_reported f hf))
      (by unfold Dev.lkOpen; rw [q.1.mode, q.1.svc]; exact hl)
  have hi := exec_registerWrite_of_plain (s := s) (dt := dt) v hs hh h4 hb ho
  rw [he] at hi
  exact act_leaves hi q.1 id (modeEdge_refl _) fun t ht => tells_of_act (e := s.now dt) rfl rfl rfl ht

end Sys2Proof.Machine
end

section
/-! Accesses by the host in SETUP (R38, R41, R42, R379, R427): register writes that take effect, and what an access is answered with. -/
namespace Sys2Proof.Machine

/-! ## A register write that takes effect -/

/-- POS_STATUS is read-only throughout. -/
theorem posStatus_ro : ∀ r, regAt 0x3004C = some r → ∀ f ∈ r.fields, f.acc = .ro := by
  have h : (regAt 0x3004C).all (fun r => r.fields.all fun f => f.acc == .ro) = true := by decide +kernel
  intro r hr f hf
  simp only [hr, Option.all_some, List.all_eq_true, beq_iff_eq] at h
  exact h f hf

/-- EN of each link is an LK field, alone at bit 0. -/
theorem linkEn_lk : ∀ n < 16, ∀ r, regAt (Reg.LINK_CFG_n.EN n).off = some r → ∃ f ∈ r.fields, f.acc = .lk ∧ f.w = 1
    ∧ f.at_ (Reg.LINK_CFG_n.EN n).off = Reg.LINK_CFG_n.EN n := by
  have h : ∀ n < 16, (regAt (Reg.LINK_CFG_n.EN n).off).all (fun r => r.fields.any fun f =>
      f.acc == .lk && f.w == 1 && f.at_ (Reg.LINK_CFG_n.EN n).off == Reg.LINK_CFG_n.EN n) = true := by decide +kernel
  intro n hn r hr
  have := h n hn
  simpa only [hr, Option.all_some, List.any_eq_true, Bool.and_eq_true, beq_iff_eq, and_assoc] using this

/-- A field of another word is left by a write of a register, and so is one of a read-only register. -/
theorem get_writeFields {d : Dev} {off : Nat} {r : RegDesc} (v : Nat) (hr : regAt off = some r) (h4 : off % 4 = 0) (g : Fld)
    (hg : g.off % 4 = 0 ∧ g.lo < 32) (ho : g.off = off → ∀ f ∈ r.fields, f.acc = .ro) :
    (d.writeFields off v r.fields).get g = d.get g := by
  unfold Dev.get
  rw [kvGet_writeFields]
  intro f hf hk
  have hw := regAt_field_fits hr hf
  rw [key_at] at hk
  unfold Fld.key at hk
  exact ho (by omega) f hf

theorem get_writeFields_posStatus {d : Dev} {off : Nat} {r : RegDesc} (v : Nat) (hr : regAt off = some r) (h4 : off % 4 = 0) (g : Fld)
    (hg : g.off = 0x3004C ∧ g.lo < 32) : (d.writeFields off v r.fields).get g = d.get g :=
  get_writeFields v hr h4 g ⟨by rw [hg.1], hg.2⟩ fun h => posStatus_ro r (by rw [← hg.1, h]; exact hr)

/-- A command that leaves POS_STATUS and the device state is all that happens in its step. -/
theorem settle_eq_of_posStatus {b a : Dev} {dt : Nat} (h : ∀ g : Fld, g.off = 0x3004C ∧ g.lo < 32 → a.get g = b.get g) (hm : a.mode = b.mode)
    (hb : b.mode ≠ .off) (ht : a.tb = tbPlus b.tb dt) : b.settle dt a = a := by
  have hf : a.pwFlags = b.pwFlags := by
    unfold Dev.pwFlags
    rw [h _ ⟨rfl, by decide⟩, h _ ⟨rfl, by decide⟩, h _ ⟨rfl, by decide⟩, h _ ⟨rfl, by decide⟩, h _ ⟨rfl, by decide⟩]
  have hv : a.on Reg.POS_STATUS.VALID = b.on Reg.POS_STATUS.VALID := by
    unfold Dev.on
    rw [h _ ⟨rfl, by decide⟩]
  exact settle_eq hf hv hb (hm ▸ hb) (hm ▸ modeEdge_refl _) ht

/-- A link that is on stays on where the write sets its EN. -/
theorem linkEn_writeFields {d : Dev} {off : Nat} {r : RegDesc} (v : Nat) (hm : d.mode = .setup) (hc : d.svc.checking = false)
    (hr : regAt off = some r) {n : Nat} (hn : n < 16) (ho : off = (Reg.LINK_CFG_n.EN n).off)
    (hv : bitOf v (Reg.LINK_CFG_n.EN n).lo = true) : (d.writeFields off v r.fields).on (Reg.LINK_CFG_n.EN n) = true := by
  subst ho
  obtain ⟨f, hf, ha, hw, hat⟩ := linkEn_lk n hn r hr
  have h := fldWritten_writeFields hm hc (Reg.LINK_CFG_n.EN n).off v (regAt_fields_distinct hr) f hf
  simp only [FldWritten, ha, hat, hw] at h
  have hlo : f.lo = (Reg.LINK_CFG_n.EN n).lo := congrArg Fld.lo hat
  unfold Dev.on
  rw [h, hlo]
  simpa [bitOf, bitsOf] using hv

/-- The device with other register contents and other states of ring service. -/
def Dev.withRegs (d : Dev) (l : List (Nat × Nat)) (rs : List RingSt) : Dev := { d with regs := l, host := { d.host with rings := rs } }

theorem get_withRegs (d e : Dev) (rs : List RingSt) (g : Fld) : (d.withRegs e.regs rs).get g = e.get g := rfl

/-- A write in SETUP of a register with no effect of its own leaves its fields written, and may start the sequence of a ring afresh. -/
theorem writeReg_in_setup {d : Dev} {off : Nat} (v : Nat) {r : RegDesc} (hm : d.mode = .setup) (hc : d.svc.checking = false)
    (hr : regAt off = some r)
    (hx : [0x70000, 0x70004, 0x40030, 0x40040, 0x40050, 0x60080, 0x90804].contains off = false)
    (hl : ∀ n < 16, off = (Reg.LINK_CFG_n.EN n).off → d.on (Reg.LINK_CFG_n.EN n) = true → bitOf v (Reg.LINK_CFG_n.EN n).lo = true) :
    ∃ rs, Dev.afterWrite d (d.writeReg off (v % 2 ^ 32)) off = d.withRegs (d.writeFields off (v % 2 ^ 32) r.fields).regs rs := by
  have hd : d.decodes off = true := by simp [Dev.decodes, Mode.served, hm]
  have hk : d.lkOpen = true := by simp [Dev.lkOpen, hm, hc]
  have hw : d.writeReg off (v % 2 ^ 32) = d.writeFields off (v % 2 ^ 32) r.fields := writeReg_of_open _ hd hr hk
  obtain ⟨rs, ha⟩ := afterWrite_plain (d := d) (e := d.writeFields off (v % 2 ^ 32) r.fields) hx fun n hn he hon =>
    linkEn_writeFields _ hm hc hr hn he (by
      have hv := hl n hn he hon
      have hw := bitsOf_word v (lo := 0) (w := 1) (by omega)
      simpa [bitOf, bitsOf, Reg.LINK_CFG_n.EN, hw] using hv)
  refine ⟨rs, ?_⟩
  rw [hw, ha, writeFields_with_regs]
  rfl

theorem registerWrite_in_setup (s : State) (dt off v : Nat) (r : RegDesc) (hm : s.dev.mode = .setup) (hc : s.dev.svc.checking = false)
    (hh : s.dev.clk.asyncHold = false) (h4 : off % 4 = 0) (hb : off < 0x100000) (hr : regAt off = some r) (ho : ownRow off = false)
    (hx : [0x70000, 0x70004, 0x40030, 0x40040, 0x40050, 0x60080, 0x90804].contains off = false)
    (hl : ∀ n < 16, off = (Reg.LINK_CFG_n.EN n).off → s.dev.on (Reg.LINK_CFG_n.EN n) = true → bitOf v (Reg.LINK_CFG_n.EN n).lo = true) :
    Alters (.registerWrite dt off v false) s dt id (fun o => decide (o / 4 = off / 4)) fun t =>
      t.dev.out = s.dev.out ∧ ∀ f ∈ r.fields, FldWritten s.dev t.dev off v f := by
  obtain ⟨rs, ha⟩ := writeReg_in_setup (d := s.now dt) v hm hc hr hx hl
  generalize hw : (s.now dt).writeFields off (v % 2 ^ 32) r.fields = w at ha
  have hi := exec_registerWrite_of_plain (s := s) (dt := dt) v (by rw [hm]; rfl) hh h4 hb ho
  rw [ha] at hi
  refine act_does hi fun t ht => ?_
  have he : t.dev = (s.now dt).withRegs w.regs rs := by
    refine ht.trans (settle_eq_of_posStatus (fun g hg => ?_) rfl (by simp [hm]) rfl)
    rw [get_withRegs, ← hw]
    exact get_writeFields_posStatus _ hr h4 g hg
  refine ⟨?_, by rw [he]; rfl, fun f hf => ?_⟩
  · rw [he]
    refine ⟨rfl, fun k _ hk => ?_⟩
    change kvGet w.regs k = kvGet (s.now dt).regs k
    rw [← hw]
    refine kvGet_writeFields _ _ _ _ fun f hf he => absurd hk ?_
    have := regAt_field_fits hr hf
    rw [key_at] at he
    simp only [decide_eq_false_iff_not, Classical.not_not]
    omega
  · refine fldWritten_word (regAt_field_fits hr hf).2 ?_
    have h := fldWritten_writeFields (d := s.now dt) hm hc off (v % 2 ^ 32) (regAt_fields_distinct hr) f hf
    exact h.congr rfl (by rw [he, get_withRegs, hw])

/-! ## A write struck in transport -/

/-- The count of parity strikes is none of the fields of the Event ring. -/
theorem listens_bump_parity (d : Dev) : (d.bump Reg.MEM_PARITY.REG).listens = d.listens := by
  have key : ∀ g : Fld, g.off < 0xC0000 → g.lo < 32 → (d.bump Reg.MEM_PARITY.REG).get g = d.get g := fun g ho hl =>
    Dev.get_put_of_ne d _ (by unfold Fld.key; simp only [Reg.MEM_PARITY.REG]; omega)
  refine listens_congr rfl rfl rfl fun n hn => ⟨key _ ?_ ?_, key _ ?_ ?_, key _ ?_ ?_, key _ ?_ ?_, key _ ?_ ?_⟩ <;>
    simp only [Reg.HOST_RING_CFG_n.EN, Reg.HOST_RING_CFG_n.KIND, Reg.HOST_RING_STAT_n.STOPPED, Reg.HOST_RING_CONS_n.CONS,
      Reg.HOST_RING_CONS_n.PROD] <;> omega

/-- A struck write is counted and posted, and does nothing else. -/
theorem exec_registerWrite_of_parity {s : State} {dt off : Nat} (v : Nat) (hm : s.dev.mode ≠ .off) (h4 : off % 4 = 0) (hb : off < 0x100000) :
    exec (.registerWrite dt off v true) s = s.act dt fun _ =>
      ((s.now dt).bump Reg.MEM_PARITY.REG).postAt 0xC004 sevFault [1, off] ((s.now dt).loc 0 0 0 0 0 0) := by
  rw [exec_registerWrite, execRegisterWrite]
  exact act_congr ((if_neg (not_or.mpr ⟨hm, by omega⟩)).trans (if_pos rfl))

theorem registerWrite_parity (s : State) (dt off v : Nat) (hm : s.dev.mode ≠ .off) (h4 : off % 4 = 0) (hb : off < 0x100000) :
    Leaves (.registerWrite dt off v true) s ((s.now dt).bump Reg.MEM_PARITY.REG) fun t => Tells (s.now dt) t 0xC004 [1, off] := by
  refine act_leaves (exec_registerWrite_of_parity v hm h4 hb) (quiet_postAt _ _ _ _ _).1 ?_ (modeEdge_refl _) fun t ht =>
    tells_of_act (e := (s.now dt).bump Reg.MEM_PARITY.REG) (listens_bump_parity _) rfl rfl ht
  unfold Dev.on Dev.bump Dev.bumpBy
  rw [Dev.get_put_of_ne _ _ (by decide)]
  exact id

/-! ## What an access is answered with -/

/-- What is sent after quiet changes is among what has been sent since. -/
theorem sent_mem_drop {d e : Dev} {o : Output} (h : d.out <+: e.out) : o ∈ (e.send o).out.drop d.out.length := by
  obtain ⟨l, hl⟩ := h
  rw [Dev.out_send, ← hl, List.append_assoc, List.drop_left]
  simp


/-- A read struck in transport is counted and posted before its answer leaves. -/
def Dev.struck (d : Dev) (parity : Bool) (off : Nat) : Dev :=
  if parity then (d.bump Reg.MEM_PARITY.REG).postAt 0xC004 sevFault [2, off] (d.loc 0 0 0 0 0 0) else d

theorem exec_badAccess (dt space off len : Nat) (write parity : Bool) (s : State) :
    exec (.badAccess dt space off len write parity) s = execBadAccess dt space off len write parity s := rfl

section
variable {s : State} {dt off len : Nat} {parity : Bool}

theorem exec_badAccess_of_write (hm : s.dev.mode ≠ .off) (hb : off < 0x100000) (hw : ¬(len = 4 ∧ off % 4 = 0)) :
    exec (.badAccess dt 0 off len true parity) s = s.act dt fun _ => (s.now dt).post 0x0005 sevWarn [off, len, 1] := by
  rw [exec_badAccess, execBadAccess]
  exact act_congr (by simp [State.now, hm, hw, Nat.not_le.mpr hb])

theorem exec_badAccess_of_unsupported (hm : s.dev.mode ≠ .off) (hb : off < 0x100000) (hr : readOk off len = false) :
    exec (.badAccess dt 0 off len false parity) s =
      s.act dt fun _ => ((s.now dt).post 0x0005 sevWarn [off, len, 0]).send (.readAnswer 0 off 1 false []) := by
  rw [exec_badAccess, execBadAccess]
  exact act_congr (by simp [State.now, hm, hr, Nat.not_le.mpr hb])

theorem exec_badAccess_of_dead (hm : s.dev.mode ≠ .off) (hb : off < 0x100000) (hr : readOk off len = true)
    (hd : (s.now dt).bar0Dead = true) :
    exec (.badAccess dt 0 off len false parity) s = s.act dt fun _ => (s.now dt).send (.readAnswer 0 off 4 false []) := by
  rw [exec_badAccess, execBadAccess]
  exact act_congr (by simp [show (s.now dt).mode ≠ .off from hm, hr, hd, Nat.not_le.mpr hb])

theorem exec_badAccess_of_read (hm : s.dev.mode ≠ .off) (hb : off < 0x100000) (hr : readOk off len = true)
    (hd : (s.now dt).bar0Dead = false) : exec (.badAccess dt 0 off len false parity) s = s.act dt fun _ =>
      (((s.now dt).hostWords off (len / 4)).2.struck parity off).send (.readAnswer 0 off 0 parity ((s.now dt).hostWords off (len / 4)).1) := by
  rw [exec_badAccess, execBadAccess]
  exact act_congr (by simp [show (s.now dt).mode ≠ .off from hm, hr, hd, Nat.not_le.mpr hb, Dev.struck])

theorem exec_badAccess_of_bar2 (hm : s.dev.mode ≠ .off) (hb : off < 0x10000) (hr : readOk off len = true) :
    exec (.badAccess dt 1 off len false parity) s = s.act dt fun _ =>
      (s.now dt).send (.readAnswer 1 off 0 false ((List.range (len / 4)).map fun i => s.dev.bar2Word (off + 4 * i))) := by
  rw [exec_badAccess, execBadAccess]
  exact act_congr (by simp [show (s.now dt).mode ≠ .off from hm, hr, Nat.not_le.mpr hb]; rfl)

theorem exec_badAccess_of_retry {space : Nat} (hm : s.dev.mode ≠ .off) (hs : 2 ≤ space) (hc : (s.now dt).svc.configOk = false) :
    exec (.badAccess dt space off len false parity) s = s.act dt fun _ => (s.now dt).send (.readAnswer space off 2 false []) := by
  rw [exec_badAccess, execBadAccess]
  exact act_congr (by simp [show (s.now dt).mode ≠ .off from hm, hc, show space ≠ 0 by omega, show space ≠ 1 by omega])

theorem exec_badAccess_of_config {space w : Nat} (hm : s.dev.mode ≠ .off) (hs : 2 ≤ space) (h4 : off % 4 = 0) (hb : off < 4096)
    (hc : (s.now dt).svc.configOk = true) (hw : (s.now dt).configWord space off = some w) :
    exec (.badAccess dt space off 4 false parity) s = s.act dt fun _ => (s.now dt).send (.readAnswer space off 0 false [w]) := by
  rw [exec_badAccess, execBadAccess]
  exact act_congr (by
    simp [show (s.now dt).mode ≠ .off from hm, hc, h4, hb, hw, show space ≠ 0 by omega, show space ≠ 1 by omega])

end

/-- A command that sends an output, with no other effect. -/
theorem act_sends {s : State} {dt : Nat} {i : Instr} {o : Output} (hm : s.dev.mode ≠ .off)
    (hi : exec i s = s.act dt fun _ => (s.now dt).send o) : Leaves i s (s.now dt) fun t => t.dev.out = s.dev.out ++ [o] := by
  refine act_leaves hi (same_send _ _) id (modeEdge_refl _) fun t ht => ?_
  have he : s.dev.settle dt ((s.now dt).send o) = (s.now dt).send o := settle_eq_of_posStatus (fun _ _ => rfl) rfl hm rfl
  rw [ht, he]
  rfl

theorem badWrite_posts (s : State) (dt off len : Nat) (parity : Bool) (hm : s.dev.mode ≠ .off) (hb : off < 0x100000)
    (hw : ¬(len = 4 ∧ off % 4 = 0)) :
    Leaves (.badAccess dt 0 off len true parity) s (s.now dt) fun t => Tells (s.now dt) t 0x0005 [off, len, 1] :=
  act_leaves (exec_badAccess_of_write hm hb hw) (quiet_post _ _ _ _).1 id (modeEdge_refl _) fun _ ht =>
    tells_of_act (e := s.now dt) rfl rfl rfl ht

theorem badRead_posts (s : State) (dt off len : Nat) (parity : Bool) (hm : s.dev.mode ≠ .off) (hb : off < 0x100000)
    (hr : readOk off len = false) :
    Leaves (.badAccess dt 0 off len false parity) s (s.now dt) fun t =>
      Tells (s.now dt) t 0x0005 [off, len, 0] ∧ Output.readAnswer 0 off 1 false [] ∈ t.dev.out.drop s.dev.out.length := by
  have q := quiet_post (s.now dt) 0x0005 sevWarn [off, len, 0]
  refine act_leaves (exec_badAccess_of_unsupported hm hb hr) (q.trans (quiet_send _ _)).1 id (modeEdge_refl _) fun t ht => ?_
  have hp := ht ▸ out_prefix_settle s.dev (((s.now dt).post 0x0005 sevWarn [off, len, 0]).send (.readAnswer 0 off 1 false [])) dt
  exact ⟨tells_of_postAt (e := s.now dt) rfl rfl rfl ((quiet_send _ _).2.trans hp), mem_drop_of_prefix hp (sent_mem_drop q.2)⟩

/-! ### The words of a read -/

/-- The device after reads of BAR0: free values have been drawn, mailbox characters taken. -/
def Dev.afterReads (d : Dev) (k : Nat) (q : List Nat) : Dev := { d with free := k, svc := { d.svc with outq := q } }

theorem readReg_leaves (d : Dev) (off : Nat) : ∃ k q, (d.readReg off).2 = d.afterReads k q := by
  unfold Dev.readReg
  split
  · exact ⟨_, _, rfl⟩
  split
  · exact ⟨_, _, rfl⟩
  split
  · exact ⟨_, _, rfl⟩
  split
  · exact ⟨_, d.svc.outq, rfl⟩
  dsimp only
  split
  · exact ⟨d.free, _, rfl⟩
  · exact ⟨_, _, rfl⟩

theorem hostWords_leaves (d : Dev) (off n : Nat) : ∃ k q, (d.hostWords off n).2 = d.afterReads k q := by
  unfold Dev.hostWords
  dsimp only
  generalize List.range n = l
  induction l generalizing d with
  | nil => exact ⟨_, _, rfl⟩
  | cons i l ih =>
    obtain ⟨k, q, h⟩ := readReg_leaves d (off + 4 * i)
    rw [List.foldl_cons, h]
    obtain ⟨k', q', h'⟩ := ih (d.afterReads k q)
    exact ⟨k', q', h'⟩

theorem hostWords_words (d : Dev) (off n : Nat) : (d.hostWords off n).1 = (List.range n).map fun i => (d.readReg (off + 4 * i)).1 := rfl

theorem listens_afterReads (d : Dev) (k : Nat) (q : List Nat) : (d.afterReads k q).listens = d.listens :=
  listens_congr rfl rfl rfl fun _ _ => ⟨rfl, rfl, rfl, rfl, rfl⟩

theorem struck_true (d : Dev) (off : Nat) :
    d.struck true off = (d.bump Reg.MEM_PARITY.REG).postAt 0xC004 sevFault [2, off] (d.loc 0 0 0 0 0 0) := if_pos rfl

theorem out_prefix_struck (d : Dev) (parity : Bool) (off : Nat) : d.out <+: (d.struck parity off).out := by
  unfold Dev.struck
  split
  · exact (quiet_postAt (d.bump Reg.MEM_PARITY.REG) _ _ _ _).2
  · exact List.prefix_refl _

theorem read_answers (s : State) (dt off len : Nat) (parity : Bool) (hm : s.dev.mode ≠ .off) (hb : off < 0x100000)
    (hr : readOk off len = true) (hd : s.dev.bar0Dead = false) :
    Does (.badAccess dt 0 off len false parity) s fun t =>
      Output.readAnswer 0 off 0 parity ((List.range (len / 4)).map fun i => ((s.now dt).readReg (off + 4 * i)).1)
        ∈ t.dev.out.drop s.dev.out.length
      ∧ (parity = true → Tells (s.now dt) t 0xC004 [2, off]) := by
  obtain ⟨k, q, he⟩ := hostWords_leaves (s.now dt) off (len / 4)
  have hi := exec_badAccess_of_read (s := s) (dt := dt) (parity := parity) hm hb hr hd
  rw [he, hostWords_words] at hi
  refine act_does hi fun t ht => ?_
  have hp := out_prefix_settle s.dev ((((s.now dt).afterReads k q).struck parity off).send (.readAnswer 0 off 0 parity
    ((List.range (len / 4)).map fun i => ((s.now dt).readReg (off + 4 * i)).1))) dt
  rw [← ht] at hp
  refine ⟨mem_drop_of_prefix hp (sent_mem_drop (out_prefix_struck ((s.now dt).afterReads k q) parity off)), fun hpar => ?_⟩
  have hs : (((s.now dt).afterReads k q).struck parity off).out <+: t.dev.out := (quiet_send _ _).2.trans hp
  rw [hpar, struck_true] at hs
  exact tells_of_postAt (e := ((s.now dt).afterReads k q).bump Reg.MEM_PARITY.REG)
    ((listens_bump_parity _).trans (listens_afterReads _ _ _)) rfl rfl hs

/-- Settles O19: a write that takes effect, a write struck in transport, and the accesses to each space. -/
theorem registerWritesInSetup : Obligations.RegisterWritesInSetup := by
  unfold Obligations.RegisterWritesInSetup
  refine ⟨registerWrite_in_setup, registerWrite_parity, fun s dt off len parity hm hb => ⟨?_, ?_, fun hr hd => ?_, ?_⟩,
    fun s dt off len parity hm hb hr => ?_, fun s dt space off w parity hm hs h4 hb => ⟨fun hc => ?_, fun hc hw => ?_⟩⟩
  · exact badWrite_posts s dt off len parity hm hb
  · exact badRead_posts s dt off len parity hm hb
  · exact act_sends hm (exec_badAccess_of_dead hm hb hr hd)
  · exact read_answers s dt off len parity hm hb
  · exact act_sends hm (exec_badAccess_of_bar2 hm hb hr)
  · exact act_sends hm (exec_badAccess_of_retry hm hs hc)
  · exact act_sends hm (exec_badAccess_of_config hm hs h4 hb hc hw)

end Sys2Proof.Machine
end
